-- ==== Sys2Proof/Word.lean ====
section
/-! DEFINITION. The word types of the AD8 (R9, R15, R70) and the table type used for sparse numbered things. -/

namespace Sys2Proof

/-- A 32-bit word: an instruction, or one lane of a `v` register (R18, R70). -/
abbrev Word := BitVec 32

/-- A 64-bit value: a `k` or `s` register (R15). -/
abbrev DWord := BitVec 64

/-- One byte of memory. -/
abbrev Byte := BitVec 8

/-- The 7-bit number of a register operand field (R15). Its meaning depends on the context. -/
abbrev RegNum := BitVec 7

/-- A 57-bit virtual address (R139, R244). -/
abbrev Addr := BitVec 57

/-- One row of a register file, or one queue entry: 32 lanes of 32 bits, lane 0 first (R18, R23). -/
abbrev Row := List Word

/-- A finite table of numbered things: pairs of number and content, numbers rising. What an
unlisted number holds is said where the table is read. -/
abbrev Tab (α : Type) := List (Nat × α)

end Sys2Proof
end

