-- ==== Sys2Proof/Syntax.lean ====
section
/-! DEFINITION. The instructions and steps of the AD8: one constructor for each row of the opcode table.
The encoded rows carry the fields of their word (R70, R74). The event rows (R-numbers at each
constructor) name the pending item of the state they act on, or carry the outside stimulus. -/

namespace Sys2Proof

/-- A context that runs instructions (R13). `team` is a team's key: 64 times its home global core
plus the slot of its directory entry there (R272, R273). -/
inductive Ctx where
  /-- a split of a group -/
  | group (team g split : Nat)
  /-- the sequencer that a team owns (R217) -/
  | seq (team : Nat)
  /-- the host core of a column -/
  | host (col : Nat)
  deriving DecidableEq, Repr

/-- What the device chooses when it places one team of a cluster (R245, R273, R293): the vault offset
in bytes, the directory slot and the save-record address. A choice that does not fit is no placement. -/
structure PlaceChoice where
  /-- offset of the vault allocation in its segment -/
  voff : Nat
  /-- directory slot of a new team -/
  slot : Nat
  /-- physical address of the save record of a new team; 0 for a job with no pool -/
  save : Nat
  /-- first entries of the physical bank map, one for each allocated logical bank in rising order -/
  banks : List Nat
  deriving DecidableEq, Repr

/-- One island's measurement over a window (R334): cycles, busy cycles, stall cycles. -/
structure Activity where
  /-- island cycles of the window -/
  cycles : Nat
  /-- cycles in which work was accepted or advanced -/
  busy : Nat
  /-- cycles held by a clock-crossing queue -/
  stall : Nat
  deriving DecidableEq, Repr

/-- What a scrub finds in an entry, line or word (R346, R351). -/
inductive ScrubResult where
  /-- no error -/
  | clean
  /-- a correctable error with its syndrome bits, corrected -/
  | corrected (syndrome : DWord)
  /-- an uncorrectable error with its syndrome bits -/
  | uncorrectable (syndrome : DWord)
  deriving DecidableEq, Repr

/-- What the scrub of vaults, slices and accumulators reads (R351). -/
inductive ScrubSite where
  /-- a vault line, by physical line number -/
  | vault (line : Nat)
  /-- a slice line of a column, by physical line number -/
  | slice (col line : Nat)
  /-- a word of an allocated accumulator bank of a team -/
  | accum (team bank word : Nat)
  deriving DecidableEq, Repr

/-- A Sahlin datagram as received (R322): header fields, whether the tag verified under the current
or the previous key of the pair, and the ECN mark. -/
structure Datagram where
  /-- the 256 header bits -/
  header : BitVec 256
  /-- the payload bytes -/
  payload : List Byte
  /-- the tag verifies under the current key of the pair of pods -/
  tagCurrent : Bool
  /-- the tag verifies under the previous key -/
  tagPrevious : Bool
  /-- the packet carries an IPv6 ECN mark -/
  ecn : Bool
  deriving DecidableEq, Repr

/-- A host request at a PCIe/CXL port (R324, R325). -/
inductive PcieReq where
  /-- read of `len` bytes at a BAR offset -/
  | read (bar : Nat) (off len : Nat)
  /-- write of bytes at a BAR offset -/
  | write (bar : Nat) (off : Nat) (bytes : List Byte)
  /-- CXL.mem read of a line of HBM -/
  | memRead (pa : Nat)
  /-- CXL.mem write of a line of HBM -/
  | memWrite (pa : Nat) (bytes : List Byte)
  /-- write by a device behind the port into HBM, such as a drive's data or completion entry -/
  | deviceWrite (pa : Nat) (bytes : List Byte)
  /-- read by a device behind the port of bytes in HBM, such as a submission entry or a buffer -/
  | deviceRead (pa : Nat) (len : Nat)
  /-- CXL.cache: the host takes back a line of its memory -/
  | takeBack (pa : Nat)
  /-- the host enables, or not, MSI-X for the events of a column's host core -/
  | msixEnable (col : Nat) (on : Bool)
  deriving DecidableEq, Repr

/-- An SPDM 1.3 request (R354). -/
inductive SpdmReq where
  /-- GET_VERSION -/
  | getVersion
  /-- GET_CAPABILITIES -/
  | getCapabilities
  /-- NEGOTIATE_ALGORITHMS -/
  | negotiateAlgorithms
  /-- GET_DIGESTS -/
  | getDigests
  /-- GET_CERTIFICATE -/
  | getCertificate
  /-- CHALLENGE -/
  | challenge
  /-- GET_MEASUREMENTS of one index -/
  | getMeasurements (index : Nat)
  /-- KEY_EXCHANGE -/
  | keyExchange
  /-- FINISH -/
  | finish
  /-- key update, mutual authentication, encapsulated requests: not used -/
  | other
  deriving DecidableEq, Repr

/-- The rows of spec/opcode_table.json. Fields keep the letters of the table. -/
inductive Instr where
  /-- R88: Adds two operands with wrap, signed saturation or unsigned saturation. -/
  | add (d : RegNum) (a : RegNum) (b : RegNum) (w : Bool) (s : BitVec 3)
  /-- R88: Subtracts b from a with wrap, signed saturation or unsigned saturation. -/
  | sub (d : RegNum) (a : RegNum) (b : RegNum) (w : Bool) (s : BitVec 3)
  /-- R89: Writes the low half of the product of a and b. -/
  | mul (d : RegNum) (a : RegNum) (b : RegNum) (w : Bool)
  /-- R89: Writes the high half of the signed product. -/
  | mulh (d : RegNum) (a : RegNum) (b : RegNum) (w : Bool)
  /-- R89: Writes the high half of the unsigned product. -/
  | mulhU (d : RegNum) (a : RegNum) (b : RegNum) (w : Bool)
  /-- R89: Writes the low half of a times b plus d. -/
  | mad (d : RegNum) (a : RegNum) (b : RegNum) (w : Bool)
  /-- R90: Writes the signed lesser of a and b. -/
  | min (d : RegNum) (a : RegNum) (b : RegNum) (w : Bool)
  /-- R90: Writes the signed greater of a and b. -/
  | max (d : RegNum) (a : RegNum) (b : RegNum) (w : Bool)
  /-- R90: Writes the unsigned lesser of a and b. -/
  | minU (d : RegNum) (a : RegNum) (b : RegNum) (w : Bool)
  /-- R90: Writes the unsigned greater of a and b. -/
  | maxU (d : RegNum) (a : RegNum) (b : RegNum) (w : Bool)
  /-- R90: Writes the signed absolute value of a. -/
  | abs (d : RegNum) (a : RegNum) (w : Bool)
  /-- R90: Writes the number of 1 bits in a. -/
  | popc (d : RegNum) (a : RegNum) (w : Bool)
  /-- R90: Writes the number of leading zero bits in a. -/
  | clz (d : RegNum) (a : RegNum) (w : Bool)
  /-- R90: Writes a with its bit order reversed. -/
  | brev (d : RegNum) (a : RegNum) (w : Bool)
  /-- R91: Writes the bitwise AND of a and b. -/
  | and (d : RegNum) (a : RegNum) (b : RegNum) (w : Bool)
  /-- R91: Writes the bitwise OR of a and b. -/
  | or (d : RegNum) (a : RegNum) (b : RegNum) (w : Bool)
  /-- R91: Writes the bitwise XOR of a and b. -/
  | xor (d : RegNum) (a : RegNum) (b : RegNum) (w : Bool)
  /-- R91: Writes a AND NOT b. -/
  | andn (d : RegNum) (a : RegNum) (b : RegNum) (w : Bool)
  /-- R92: Shifts a left by the amount in b. -/
  | shl (d : RegNum) (a : RegNum) (b : RegNum) (w : Bool)
  /-- R92: Shifts a right with zero fill. -/
  | shr (d : RegNum) (a : RegNum) (b : RegNum) (w : Bool)
  /-- R92: Shifts a right with sign fill. -/
  | sar (d : RegNum) (a : RegNum) (b : RegNum) (w : Bool)
  /-- R92: Rotates a left by b mod W. -/
  | rot (d : RegNum) (a : RegNum) (b : RegNum) (w : Bool)
  /-- R93: Extracts a bit field of a, unsigned or sign-extended. -/
  | bfx (d : RegNum) (a : RegNum) (b : RegNum) (w : Bool) (s : Bool)
  /-- R93: Inserts the low bits of a into a field of d. -/
  | bfi (d : RegNum) (a : RegNum) (b : RegNum) (w : Bool)
  /-- R96: Writes a or b per lane according to a predicate. -/
  | sel (d : RegNum) (a : RegNum) (b : RegNum) (w : Bool) (p : BitVec 3)
  /-- R97: Compares signed operands and writes a predicate. -/
  | cmp (p : BitVec 3) (a : RegNum) (b : RegNum) (w : Bool) (c : BitVec 3)
  /-- R97: Compares unsigned operands and writes a predicate. -/
  | cmpU (p : BitVec 3) (a : RegNum) (b : RegNum) (w : Bool) (c : BitVec 3)
  /-- R94: Writes a plus b shifted left by sh. -/
  | lea (d : RegNum) (a : RegNum) (b : RegNum) (w : Bool) (s : BitVec 3)
  /-- R95: Signed division truncated toward zero. -/
  | div (d : RegNum) (a : RegNum) (b : RegNum) (w : Bool)
  /-- R95: Unsigned division. -/
  | divU (d : RegNum) (a : RegNum) (b : RegNum) (w : Bool)
  /-- R95: Signed remainder with the sign of a. -/
  | rem (d : RegNum) (a : RegNum) (b : RegNum) (w : Bool)
  /-- R95: Unsigned remainder. -/
  | remU (d : RegNum) (a : RegNum) (b : RegNum) (w : Bool)
  /-- R98: Adds a sign-extended immediate. -/
  | addi (d : RegNum) (a : RegNum) (i : BitVec 11)
  /-- R98: ANDs a sign-extended immediate. -/
  | andi (d : RegNum) (a : RegNum) (i : BitVec 11)
  /-- R98: ORs a sign-extended immediate. -/
  | ori (d : RegNum) (a : RegNum) (i : BitVec 11)
  /-- R98: XORs a sign-extended immediate. -/
  | xori (d : RegNum) (a : RegNum) (i : BitVec 11)
  /-- R98: Shifts left by an immediate amount. -/
  | shli (d : RegNum) (a : RegNum) (n : BitVec 6)
  /-- R99: Writes a sign-extended 18-bit immediate. -/
  | movi (d : RegNum) (i : BitVec 18)
  /-- R99: Shifts d left by 18 and ORs an unsigned immediate. -/
  | movh (d : RegNum) (i : BitVec 18)
  /-- R101: Moves every active lane to the PC-relative target. -/
  | br (o : BitVec 21)
  /-- R101: Branches on a predicate, diverging the split when lanes disagree. -/
  | bp (n : Bool) (p : BitVec 3) (o : BitVec 21)
  /-- R102: Writes the return address and moves to the target. -/
  | call (o : BitVec 21)
  /-- R103: Jumps each lane to the address in a, dividing by target. -/
  | jr (a : RegNum)
  /-- R102: Jumps through the return address register. -/
  | ret
  /-- R109: Opens a hardware loop with the count from a register. -/
  | loop (a : RegNum) (l : BitVec 8)
  /-- R109: Opens a hardware loop with an immediate count. -/
  | loopI (n : BitVec 10) (l : BitVec 8)
  /-- R105: Ends the issuing split, or the sequencer. -/
  | exit
  /-- R106: Raises the breakpoint cause. -/
  | brk (c : BitVec 21)
  /-- R106: Raises the trap cause. -/
  | trap (c : BitVec 21)
  /-- R123: FP32 addition, rounded once. -/
  | fadd (d : RegNum) (a : RegNum) (b : RegNum) (s : Bool) (r : BitVec 2)
  /-- R123: FP32 subtraction, rounded once. -/
  | fsub (d : RegNum) (a : RegNum) (b : RegNum) (s : Bool) (r : BitVec 2)
  /-- R123: FP32 multiplication, rounded once. -/
  | fmul (d : RegNum) (a : RegNum) (b : RegNum) (s : Bool) (r : BitVec 2)
  /-- R124: FP32 fused multiply-add into d. -/
  | fma (d : RegNum) (a : RegNum) (b : RegNum) (s : Bool) (r : BitVec 2)
  /-- R126: Returns the lesser FP32 operand. -/
  | fmin (d : RegNum) (a : RegNum) (b : RegNum)
  /-- R126: Returns the greater FP32 operand. -/
  | fmax (d : RegNum) (a : RegNum) (b : RegNum)
  /-- R127: Compares FP32 operands and writes a predicate. -/
  | fcmp (p : BitVec 3) (a : RegNum) (b : RegNum) (c : BitVec 3)
  /-- R123: FP32 division, correctly rounded. -/
  | fdiv (d : RegNum) (a : RegNum) (b : RegNum) (s : Bool) (r : BitVec 2)
  /-- R125: FP32 square root, correctly rounded. -/
  | fsqrt (d : RegNum) (a : RegNum) (s : Bool) (r : BitVec 2)
  /-- R125: FP32 reciprocal, correctly rounded. -/
  | frcp (d : RegNum) (a : RegNum) (s : Bool) (r : BitVec 2)
  /-- R128: Packed BF16x2 or FP16x2 addition. -/
  | hadd2 (d : RegNum) (a : RegNum) (b : RegNum) (k : Bool) (s : Bool) (r : BitVec 2)
  /-- R128: Packed BF16x2 or FP16x2 multiplication. -/
  | hmul2 (d : RegNum) (a : RegNum) (b : RegNum) (k : Bool) (s : Bool) (r : BitVec 2)
  /-- R128: Packed half-width fused multiply-add. -/
  | hfma2 (d : RegNum) (a : RegNum) (b : RegNum) (k : Bool) (s : Bool) (r : BitVec 2)
  /-- R130: Converts one value between the format codes of R50. -/
  | cvt (d : RegNum) (a : RegNum) (t : BitVec 4) (e : BitVec 4) (s : Bool) (r : BitVec 2)
  /-- R132: Decodes or encodes one scaled E2M1 element against the scales in b. -/
  | cvts (d : RegNum) (a : RegNum) (b : RegNum) (x : Bool) (s : Bool) (r : BitVec 2)
  /-- R129: FP32 base-2 exponential. -/
  | fexp2 (d : RegNum) (a : RegNum)
  /-- R129: FP32 base-2 logarithm. -/
  | flog2 (d : RegNum) (a : RegNum)
  /-- R129: FP32 sine. -/
  | fsin (d : RegNum) (a : RegNum)
  /-- R129: FP32 cosine. -/
  | fcos (d : RegNum) (a : RegNum)
  /-- R129: FP32 hyperbolic tangent. -/
  | ftanh (d : RegNum) (a : RegNum)
  /-- R129: FP32 logistic sigmoid. -/
  | fsig (d : RegNum) (a : RegNum)
  /-- R129: FP32 reciprocal square root. -/
  | frsq (d : RegNum) (a : RegNum)
  /-- R129: BF16 base-2 exponential. -/
  | fexp2Bf (d : RegNum) (a : RegNum)
  /-- R129: BF16 base-2 logarithm. -/
  | flog2Bf (d : RegNum) (a : RegNum)
  /-- R129: BF16 sine. -/
  | fsinBf (d : RegNum) (a : RegNum)
  /-- R129: BF16 cosine. -/
  | fcosBf (d : RegNum) (a : RegNum)
  /-- R129: BF16 hyperbolic tangent. -/
  | ftanhBf (d : RegNum) (a : RegNum)
  /-- R129: BF16 logistic sigmoid. -/
  | fsigBf (d : RegNum) (a : RegNum)
  /-- R129: BF16 reciprocal square root. -/
  | frsqBf (d : RegNum) (a : RegNum)
  /-- R129: FP16 base-2 exponential. -/
  | fexp2Hf (d : RegNum) (a : RegNum)
  /-- R129: FP16 base-2 logarithm. -/
  | flog2Hf (d : RegNum) (a : RegNum)
  /-- R129: FP16 sine. -/
  | fsinHf (d : RegNum) (a : RegNum)
  /-- R129: FP16 cosine. -/
  | fcosHf (d : RegNum) (a : RegNum)
  /-- R129: FP16 hyperbolic tangent. -/
  | ftanhHf (d : RegNum) (a : RegNum)
  /-- R129: FP16 logistic sigmoid. -/
  | fsigHf (d : RegNum) (a : RegNum)
  /-- R129: FP16 reciprocal square root. -/
  | frsqHf (d : RegNum) (a : RegNum)
  /-- R135: Evaluates the piecewise-linear function of the current activation-table bank. -/
  | tbl (d : RegNum) (a : RegNum) (f : BitVec 2)
  /-- R136: Fills the non-current activation-table bank from memory. -/
  | tblld (a : RegNum) (b : RegNum)
  /-- R137: Makes the non-current bank current, and starts the old bank draining. -/
  | tblsw
  /-- R115: Summarises a predicate over the contributing lanes of each tile. -/
  | vote (d : RegNum) (p : BitVec 3) (k : BitVec 4)
  /-- R116: Moves values between the lanes of one tile. -/
  | shfl (d : RegNum) (a : RegNum) (b : RegNum) (k : BitVec 4)
  /-- R117: Reduces the contributing lanes' values. -/
  | red (d : RegNum) (a : RegNum) (o : BitVec 3)
  /-- R118: Writes an inclusive or exclusive prefix combination in each tile. -/
  | scan (d : RegNum) (a : RegNum) (x : Bool) (o : BitVec 3)
  /-- R119: Sets the partition code of the group. -/
  | part (n : BitVec 3)
  /-- R120: Writes the issuing split's mask. -/
  | lmask (d : RegNum)
  /-- R100: Predicate AND. -/
  | pand (d : BitVec 3) (a : BitVec 3) (b : BitVec 3)
  /-- R100: Predicate OR. -/
  | por (d : BitVec 3) (a : BitVec 3) (b : BitVec 3)
  /-- R100: Predicate XOR. -/
  | pxor (d : BitVec 3) (a : BitVec 3) (b : BitVec 3)
  /-- R100: Predicate NOT. -/
  | pnot (d : BitVec 3) (a : BitVec 3)
  /-- R144: Relaxed load of each active lane from global memory. -/
  | ld (d : RegNum) (a : RegNum) (z : BitVec 3) (o : BitVec 8)
  /-- R144: Relaxed store of each active lane to global memory. -/
  | st (d : RegNum) (a : RegNum) (z : BitVec 3) (o : BitVec 8)
  /-- R148: Acquire load at a scope. -/
  | ldAcq (d : RegNum) (a : RegNum) (z : BitVec 3) (c : BitVec 3)
  /-- R148: Sequentially consistent load at a scope. -/
  | ldSc (d : RegNum) (a : RegNum) (z : BitVec 3) (c : BitVec 3)
  /-- R148: Release store at a scope. -/
  | stRel (d : RegNum) (a : RegNum) (z : BitVec 3) (c : BitVec 3)
  /-- R148: Sequentially consistent store at a scope. -/
  | stSc (d : RegNum) (a : RegNum) (z : BitVec 3) (c : BitVec 3)
  /-- R154: Typed load that decodes one element by its page's format codes. -/
  | ldt (d : RegNum) (a : RegNum) (b : RegNum) (x : Bool)
  /-- R150: Load through the non-coherent read-only cache. -/
  | ldro (d : RegNum) (a : RegNum) (z : BitVec 3) (o : BitVec 8)
  /-- R152: Load from vault space. -/
  | ldv (d : RegNum) (a : RegNum) (z : BitVec 3) (o : BitVec 8)
  /-- R152: Store to vault space. -/
  | stv (d : RegNum) (a : RegNum) (z : BitVec 3) (o : BitVec 8)
  /-- R153: Vault store whose bytes count toward a vault gauge. -/
  | stvG (d : RegNum) (a : RegNum) (b : RegNum) (z : BitVec 3)
  /-- R157: Prefetches a line to the L1 or its home slice. -/
  | pf (l : BitVec 2) (a : RegNum) (i : BitVec 11)
  /-- R158: Cleans, invalidates or read-only-invalidates cache lines. -/
  | cctl (a : RegNum) (o : BitVec 4)
  /-- R149: Orders accesses at a scope, optionally invalidating the read-only cache. -/
  | fence (o : BitVec 4) (x : Bool) (c : BitVec 3)
  /-- R146: Holds the split until the outstanding load and store counts fall to limits. -/
  | waitc (l : BitVec 6) (s : BitVec 6)
  /-- R155: 32-bit atomic read-modify-write returning the old value. -/
  | atom (d : RegNum) (a : RegNum) (b : RegNum) (o : BitVec 4)
  /-- R155: 64-bit atomic read-modify-write. -/
  | atomD (d : RegNum) (a : RegNum) (b : RegNum) (o : BitVec 4)
  /-- R168: 32-bit atomic on a peer package address. -/
  | atomp (d : RegNum) (a : RegNum) (b : RegNum) (o : BitVec 4)
  /-- R168: 64-bit atomic on a peer package address. -/
  | atompD (d : RegNum) (a : RegNum) (b : RegNum) (o : BitVec 4)
  /-- R168: Load from a peer package address. -/
  | ldp (d : RegNum) (a : RegNum) (z : BitVec 3) (o : BitVec 8)
  /-- R168: Store to a peer package address. -/
  | stp (d : RegNum) (a : RegNum) (z : BitVec 3) (o : BitVec 8)
  /-- R174: Sends a put into registers named by a capability. -/
  | rput (n : BitVec 4) (t : BitVec 3) (a : RegNum) (b : RegNum) (x : Bool) (y : Bool) (z : Bool)
  /-- R176: Sends a put into a vault that counts toward a gauge. -/
  | rputG (n : BitVec 4) (t : BitVec 3) (a : RegNum) (b : RegNum) (x : Bool) (y : Bool) (z : Bool)
  /-- R173: Places registers in the armed-empty state. -/
  | arm (d : RegNum) (q : Bool) (n : BitVec 5)
  /-- R173: Returns registers to the plain state. -/
  | disarm (d : RegNum) (n : BitVec 5)
  /-- R171: Sends an active message to a team's q4. -/
  | msgs (d : RegNum) (a : RegNum) (b : RegNum) (t : BitVec 3)
  /-- R163: Mints a capability for the issuing team. -/
  | capmk (d : RegNum) (a : RegNum)
  /-- R164: Checks a capability locally. -/
  | capck (d : RegNum) (a : RegNum)
  /-- R172: Retires the held message and counts it in CON. -/
  | msgd
  /-- R177: Waits for a quiet decision of the slack wave. -/
  | waitq (d : RegNum)
  /-- R179: Sets a barrier's expected count and clears its arrivals. -/
  | barInit (a : RegNum) (n : BitVec 8)
  /-- R180: Arrives at a barrier as a release. -/
  | barArv (n : BitVec 8)
  /-- R180: Waits for the barrier phase to move past the group's arrival. -/
  | barWait (n : BitVec 8)
  /-- R181: Arrives at a barrier through a capability. -/
  | barRarv (a : RegNum) (t : BitVec 3)
  /-- R186: Attaches or detaches a memory gauge. -/
  | gset (d : RegNum) (a : RegNum) (b : RegNum)
  /-- R187: Waits until a gauge's generation reaches a value. -/
  | gwait (d : RegNum) (a : RegNum) (b : RegNum) (k : Bool) (q : Bool)
  /-- R188: Waits until the named tokens are complete. -/
  | waitk (m : BitVec 8)
  /-- R202: Queues a matrix product into an accumulator bank in the open chain. -/
  | mma (d : RegNum) (a : RegNum) (b : RegNum) (f : BitVec 3)
  /-- R203: Opens a chain on a token. -/
  | chb (t : BitVec 3)
  /-- R203: Closes the open chain. -/
  | che (t : BitVec 3)
  /-- R206: Writes a scale register. -/
  | scs (n : BitVec 3) (a : RegNum)
  /-- R192: Allocates a rectangle of accumulator banks. -/
  | acal (d : RegNum) (a : RegNum)
  /-- R193: Frees an accumulator rectangle logically and queues its physical release. -/
  | acfr (a : RegNum)
  /-- R194: Reads an accumulator row and its bank's step count. -/
  | acrd (d : RegNum) (a : RegNum) (b : RegNum)
  /-- R194: Writes an accumulator row. -/
  | acwr (a : RegNum) (b : RegNum)
  /-- R194: Zeroes a run of accumulator banks. -/
  | acz (a : RegNum)
  /-- R207: Sets the context's audit interval. -/
  | aud (a : RegNum)
  /-- R208: Issues a copy-engine command from k8 to k11. -/
  | tcopy
  /-- R216: Sets the team's copy pipeline limits. -/
  | pipe (x : BitVec 5) (n : BitVec 5)
  /-- R217: Starts the core's sequencer for the team. -/
  | fork (d : RegNum) (i : BitVec 18)
  /-- R218: Holds the split until the sequencer executes rdv or exit. -/
  | join
  /-- R218: Releases every joined split. -/
  | rdv
  /-- R222: Stores a launch record to a launch line and waits for the answer. -/
  | launch (a : RegNum)
  /-- R228: Submits one NVMe command. -/
  | nvsub (d : RegNum) (a : RegNum) (b : RegNum) (r : Bool)
  /-- R229: Waits for the completion of an NVMe command. -/
  | nvwait (d : RegNum) (a : RegNum) (q : Bool)
  /-- R231: Reads a special register. -/
  | movs (d : RegNum) (x : Bool) (s : BitVec 7)
  /-- R231: Writes a special register. -/
  | movsWrite (d : RegNum) (x : Bool) (s : BitVec 7)
  /-- R113: Sets the split's register window base. -/
  | winb (w : BitVec 5)
  /-- R232: Reads a system register. -/
  | sysr (d : RegNum) (n : BitVec 11)
  /-- R232: Writes a system register that has no behaviour of its own. -/
  | sysw (d : RegNum) (n : BitVec 11)
  /-- R239: Returns from a trap. -/
  | eret
  /-- R242: Holds the host core until an enabled interrupt is pending. -/
  | wfi
  /-- R242: Stops host core issue until a column reset. -/
  | halt
  /-- R240: Invalidates translations across the package and its sharers. -/
  | tlbi (a : RegNum) (b : RegNum) (k : BitVec 4)
  /-- R241: Halts and saves the clusters of a team, grid or core. -/
  | preempt (d : RegNum) (a : RegNum) (k : BitVec 2)
  /-- R241: Releases held clusters for placement. -/
  | resume (d : RegNum) (a : RegNum)
  /-- R243: Frees a physical HBM range. -/
  | mfree (a : RegNum) (b : RegNum)
  /-- R243: Brings freed granules back into use, zero-filled. -/
  | mused (a : RegNum) (b : RegNum)
  /-- R243: Releases the homing of the regions in a range. -/
  | rgrel (a : RegNum) (b : RegNum)
  /-- R145: Load data return writes the destination and lowers LDC. -/
  | loadReturn (c : Ctx) (n : Nat)
  /-- R145: A store is performed and STC is lowered. -/
  | storePerformed (c : Ctx) (n : Nat)
  /-- R147: An atomic's old value is written to the register file or the save image. -/
  | atomicReturn (c : Ctx) (n : Nat)
  /-- R159: Raises the memory-poison trap before the group's next issue after poisoned data returns. -/
  | memoryPoison (c : Ctx)
  /-- R174: Raises the overwrite trap at the target group's next issue. -/
  | overwrite (team g : Nat)
  /-- R249: A coherence request is answered by the owner, home slice or home agent. -/
  | homeRequest (core line : Nat) (write : Bool)
  /-- R253: Write-back of dirty data toward the home agent, through the reserve or the bypass. -/
  | writeBack (col line : Nat)
  /-- R249: Evicts a snoop-filter entry, invalidating the L1 copies it covers. -/
  | snoopFilterEviction (col line : Nat)
  /-- R174: A put reaches its target and is judged against the register state. -/
  | putArrival (n : Nat)
  /-- R176: A gauge put is written at the vault and counted. -/
  | rputGArrival (n : Nat)
  /-- R181: A remote barrier arrival is applied to the barrier or its saved image. -/
  | barrierArrival (n : Nat)
  /-- R171: An active message is appended to q4 or rejected BUSY. -/
  | messageArrival (n : Nat)
  /-- R168: A remote store is translated and performed at the target. -/
  | stpArrival (n : Nat)
  /-- R168: A remote atomic is translated and performed at the target. -/
  | atompArrival (n : Nat)
  /-- R168: A remote load is translated and read at the target. -/
  | ldpArrival (n : Nat)
  /-- R212: A remote copy chunk is performed at its home on the target. -/
  | tcopyChunkArrival (n : Nat)
  /-- R309: An end-to-end acknowledgement completes the operation at the sender. -/
  | messageAck (n : Nat)
  /-- R309: Retransmits an unacknowledged message after 50 µs. -/
  | retransmit (n : Nat)
  /-- R309: Sends WRITEOFF on every plane after 100 µs, and every 50 µs after. -/
  | writeoff (n : Nat)
  /-- R311: The destination marks the message written off or returns its kept outcome. -/
  | writeoffArrival (n : Nat)
  /-- R309: An ACCEPTED or PERFORMED answer completes the message at the sender. -/
  | writeoffAnswer (n : Nat)
  /-- R309: Writes off a message with no answer after 1 ms and pushes PEERDOWN. -/
  | peerWriteoff (n : Nat)
  /-- R321: The source replays a message at the node named by a forward entry. -/
  | redirect (n : Nat)
  /-- R320: The source drops a kept translation and resends by virtual address. -/
  | retranslate (n : Nat)
  /-- R320: A sharer drops a kept translation and acknowledges once its requests are acknowledged. -/
  | translationInvalidation (n : Nat)
  /-- R314: The root starts a new slack-wave pass once the period has elapsed. -/
  | wavePassStart (job : Nat)
  /-- R314: A package snapshots its towers and forwards the wave. -/
  | wave (n : Nat)
  /-- R314: Sums are passed up the tree, and the root decides quiet. -/
  | reply (n : Nat)
  /-- R314: A quiet decision is delivered down the tree and releases waitq. -/
  | quiet (n : Nat)
  /-- R314: Resends a WAVE or REPLY unanswered for 20 µs. -/
  | waveResend (n : Nat)
  /-- R303: A router or egress port chooses and sends the next packet. -/
  | packetForward (port : Nat)
  /-- R303: A packet whose age reaches 255 becomes urgent. -/
  | packetUrgent (port n : Nat)
  /-- R183: Counts a performed write's bytes toward a gauge. -/
  | gaugeCount (n : Nat)
  /-- R184: Stores the new GEN at the notify address, replaying on a translation fault. -/
  | notifyStore (n : Nat)
  /-- R184: Retries a gauge LAUNCH store every 1 µs after BUSY. -/
  | gaugeLaunchRetry (n : Nat)
  /-- R224: The slice checks a launch record and stores it or answers BUSY or DENIED. -/
  | launchLineStore (n : Nat)
  /-- R274: The slice takes a record from a FULL line into the aggregator or the grid table. -/
  | launchRecordTake (col pri : Nat)
  /-- R276: Closes an open batch after 2 µs, writes its indirection table and makes it one grid. -/
  | aggregationBatchClose (col slot : Nat)
  /-- R280: The distributor places a new or resumed cluster on cores that fit. -/
  | clusterPlace (col : Nat) (choice : List PlaceChoice)
  /-- R282: A head unplaced for PWAIT blocks lower placements and pushes PREQ. -/
  | pwaitExpire (col pri : Nat)
  /-- R285: A group ready for 48 issue slots without issuing becomes urgent. -/
  | groupUrgent (team g : Nat)
  /-- R105: A group with no work left retires and frees its slot and registers. -/
  | groupRetire (team g : Nat)
  /-- R105: A team whose groups and sequencer are done frees its resources. -/
  | teamRetire (team : Nat)
  /-- R226: The slice stores the grid's completion notice, replaying on translation faults. -/
  | completionNotice (n : Nat)
  /-- R236: A team's resident time reaching the job's limit raises the watchdog cause. -/
  | watchdog (team : Nat)
  /-- R289: At a tick, swaps a cluster whose groups have all waited beyond SWAPT. -/
  | swapTick (team : Nat)
  /-- R292: Every split of the targets stands at an instruction boundary, and the save starts. -/
  | teamHalt (team : Nat)
  /-- R288: The context engine writes COMMIT, frees resources and pushes the save's record. -/
  | saveComplete (team : Nat)
  /-- R202: The matrix engine performs one k-step on a bank. -/
  | kstep (core n q : Nat)
  /-- R69: Writes a sampled tile's audit record to the telemetry ring. -/
  | auditRecordWrite (core n : Nat)
  /-- R193: The physical banks of a queued acfr become free. -/
  | acfrBanksFree (core n : Nat)
  /-- R211: A copy chunk is written at every destination and counted. -/
  | copyChunkComplete (core n chunk : Nat)
  /-- R216: Resets the copy depth after every 32 completed chunks. -/
  | pipeDepthAdjust (team : Nat)
  /-- R136: The last byte of a table fill lands, and the split passes tblld. -/
  | tblldFillComplete (core : Nat)
  /-- R138: The last latched evaluation ends, and the draining bank becomes idle. -/
  | tblDrainEnd (core : Nat)
  /-- R327: The interface takes a drive's completion entry, matches its slot and writes the head doorbell. -/
  | nvmeCompletion (queue : Nat)
  /-- R234: TIMER becomes pending when CYC reaches HTCMP. -/
  | hostTimer (col : Nat)
  /-- R239: The host core takes an enabled pending interrupt at an instruction boundary. -/
  | interruptTaken (col : Nat)
  /-- R261: Resolves a fault record and re-executes its waiters. -/
  | fbactRetry (col id : Nat)
  /-- R261: Resolves a fault record by failing each of its waiters. -/
  | fbactUnservable (col id : Nat)
  /-- R331: Decides an operating-point request and starts the change. -/
  | isreq (col : Nat) (v : DWord)
  /-- R332: The island's voltage settles, ending a lowering or stopping the clock of a raise. -/
  | islandVoltageSettled (island : Nat)
  /-- R332: The island clock restarts at the new frequency. -/
  | islandClockRestart (island : Nat)
  /-- R330: Writes THCAP and lowers capped islands while at THROTTLE. -/
  | thcapWrite (col : Nat) (v : DWord)
  /-- R334: Replaces each island's ISAMP at the end of a 10 µs window. -/
  | activityWindowEnd (col : Nat) (meas : List Activity)
  /-- R335: Samples Tj every 10 µs and changes the governor level; readings in 0.001 °C. -/
  | governorSample (col : Nat) (sensors : List Nat)
  /-- R337: Drops the column's islands to point 0 once no team is resident. -/
  | emergencyIslandDrop (col : Nat)
  /-- R336: A core idle for 2 µs stops its clock. -/
  | coreSleep (core : Nat)
  /-- R336: A sleeping core wakes and sweeps its register file. -/
  | coreWake (core : Nat)
  /-- R336: Saves a core's clusters, takes it out of placement and removes its power. -/
  | pgateGate (core : Nat)
  /-- R336: Powers a gated core again and reopens placement. -/
  | pgateUngate (core : Nat)
  /-- R341: Divides the column's measured energy among jobs every 100 µs. -/
  | energyInterval (col e : Nat)
  /-- R342: Starts a new 10 µs background-budget period. -/
  | budgetPeriod (col : Nat)
  /-- R339: Reads the stack temperature, in °C, every 1 ms and sets refresh and bandwidth. -/
  | hbmTempReading (stack temp : Nat)
  /-- R338: A sensor at 115 °C removes power from the tower's compute and vault dies; its reading in 0.001 °C. -/
  | thermalTrip (tower sensor : Nat)
  /-- R338: Powers a tripped tower's dies again. -/
  | twrpwr (v : DWord)
  /-- R346: Scrubs one allocated register row per quarter every 4,096 cycles; `errs` what it finds in each lane. -/
  | rfScrub (team g row : Nat) (errs : List (Nat × ScrubResult))
  /-- R351: Reads and rewrites HBM within the scrub budget. -/
  | hbmScrub (line : Nat) (res : ScrubResult)
  /-- R349: Pushes an ERROR record when corrected errors per second exceed ERCTHR. -/
  | errorRateCheck (col : Nat)
  /-- R348: An uncorrectable host-core error stops the column and loses its teams. -/
  | columnFailure (col : Nat)
  /-- R345: Writes zeros to an HBM line and clears its poison. -/
  | erpclr (v : DWord)
  /-- R349: Removes the oldest error record. -/
  | erlpop (col : Nat)
  /-- R307: Removes the oldest loss record. -/
  | losspop (tower : Nat)
  /-- R278: Releases the save record of a fatally halted team. -/
  | saverel (v : DWord)
  /-- R357: Starts retirement of an HBM channel. -/
  | hbmret (v : DWord)
  /-- R357: The last line of a retired channel is moved. -/
  | hbmChannelMoveDone (stack : Nat)
  /-- R355: Sets or clears DRAIN, stopping placement on a column. -/
  | colsvcDrain (col target : Nat) (on : Bool)
  /-- R355: Resets a drained column. -/
  | colsvcReset (col target : Nat)
  /-- R356: Retires a drained column. -/
  | colsvcRetire (col target : Nat)
  /-- R355: Verifies and stages a firmware image for a column. -/
  | colsvcLoad (col target : Nat)
  /-- R305: Writes JOBCTL; VALID from 0 to 1 restarts the job's counters. -/
  | jobctlWrite (job : Nat) (v : DWord)
  /-- R305: Loads a job key into every fabric interface of the package. -/
  | jobkeyWrite (job : Nat) (hi : Bool) (v : DWord)
  /-- R234: A write of TRBASE or TRSIZE resets TRHEAD and TRTAIL. -/
  | telemetryRingSet (job : Nat) (size : Bool) (v : DWord)
  /-- R314: Writes the wave control; EN from 0 to 1 restarts pass numbering. -/
  | wvctlWrite (job : Nat) (v : DWord)
  /-- R317: Takes UALink planes or Ethernet ports out of service. -/
  | lnkdrainWrite (v : DWord)
  /-- R326: Writes a queue's control; clearing EN refuses new submissions. -/
  | nvqctlWrite (queue : Nat) (v : DWord)
  /-- R349: Applies a new Sahlin key to datagrams sent afterwards. -/
  | shlkeyWrite (pod : Nat) (v : DWord)
  /-- R349: Stops accepting the previous Sahlin key 1 ms after a change. -/
  | shlkeyOldExpire (pod : Nat)
  /-- R318: Starts a UALinkSec key rotation on a plane. -/
  | ukctlRotate (plane : Nat)
  /-- R318: Sends key-retire once no replay flit uses the old key, and clears BUSY. -/
  | keyRetire (plane : Nat)
  /-- R302: Replays a flit after a link CRC error. -/
  | linkRetry (link : Nat)
  /-- R317: A plane or port goes up or down, and traffic is rerouted. -/
  | linkStateChange (link : Nat) (up : Bool)
  /-- R322: Receives a Sahlin datagram, checking its tag and ECN mark. -/
  | sahlinDatagram (dg : Datagram)
  /-- R324: Serves a host request through a BAR or CXL. -/
  | pcieInboundRequest (port : Nat) (req : PcieReq)
  /-- R354: Hertor answers an SPDM request. -/
  | spdmRequest (req : SpdmReq)
  /-- R359: Hertor boots, verifies the images and asserts HRDY. -/
  | auxPowerOn
  /-- R359: Trains HBM and links, starts the host cores and commits MINSVN; `trained`: the training of HBM succeeds. -/
  | mainPowerOn (trained : Bool)
  /-- R358: Holds the package in reset. -/
  | mrstn (low : Bool)
  /-- R358: Resets a PCIe port. -/
  | perstn (port : Nat) (low : Bool)
  /-- R291: The context engine finishes reading a cluster's save record: the team becomes resident, held events are applied, and splits re-evaluate their waits, or the team is lost if the record holds poison. -/
  | restoreComplete (team : Nat)
  /-- R351: Vault segments, slices and accumulator memory are scrubbed in idle cycles, with a full pass within 100 ms, correcting or poisoning what is found. -/
  | vaultSliceAccumScrub (site : ScrubSite) (res : ScrubResult)
  /-- R343: The main input, then the auxiliary input, is removed in the reverse of the power-on order. -/
  | powerRemoval (aux : Bool)
  deriving DecidableEq, Repr

end Sys2Proof
end

