-- ==== Sys2Proof/WellFormed.lean ====
section
/-! DEFINITION. Field values that no instruction has (R74, R76, R77): an unassigned code is reason 1,
a field or immediate outside its stated range is reason 2. An event row has no such field. -/

namespace Sys2Proof

/-- Size codes of a load form: 7 is unassigned (R76, R140). -/
def loadSizeOk (z : BitVec 3) : Bool := z != 7

/-- Size codes of a store form: 1, 3 and 7 are unassigned (R140). -/
def storeSizeOk (z : BitVec 3) : Bool := z != 1 && z != 3 && z != 7

/-- Format codes that `cvt` names: 1 to 6 and 8 to 10 (R130). -/
def cvtCodeOk (t : BitVec 4) : Bool := (1 ≤ t.toNat && t.toNat ≤ 6) || (8 ≤ t.toNat && t.toNat ≤ 10)

/-- Selectors of special registers listed in R40. -/
def selectorListed (n : BitVec 7) : Bool :=
  let k := n.toNat
  k ≤ 0x04 || (0x08 ≤ k && k ≤ 0x0C) || (0x10 ≤ k && k ≤ 0x12) || k == 0x14
    || (0x18 ≤ k && k ≤ 0x1A) || (0x20 ≤ k && k ≤ 0x2C) || (0x30 ≤ k && k ≤ 0x37)

/-- A code carried by a field is unassigned: reason 1 of R77. -/
def Instr.unassignedCode : Instr → Bool
  | .add _ _ _ _ s | .sub _ _ _ _ s => 2 < s.toNat
  | .cmp _ _ _ _ c | .cmpU _ _ _ _ c => 5 < c.toNat
  | .cvt _ _ t e _ _ => !(cvtCodeOk t && cvtCodeOk e)
  | .tbl _ _ f => f == 3
  | .vote _ _ k => 4 < k.toNat
  | .shfl _ _ _ k => 4 < k.toNat
  | .ld _ _ z _ | .ldro _ _ z _ | .ldv _ _ z _ | .ldp _ _ z _ => !loadSizeOk z
  | .ldAcq _ _ z _ | .ldSc _ _ z _ => !loadSizeOk z
  | .st _ _ z _ | .stv _ _ z _ | .stp _ _ z _ => !storeSizeOk z
  | .stRel _ _ z _ | .stSc _ _ z _ => !storeSizeOk z
  | .stvG _ _ _ z => !storeSizeOk z
  | .pf l _ _ => l == 3
  | .cctl _ o => 3 < o.toNat
  | .fence o _ _ => o == 0 || 4 < o.toNat
  | .atom _ _ _ o | .atomp _ _ _ o => 10 < o.toNat
  | .atomD _ _ _ o | .atompD _ _ _ o => 9 < o.toNat
  | .movs _ _ s | .movsWrite _ _ s => !selectorListed s
  | .tlbi _ _ k => 3 < k.toNat
  | .preempt _ _ k => k == 3
  | _ => false

/-- A field that must be 0, or an immediate outside its range: reason 2 of R77. -/
def Instr.outOfRange : Instr → Bool
  | .part n => n == 0 || n == 6 || n == 7
  | .cctl a o => o == 3 && a != 0
  | .pipe x n => n == 0 || x.toNat < n.toNat
  | .tlbi a b k =>
      (k == 0 && (a != 0 || b != 0)) || (k == 1 && a != 0) || (k == 2 && b != 0)
  | _ => false

/-- The reason code of R77 that the field values give, the lower reason first (R78). -/
def Instr.fieldReason (i : Instr) : Option (BitVec 4) :=
  if i.unassignedCode then some 1 else if i.outOfRange then some 2 else none

/-- An instruction whose field values the opcode table assigns. -/
def Instr.wellFormed (i : Instr) : Bool := i.fieldReason.isNone

end Sys2Proof
end

