-- ==== Sys2Proof/Decode.lean ====
section
/-! DEFINITION. Decoding of one 32-bit word (R70 to R77), and after it the encoder. -/

namespace Sys2Proof

/-- Why a word is no instruction at issue. -/
inductive Reject where
  /-- an illegal-instruction trap with this reason code (R77) -/
  | illegal (reason : BitVec 4)
  /-- an illegal-operand trap (R78 step 2): `launch` whose `b` is not `k8` -/
  | operand
  deriving DecidableEq, Repr

/-- Bits `lo` to `lo + len - 1` of a word. -/
def fld (w : Word) (lo len : Nat) : BitVec len := w.extractLsb' lo len

/-- Bit `lo` of a word. -/
def bit (w : Word) (lo : Nat) : Bool := w.getLsbD lo

/-- The instruction of a form whose reserved bits are those of `m`. A nonzero reserved bit is reason 2,
unless the fields already give reason 1 (R77, R78). -/
def keep (w m : Word) (i : Instr) : Except Reject Instr :=
  if w &&& m = 0 then .ok i
  else if i.unassignedCode then .error (.illegal 1) else .error (.illegal 2)

/-- `launch` with `b` other than 104: reserved bits first, then an illegal operand (R78, R222). -/
def launchOperand (w : Word) : Except Reject Instr :=
  if w &&& 0x01FC000F = 0 then .error .operand else .error (.illegal 2)

/-- The instruction a word encodes, or why it encodes none. Codes that the fields may not hold are
judged by `Instr.fieldReason`, after the word has been read. -/
def decode (w : Word) : Except Reject Instr :=
  match (fld w 25 7).toNat with
  | 0x01 => keep w 0x00000000 (.add (fld w 18 7) (fld w 11 7) (fld w 4 7) (bit w 3) (fld w 0 3))
  | 0x02 => keep w 0x00000000 (.sub (fld w 18 7) (fld w 11 7) (fld w 4 7) (bit w 3) (fld w 0 3))
  | 0x03 =>
    match (fld w 0 3).toNat with
    | 0 => keep w 0x00000000 (.mul (fld w 18 7) (fld w 11 7) (fld w 4 7) (bit w 3))
    | 1 => keep w 0x00000000 (.mulh (fld w 18 7) (fld w 11 7) (fld w 4 7) (bit w 3))
    | 2 => keep w 0x00000000 (.mulhU (fld w 18 7) (fld w 11 7) (fld w 4 7) (bit w 3))
    | _ => .error (.illegal 1)
  | 0x04 => keep w 0x00000007 (.mad (fld w 18 7) (fld w 11 7) (fld w 4 7) (bit w 3))
  | 0x05 =>
    match (fld w 0 3).toNat with
    | 0 => keep w 0x00000000 (.min (fld w 18 7) (fld w 11 7) (fld w 4 7) (bit w 3))
    | 1 => keep w 0x00000000 (.max (fld w 18 7) (fld w 11 7) (fld w 4 7) (bit w 3))
    | 2 => keep w 0x00000000 (.minU (fld w 18 7) (fld w 11 7) (fld w 4 7) (bit w 3))
    | 3 => keep w 0x00000000 (.maxU (fld w 18 7) (fld w 11 7) (fld w 4 7) (bit w 3))
    | _ => .error (.illegal 1)
  | 0x06 =>
    match (fld w 0 3).toNat with
    | 0 => keep w 0x000007F0 (.abs (fld w 18 7) (fld w 11 7) (bit w 3))
    | 1 => keep w 0x000007F0 (.popc (fld w 18 7) (fld w 11 7) (bit w 3))
    | 2 => keep w 0x000007F0 (.clz (fld w 18 7) (fld w 11 7) (bit w 3))
    | 3 => keep w 0x000007F0 (.brev (fld w 18 7) (fld w 11 7) (bit w 3))
    | _ => .error (.illegal 1)
  | 0x07 =>
    match (fld w 0 3).toNat with
    | 0 => keep w 0x00000000 (.and (fld w 18 7) (fld w 11 7) (fld w 4 7) (bit w 3))
    | 1 => keep w 0x00000000 (.or (fld w 18 7) (fld w 11 7) (fld w 4 7) (bit w 3))
    | 2 => keep w 0x00000000 (.xor (fld w 18 7) (fld w 11 7) (fld w 4 7) (bit w 3))
    | 3 => keep w 0x00000000 (.andn (fld w 18 7) (fld w 11 7) (fld w 4 7) (bit w 3))
    | _ => .error (.illegal 1)
  | 0x08 =>
    match (fld w 0 3).toNat with
    | 0 => keep w 0x00000000 (.shl (fld w 18 7) (fld w 11 7) (fld w 4 7) (bit w 3))
    | 1 => keep w 0x00000000 (.shr (fld w 18 7) (fld w 11 7) (fld w 4 7) (bit w 3))
    | 2 => keep w 0x00000000 (.sar (fld w 18 7) (fld w 11 7) (fld w 4 7) (bit w 3))
    | 3 => keep w 0x00000000 (.rot (fld w 18 7) (fld w 11 7) (fld w 4 7) (bit w 3))
    | _ => .error (.illegal 1)
  | 0x09 =>
    match (fld w 1 2).toNat with
    | 0 => keep w 0x00000000 (.bfx (fld w 18 7) (fld w 11 7) (fld w 4 7) (bit w 3) (bit w 0))
    | _ => .error (.illegal 1)
  | 0x0A => keep w 0x00000007 (.bfi (fld w 18 7) (fld w 11 7) (fld w 4 7) (bit w 3))
  | 0x0B => keep w 0x00000000 (.sel (fld w 18 7) (fld w 11 7) (fld w 4 7) (bit w 3) (fld w 0 3))
  | 0x0C => keep w 0x01E00000 (.cmp (fld w 18 3) (fld w 11 7) (fld w 4 7) (bit w 3) (fld w 0 3))
  | 0x0D => keep w 0x01E00000 (.cmpU (fld w 18 3) (fld w 11 7) (fld w 4 7) (bit w 3) (fld w 0 3))
  | 0x0E => keep w 0x00000000 (.lea (fld w 18 7) (fld w 11 7) (fld w 4 7) (bit w 3) (fld w 0 3))
  | 0x0F =>
    match (fld w 0 3).toNat with
    | 0 => keep w 0x00000000 (.div (fld w 18 7) (fld w 11 7) (fld w 4 7) (bit w 3))
    | 1 => keep w 0x00000000 (.divU (fld w 18 7) (fld w 11 7) (fld w 4 7) (bit w 3))
    | 2 => keep w 0x00000000 (.rem (fld w 18 7) (fld w 11 7) (fld w 4 7) (bit w 3))
    | 3 => keep w 0x00000000 (.remU (fld w 18 7) (fld w 11 7) (fld w 4 7) (bit w 3))
    | _ => .error (.illegal 1)
  | 0x10 => keep w 0x00000000 (.addi (fld w 18 7) (fld w 11 7) (fld w 0 11))
  | 0x11 => keep w 0x00000000 (.andi (fld w 18 7) (fld w 11 7) (fld w 0 11))
  | 0x12 => keep w 0x00000000 (.ori (fld w 18 7) (fld w 11 7) (fld w 0 11))
  | 0x13 => keep w 0x00000000 (.xori (fld w 18 7) (fld w 11 7) (fld w 0 11))
  | 0x14 => keep w 0x000007C0 (.shli (fld w 18 7) (fld w 11 7) (fld w 0 6))
  | 0x15 => keep w 0x00000000 (.movi (fld w 18 7) (fld w 0 18))
  | 0x16 => keep w 0x00000000 (.movh (fld w 18 7) (fld w 0 18))
  | 0x18 => keep w 0x01E00000 (.br (fld w 0 21))
  | 0x19 => keep w 0x00000000 (.bp (bit w 24) (fld w 21 3) (fld w 0 21))
  | 0x1A => keep w 0x01E00000 (.call (fld w 0 21))
  | 0x1B =>
    match (fld w 0 4).toNat with
    | 0 => keep w 0x01FC07F0 (.jr (fld w 11 7))
    | 1 => keep w 0x01FFFFF0 (.ret)
    | _ => .error (.illegal 1)
  | 0x1C => keep w 0x01FC0700 (.loop (fld w 11 7) (fld w 0 8))
  | 0x1D => keep w 0x01FC0000 (.loopI (fld w 8 10) (fld w 0 8))
  | 0x1E =>
    match (fld w 21 4).toNat with
    | 0 => keep w 0x001FFFFF (.exit)
    | 1 => keep w 0x00000000 (.brk (fld w 0 21))
    | 2 => keep w 0x00000000 (.trap (fld w 0 21))
    | _ => .error (.illegal 1)
  | 0x20 => keep w 0x00000008 (.fadd (fld w 18 7) (fld w 11 7) (fld w 4 7) (bit w 2) (fld w 0 2))
  | 0x21 => keep w 0x00000008 (.fsub (fld w 18 7) (fld w 11 7) (fld w 4 7) (bit w 2) (fld w 0 2))
  | 0x22 => keep w 0x00000008 (.fmul (fld w 18 7) (fld w 11 7) (fld w 4 7) (bit w 2) (fld w 0 2))
  | 0x23 => keep w 0x00000008 (.fma (fld w 18 7) (fld w 11 7) (fld w 4 7) (bit w 2) (fld w 0 2))
  | 0x24 =>
    match (fld w 0 1).toNat with
    | 0 => keep w 0x0000000E (.fmin (fld w 18 7) (fld w 11 7) (fld w 4 7))
    | _ => keep w 0x0000000E (.fmax (fld w 18 7) (fld w 11 7) (fld w 4 7))
  | 0x25 => keep w 0x01E00008 (.fcmp (fld w 18 3) (fld w 11 7) (fld w 4 7) (fld w 0 3))
  | 0x26 => keep w 0x00000008 (.fdiv (fld w 18 7) (fld w 11 7) (fld w 4 7) (bit w 2) (fld w 0 2))
  | 0x27 => keep w 0x000007F8 (.fsqrt (fld w 18 7) (fld w 11 7) (bit w 2) (fld w 0 2))
  | 0x28 => keep w 0x000007F8 (.frcp (fld w 18 7) (fld w 11 7) (bit w 2) (fld w 0 2))
  | 0x29 => keep w 0x00000000 (.hadd2 (fld w 18 7) (fld w 11 7) (fld w 4 7) (bit w 3) (bit w 2) (fld w 0 2))
  | 0x2A => keep w 0x00000000 (.hmul2 (fld w 18 7) (fld w 11 7) (fld w 4 7) (bit w 3) (bit w 2) (fld w 0 2))
  | 0x2B => keep w 0x00000000 (.hfma2 (fld w 18 7) (fld w 11 7) (fld w 4 7) (bit w 3) (bit w 2) (fld w 0 2))
  | 0x30 => keep w 0x00000000 (.cvt (fld w 18 7) (fld w 11 7) (fld w 7 4) (fld w 3 4) (bit w 2) (fld w 0 2))
  | 0x31 => keep w 0x00000000 (.cvts (fld w 18 7) (fld w 11 7) (fld w 4 7) (bit w 3) (bit w 2) (fld w 0 2))
  | 0x32 =>
    match (fld w 0 3).toNat with
    | 0 => keep w 0x000007F8 (.fexp2 (fld w 18 7) (fld w 11 7))
    | 1 => keep w 0x000007F8 (.flog2 (fld w 18 7) (fld w 11 7))
    | 2 => keep w 0x000007F8 (.fsin (fld w 18 7) (fld w 11 7))
    | 3 => keep w 0x000007F8 (.fcos (fld w 18 7) (fld w 11 7))
    | 4 => keep w 0x000007F8 (.ftanh (fld w 18 7) (fld w 11 7))
    | 5 => keep w 0x000007F8 (.fsig (fld w 18 7) (fld w 11 7))
    | 6 => keep w 0x000007F8 (.frsq (fld w 18 7) (fld w 11 7))
    | _ => .error (.illegal 1)
  | 0x33 =>
    match (fld w 0 3).toNat with
    | 0 => keep w 0x000007F8 (.fexp2Bf (fld w 18 7) (fld w 11 7))
    | 1 => keep w 0x000007F8 (.flog2Bf (fld w 18 7) (fld w 11 7))
    | 2 => keep w 0x000007F8 (.fsinBf (fld w 18 7) (fld w 11 7))
    | 3 => keep w 0x000007F8 (.fcosBf (fld w 18 7) (fld w 11 7))
    | 4 => keep w 0x000007F8 (.ftanhBf (fld w 18 7) (fld w 11 7))
    | 5 => keep w 0x000007F8 (.fsigBf (fld w 18 7) (fld w 11 7))
    | 6 => keep w 0x000007F8 (.frsqBf (fld w 18 7) (fld w 11 7))
    | _ => .error (.illegal 1)
  | 0x34 =>
    match (fld w 0 3).toNat with
    | 0 => keep w 0x000007F8 (.fexp2Hf (fld w 18 7) (fld w 11 7))
    | 1 => keep w 0x000007F8 (.flog2Hf (fld w 18 7) (fld w 11 7))
    | 2 => keep w 0x000007F8 (.fsinHf (fld w 18 7) (fld w 11 7))
    | 3 => keep w 0x000007F8 (.fcosHf (fld w 18 7) (fld w 11 7))
    | 4 => keep w 0x000007F8 (.ftanhHf (fld w 18 7) (fld w 11 7))
    | 5 => keep w 0x000007F8 (.fsigHf (fld w 18 7) (fld w 11 7))
    | 6 => keep w 0x000007F8 (.frsqHf (fld w 18 7) (fld w 11 7))
    | _ => .error (.illegal 1)
  | 0x35 => keep w 0x000007FC (.tbl (fld w 18 7) (fld w 11 7) (fld w 0 2))
  | 0x36 => keep w 0x01FC000F (.tblld (fld w 11 7) (fld w 4 7))
  | 0x37 => keep w 0x01FFFFFF (.tblsw)
  | 0x38 => keep w 0x0003FF80 (.vote (fld w 18 7) (fld w 4 3) (fld w 0 4))
  | 0x39 => keep w 0x00000000 (.shfl (fld w 18 7) (fld w 11 7) (fld w 4 7) (fld w 0 4))
  | 0x3A => keep w 0x000007F8 (.red (fld w 18 7) (fld w 11 7) (fld w 0 3))
  | 0x3B => keep w 0x000007F0 (.scan (fld w 18 7) (fld w 11 7) (bit w 3) (fld w 0 3))
  | 0x3C => keep w 0x01FFFFF8 (.part (fld w 0 3))
  | 0x3D => keep w 0x0003FFFF (.lmask (fld w 18 7))
  | 0x3E =>
    match (fld w 0 4).toNat with
    | 0 => keep w 0x01E3C780 (.pand (fld w 18 3) (fld w 11 3) (fld w 4 3))
    | 1 => keep w 0x01E3C780 (.por (fld w 18 3) (fld w 11 3) (fld w 4 3))
    | 2 => keep w 0x01E3C780 (.pxor (fld w 18 3) (fld w 11 3) (fld w 4 3))
    | 3 => keep w 0x01E3C7F0 (.pnot (fld w 18 3) (fld w 11 3))
    | _ => .error (.illegal 1)
  | 0x40 => keep w 0x00000000 (.ld (fld w 18 7) (fld w 11 7) (fld w 8 3) (fld w 0 8))
  | 0x41 => keep w 0x00000000 (.st (fld w 18 7) (fld w 11 7) (fld w 8 3) (fld w 0 8))
  | 0x42 =>
    match (fld w 3 1).toNat with
    | 0 => keep w 0x00000780 (.ldAcq (fld w 18 7) (fld w 11 7) (fld w 4 3) (fld w 0 3))
    | _ => keep w 0x00000780 (.ldSc (fld w 18 7) (fld w 11 7) (fld w 4 3) (fld w 0 3))
  | 0x43 =>
    match (fld w 3 1).toNat with
    | 0 => keep w 0x00000780 (.stRel (fld w 18 7) (fld w 11 7) (fld w 4 3) (fld w 0 3))
    | _ => keep w 0x00000780 (.stSc (fld w 18 7) (fld w 11 7) (fld w 4 3) (fld w 0 3))
  | 0x44 => keep w 0x0000000E (.ldt (fld w 18 7) (fld w 11 7) (fld w 4 7) (bit w 0))
  | 0x45 => keep w 0x00000000 (.ldro (fld w 18 7) (fld w 11 7) (fld w 8 3) (fld w 0 8))
  | 0x46 => keep w 0x00000000 (.ldv (fld w 18 7) (fld w 11 7) (fld w 8 3) (fld w 0 8))
  | 0x47 => keep w 0x00000000 (.stv (fld w 18 7) (fld w 11 7) (fld w 8 3) (fld w 0 8))
  | 0x48 => keep w 0x00000008 (.stvG (fld w 18 7) (fld w 11 7) (fld w 4 7) (fld w 0 3))
  | 0x49 => keep w 0x01F00000 (.pf (fld w 18 2) (fld w 11 7) (fld w 0 11))
  | 0x4A => keep w 0x01FC07F0 (.cctl (fld w 11 7) (fld w 0 4))
  | 0x4B => keep w 0x001FFFF0 (.fence (fld w 21 4) (bit w 3) (fld w 0 3))
  | 0x4C => keep w 0x01FFF000 (.waitc (fld w 6 6) (fld w 0 6))
  | 0x50 => keep w 0x00000000 (.atom (fld w 18 7) (fld w 11 7) (fld w 4 7) (fld w 0 4))
  | 0x51 => keep w 0x00000000 (.atomD (fld w 18 7) (fld w 11 7) (fld w 4 7) (fld w 0 4))
  | 0x52 => keep w 0x00000000 (.atomp (fld w 18 7) (fld w 11 7) (fld w 4 7) (fld w 0 4))
  | 0x53 => keep w 0x00000000 (.atompD (fld w 18 7) (fld w 11 7) (fld w 4 7) (fld w 0 4))
  | 0x58 => keep w 0x00000000 (.ldp (fld w 18 7) (fld w 11 7) (fld w 8 3) (fld w 0 8))
  | 0x59 => keep w 0x00000000 (.stp (fld w 18 7) (fld w 11 7) (fld w 8 3) (fld w 0 8))
  | 0x5A =>
    match (fld w 3 1).toNat with
    | 0 => keep w 0x00000000 (.rput (fld w 21 4) (fld w 18 3) (fld w 11 7) (fld w 4 7) (bit w 2) (bit w 1) (bit w 0))
    | _ => keep w 0x00000000 (.rputG (fld w 21 4) (fld w 18 3) (fld w 11 7) (fld w 4 7) (bit w 2) (bit w 1) (bit w 0))
  | 0x5B => keep w 0x0003FFC0 (.arm (fld w 18 7) (bit w 5) (fld w 0 5))
  | 0x5C => keep w 0x0003FFE0 (.disarm (fld w 18 7) (fld w 0 5))
  | 0x5D => keep w 0x00000008 (.msgs (fld w 18 7) (fld w 11 7) (fld w 4 7) (fld w 0 3))
  | 0x5E =>
    match (fld w 0 4).toNat with
    | 0 => keep w 0x000007F0 (.capmk (fld w 18 7) (fld w 11 7))
    | 1 => keep w 0x000007F0 (.capck (fld w 18 7) (fld w 11 7))
    | _ => .error (.illegal 1)
  | 0x5F =>
    match (fld w 0 4).toNat with
    | 0 => keep w 0x01FFFFF0 (.msgd)
    | 1 => keep w 0x0003FFF0 (.waitq (fld w 18 7))
    | _ => .error (.illegal 1)
  | 0x60 => keep w 0x01FC0700 (.barInit (fld w 11 7) (fld w 0 8))
  | 0x61 => keep w 0x01FFFF00 (.barArv (fld w 0 8))
  | 0x62 => keep w 0x01FFFF00 (.barWait (fld w 0 8))
  | 0x63 => keep w 0x01FC07F8 (.barRarv (fld w 11 7) (fld w 0 3))
  | 0x64 => keep w 0x0000000F (.gset (fld w 18 7) (fld w 11 7) (fld w 4 7))
  | 0x65 => keep w 0x0000000C (.gwait (fld w 18 7) (fld w 11 7) (fld w 4 7) (bit w 1) (bit w 0))
  | 0x66 => keep w 0x01FFFF00 (.waitk (fld w 0 8))
  | 0x68 => keep w 0x00000008 (.mma (fld w 18 7) (fld w 11 7) (fld w 4 7) (fld w 0 3))
  | 0x69 =>
    match (fld w 21 4).toNat with
    | 0 => keep w 0x001FFFF8 (.chb (fld w 0 3))
    | 1 => keep w 0x001FFFF8 (.che (fld w 0 3))
    | _ => .error (.illegal 1)
  | 0x6A => keep w 0x01E007FF (.scs (fld w 18 3) (fld w 11 7))
  | 0x6B =>
    match (fld w 0 4).toNat with
    | 0 => keep w 0x000007F0 (.acal (fld w 18 7) (fld w 11 7))
    | 1 => keep w 0x01FC07F0 (.acfr (fld w 11 7))
    | _ => .error (.illegal 1)
  | 0x6C =>
    match (fld w 0 4).toNat with
    | 0 => keep w 0x00000000 (.acrd (fld w 18 7) (fld w 11 7) (fld w 4 7))
    | 1 => keep w 0x01FC0000 (.acwr (fld w 11 7) (fld w 4 7))
    | 2 => keep w 0x01FC07F0 (.acz (fld w 11 7))
    | _ => .error (.illegal 1)
  | 0x6D => keep w 0x01FC07FF (.aud (fld w 11 7))
  | 0x70 => keep w 0x01FFFFFF (.tcopy)
  | 0x71 => keep w 0x01FFFC00 (.pipe (fld w 5 5) (fld w 0 5))
  | 0x72 => keep w 0x00000000 (.fork (fld w 18 7) (fld w 0 18))
  | 0x73 =>
    match (fld w 21 4).toNat with
    | 0 => keep w 0x001FFFFF (.join)
    | 1 => keep w 0x001FFFFF (.rdv)
    | _ => .error (.illegal 1)
  | 0x74 => if fld w 4 7 = 104 then keep w 0x01FC000F (.launch (fld w 11 7)) else launchOperand w
  | 0x75 => keep w 0x0000000E (.nvsub (fld w 18 7) (fld w 11 7) (fld w 4 7) (bit w 0))
  | 0x76 => keep w 0x000007FE (.nvwait (fld w 18 7) (fld w 11 7) (bit w 0))
  | 0x78 =>
    match (fld w 7 1).toNat with
    | 0 => keep w 0x0003FE00 (.movs (fld w 18 7) (bit w 8) (fld w 0 7))
    | _ => keep w 0x0003FE00 (.movsWrite (fld w 18 7) (bit w 8) (fld w 0 7))
  | 0x79 => keep w 0x01FFFFE0 (.winb (fld w 0 5))
  | 0x7A => keep w 0x0003F800 (.sysr (fld w 18 7) (fld w 0 11))
  | 0x7B => keep w 0x0003F800 (.sysw (fld w 18 7) (fld w 0 11))
  | 0x7C =>
    match (fld w 21 4).toNat with
    | 0 => keep w 0x001FFFFF (.eret)
    | 1 => keep w 0x001FFFFF (.wfi)
    | 2 => keep w 0x001FFFFF (.halt)
    | _ => .error (.illegal 1)
  | 0x7D => keep w 0x01FC0000 (.tlbi (fld w 11 7) (fld w 4 7) (fld w 0 4))
  | 0x7E =>
    match (fld w 0 4).toNat with
    | 0 => keep w 0x000007F0 (.preempt (fld w 18 7) (fld w 11 7) (fld w 0 2))
    | 1 => keep w 0x000007F0 (.preempt (fld w 18 7) (fld w 11 7) (fld w 0 2))
    | 2 => keep w 0x000007F0 (.preempt (fld w 18 7) (fld w 11 7) (fld w 0 2))
    | 3 => keep w 0x000007F0 (.resume (fld w 18 7) (fld w 11 7))
    | _ => .error (.illegal 1)
  | 0x7F =>
    match (fld w 0 4).toNat with
    | 0 => keep w 0x01FC0000 (.mfree (fld w 11 7) (fld w 4 7))
    | 1 => keep w 0x01FC0000 (.mused (fld w 11 7) (fld w 4 7))
    | 2 => keep w 0x01FC0000 (.rgrel (fld w 11 7) (fld w 4 7))
    | _ => .error (.illegal 1)
  | _ => .error (.illegal 0)

/-- The word of an encoded instruction, its fields from the most significant down (R70, R74);
an event row has no word. -/
def encode : Instr → Option Word
  | .add d a b w s => some (1#7 ++ d ++ a ++ b ++ BitVec.ofBool w ++ s)
  | .sub d a b w s => some (2#7 ++ d ++ a ++ b ++ BitVec.ofBool w ++ s)
  | .mul d a b w => some (3#7 ++ d ++ a ++ b ++ BitVec.ofBool w ++ 0#3)
  | .mulh d a b w => some (3#7 ++ d ++ a ++ b ++ BitVec.ofBool w ++ 1#3)
  | .mulhU d a b w => some (3#7 ++ d ++ a ++ b ++ BitVec.ofBool w ++ 2#3)
  | .mad d a b w => some (4#7 ++ d ++ a ++ b ++ BitVec.ofBool w ++ 0#3)
  | .min d a b w => some (5#7 ++ d ++ a ++ b ++ BitVec.ofBool w ++ 0#3)
  | .max d a b w => some (5#7 ++ d ++ a ++ b ++ BitVec.ofBool w ++ 1#3)
  | .minU d a b w => some (5#7 ++ d ++ a ++ b ++ BitVec.ofBool w ++ 2#3)
  | .maxU d a b w => some (5#7 ++ d ++ a ++ b ++ BitVec.ofBool w ++ 3#3)
  | .abs d a w => some (6#7 ++ d ++ a ++ 0#7 ++ BitVec.ofBool w ++ 0#3)
  | .popc d a w => some (6#7 ++ d ++ a ++ 0#7 ++ BitVec.ofBool w ++ 1#3)
  | .clz d a w => some (6#7 ++ d ++ a ++ 0#7 ++ BitVec.ofBool w ++ 2#3)
  | .brev d a w => some (6#7 ++ d ++ a ++ 0#7 ++ BitVec.ofBool w ++ 3#3)
  | .and d a b w => some (7#7 ++ d ++ a ++ b ++ BitVec.ofBool w ++ 0#3)
  | .or d a b w => some (7#7 ++ d ++ a ++ b ++ BitVec.ofBool w ++ 1#3)
  | .xor d a b w => some (7#7 ++ d ++ a ++ b ++ BitVec.ofBool w ++ 2#3)
  | .andn d a b w => some (7#7 ++ d ++ a ++ b ++ BitVec.ofBool w ++ 3#3)
  | .shl d a b w => some (8#7 ++ d ++ a ++ b ++ BitVec.ofBool w ++ 0#3)
  | .shr d a b w => some (8#7 ++ d ++ a ++ b ++ BitVec.ofBool w ++ 1#3)
  | .sar d a b w => some (8#7 ++ d ++ a ++ b ++ BitVec.ofBool w ++ 2#3)
  | .rot d a b w => some (8#7 ++ d ++ a ++ b ++ BitVec.ofBool w ++ 3#3)
  | .bfx d a b w s => some (9#7 ++ d ++ a ++ b ++ BitVec.ofBool w ++ 0#2 ++ BitVec.ofBool s)
  | .bfi d a b w => some (10#7 ++ d ++ a ++ b ++ BitVec.ofBool w ++ 0#3)
  | .sel d a b w p => some (11#7 ++ d ++ a ++ b ++ BitVec.ofBool w ++ p)
  | .cmp p a b w c => some (192#11 ++ p ++ a ++ b ++ BitVec.ofBool w ++ c)
  | .cmpU p a b w c => some (208#11 ++ p ++ a ++ b ++ BitVec.ofBool w ++ c)
  | .lea d a b w s => some (14#7 ++ d ++ a ++ b ++ BitVec.ofBool w ++ s)
  | .div d a b w => some (15#7 ++ d ++ a ++ b ++ BitVec.ofBool w ++ 0#3)
  | .divU d a b w => some (15#7 ++ d ++ a ++ b ++ BitVec.ofBool w ++ 1#3)
  | .rem d a b w => some (15#7 ++ d ++ a ++ b ++ BitVec.ofBool w ++ 2#3)
  | .remU d a b w => some (15#7 ++ d ++ a ++ b ++ BitVec.ofBool w ++ 3#3)
  | .addi d a i => some (16#7 ++ d ++ a ++ i)
  | .andi d a i => some (17#7 ++ d ++ a ++ i)
  | .ori d a i => some (18#7 ++ d ++ a ++ i)
  | .xori d a i => some (19#7 ++ d ++ a ++ i)
  | .shli d a n => some (20#7 ++ d ++ a ++ 0#5 ++ n)
  | .movi d i => some (21#7 ++ d ++ i)
  | .movh d i => some (22#7 ++ d ++ i)
  | .br o => some (384#11 ++ o)
  | .bp n p o => some (25#7 ++ BitVec.ofBool n ++ p ++ o)
  | .call o => some (416#11 ++ o)
  | .jr a => some (3456#14 ++ a ++ 0#11)
  | .ret => some (905969665#32)
  | .loop a l => some (3584#14 ++ a ++ 0#3 ++ l)
  | .loopI n l => some (3712#14 ++ n ++ l)
  | .exit => some (1006632960#32)
  | .brk c => some (481#11 ++ c)
  | .trap c => some (482#11 ++ c)
  | .fadd d a b s r => some (32#7 ++ d ++ a ++ b ++ 0#1 ++ BitVec.ofBool s ++ r)
  | .fsub d a b s r => some (33#7 ++ d ++ a ++ b ++ 0#1 ++ BitVec.ofBool s ++ r)
  | .fmul d a b s r => some (34#7 ++ d ++ a ++ b ++ 0#1 ++ BitVec.ofBool s ++ r)
  | .fma d a b s r => some (35#7 ++ d ++ a ++ b ++ 0#1 ++ BitVec.ofBool s ++ r)
  | .fmin d a b => some (36#7 ++ d ++ a ++ b ++ 0#4)
  | .fmax d a b => some (36#7 ++ d ++ a ++ b ++ 1#4)
  | .fcmp p a b c => some (592#11 ++ p ++ a ++ b ++ 0#1 ++ c)
  | .fdiv d a b s r => some (38#7 ++ d ++ a ++ b ++ 0#1 ++ BitVec.ofBool s ++ r)
  | .fsqrt d a s r => some (39#7 ++ d ++ a ++ 0#8 ++ BitVec.ofBool s ++ r)
  | .frcp d a s r => some (40#7 ++ d ++ a ++ 0#8 ++ BitVec.ofBool s ++ r)
  | .hadd2 d a b k s r => some (41#7 ++ d ++ a ++ b ++ BitVec.ofBool k ++ BitVec.ofBool s ++ r)
  | .hmul2 d a b k s r => some (42#7 ++ d ++ a ++ b ++ BitVec.ofBool k ++ BitVec.ofBool s ++ r)
  | .hfma2 d a b k s r => some (43#7 ++ d ++ a ++ b ++ BitVec.ofBool k ++ BitVec.ofBool s ++ r)
  | .cvt d a t e s r => some (48#7 ++ d ++ a ++ t ++ e ++ BitVec.ofBool s ++ r)
  | .cvts d a b x s r => some (49#7 ++ d ++ a ++ b ++ BitVec.ofBool x ++ BitVec.ofBool s ++ r)
  | .fexp2 d a => some (50#7 ++ d ++ a ++ 0#11)
  | .flog2 d a => some (50#7 ++ d ++ a ++ 1#11)
  | .fsin d a => some (50#7 ++ d ++ a ++ 2#11)
  | .fcos d a => some (50#7 ++ d ++ a ++ 3#11)
  | .ftanh d a => some (50#7 ++ d ++ a ++ 4#11)
  | .fsig d a => some (50#7 ++ d ++ a ++ 5#11)
  | .frsq d a => some (50#7 ++ d ++ a ++ 6#11)
  | .fexp2Bf d a => some (51#7 ++ d ++ a ++ 0#11)
  | .flog2Bf d a => some (51#7 ++ d ++ a ++ 1#11)
  | .fsinBf d a => some (51#7 ++ d ++ a ++ 2#11)
  | .fcosBf d a => some (51#7 ++ d ++ a ++ 3#11)
  | .ftanhBf d a => some (51#7 ++ d ++ a ++ 4#11)
  | .fsigBf d a => some (51#7 ++ d ++ a ++ 5#11)
  | .frsqBf d a => some (51#7 ++ d ++ a ++ 6#11)
  | .fexp2Hf d a => some (52#7 ++ d ++ a ++ 0#11)
  | .flog2Hf d a => some (52#7 ++ d ++ a ++ 1#11)
  | .fsinHf d a => some (52#7 ++ d ++ a ++ 2#11)
  | .fcosHf d a => some (52#7 ++ d ++ a ++ 3#11)
  | .ftanhHf d a => some (52#7 ++ d ++ a ++ 4#11)
  | .fsigHf d a => some (52#7 ++ d ++ a ++ 5#11)
  | .frsqHf d a => some (52#7 ++ d ++ a ++ 6#11)
  | .tbl d a f => some (53#7 ++ d ++ a ++ 0#9 ++ f)
  | .tblld a b => some (6912#14 ++ a ++ b ++ 0#4)
  | .tblsw => some (1845493760#32)
  | .vote d p k => some (56#7 ++ d ++ 0#11 ++ p ++ k)
  | .shfl d a b k => some (57#7 ++ d ++ a ++ b ++ k)
  | .red d a o => some (58#7 ++ d ++ a ++ 0#8 ++ o)
  | .scan d a x o => some (59#7 ++ d ++ a ++ 0#7 ++ BitVec.ofBool x ++ o)
  | .part n => some (251658240#29 ++ n)
  | .lmask d => some (61#7 ++ d ++ 0#18)
  | .pand d a b => some (992#11 ++ d ++ 0#4 ++ a ++ 0#4 ++ b ++ 0#4)
  | .por d a b => some (992#11 ++ d ++ 0#4 ++ a ++ 0#4 ++ b ++ 1#4)
  | .pxor d a b => some (992#11 ++ d ++ 0#4 ++ a ++ 0#4 ++ b ++ 2#4)
  | .pnot d a => some (992#11 ++ d ++ 0#4 ++ a ++ 3#11)
  | .ld d a z o => some (64#7 ++ d ++ a ++ z ++ o)
  | .st d a z o => some (65#7 ++ d ++ a ++ z ++ o)
  | .ldAcq d a z c => some (66#7 ++ d ++ a ++ 0#4 ++ z ++ 0#1 ++ c)
  | .ldSc d a z c => some (66#7 ++ d ++ a ++ 0#4 ++ z ++ 1#1 ++ c)
  | .stRel d a z c => some (67#7 ++ d ++ a ++ 0#4 ++ z ++ 0#1 ++ c)
  | .stSc d a z c => some (67#7 ++ d ++ a ++ 0#4 ++ z ++ 1#1 ++ c)
  | .ldt d a b x => some (68#7 ++ d ++ a ++ b ++ 0#3 ++ BitVec.ofBool x)
  | .ldro d a z o => some (69#7 ++ d ++ a ++ z ++ o)
  | .ldv d a z o => some (70#7 ++ d ++ a ++ z ++ o)
  | .stv d a z o => some (71#7 ++ d ++ a ++ z ++ o)
  | .stvG d a b z => some (72#7 ++ d ++ a ++ b ++ 0#1 ++ z)
  | .pf l a i => some (2336#12 ++ l ++ a ++ i)
  | .cctl a o => some (9472#14 ++ a ++ 0#7 ++ o)
  | .fence o x c => some (75#7 ++ o ++ 0#17 ++ BitVec.ofBool x ++ c)
  | .waitc l s => some (622592#20 ++ l ++ s)
  | .atom d a b o => some (80#7 ++ d ++ a ++ b ++ o)
  | .atomD d a b o => some (81#7 ++ d ++ a ++ b ++ o)
  | .atomp d a b o => some (82#7 ++ d ++ a ++ b ++ o)
  | .atompD d a b o => some (83#7 ++ d ++ a ++ b ++ o)
  | .ldp d a z o => some (88#7 ++ d ++ a ++ z ++ o)
  | .stp d a z o => some (89#7 ++ d ++ a ++ z ++ o)
  | .rput n t a b x y z => some (90#7 ++ n ++ t ++ a ++ b ++ 0#1 ++ BitVec.ofBool x ++ BitVec.ofBool y ++ BitVec.ofBool z)
  | .rputG n t a b x y z => some (90#7 ++ n ++ t ++ a ++ b ++ 1#1 ++ BitVec.ofBool x ++ BitVec.ofBool y ++ BitVec.ofBool z)
  | .arm d q n => some (91#7 ++ d ++ 0#12 ++ BitVec.ofBool q ++ n)
  | .disarm d n => some (92#7 ++ d ++ 0#13 ++ n)
  | .msgs d a b t => some (93#7 ++ d ++ a ++ b ++ 0#1 ++ t)
  | .capmk d a => some (94#7 ++ d ++ a ++ 0#11)
  | .capck d a => some (94#7 ++ d ++ a ++ 1#11)
  | .msgd => some (3187671040#32)
  | .waitq d => some (95#7 ++ d ++ 1#18)
  | .barInit a n => some (12288#14 ++ a ++ 0#3 ++ n)
  | .barArv n => some (12713984#24 ++ n)
  | .barWait n => some (12845056#24 ++ n)
  | .barRarv a t => some (12672#14 ++ a ++ 0#8 ++ t)
  | .gset d a b => some (100#7 ++ d ++ a ++ b ++ 0#4)
  | .gwait d a b k q => some (101#7 ++ d ++ a ++ b ++ 0#2 ++ BitVec.ofBool k ++ BitVec.ofBool q)
  | .waitk m => some (13369344#24 ++ m)
  | .mma d a b f => some (104#7 ++ d ++ a ++ b ++ 0#1 ++ f)
  | .chb t => some (440401920#29 ++ t)
  | .che t => some (440664064#29 ++ t)
  | .scs n a => some (1696#11 ++ n ++ a ++ 0#11)
  | .acal d a => some (107#7 ++ d ++ a ++ 0#11)
  | .acfr a => some (13696#14 ++ a ++ 1#11)
  | .acrd d a b => some (108#7 ++ d ++ a ++ b ++ 0#4)
  | .acwr a b => some (13824#14 ++ a ++ b ++ 1#4)
  | .acz a => some (13824#14 ++ a ++ 2#11)
  | .aud a => some (13952#14 ++ a ++ 0#11)
  | .tcopy => some (3758096384#32)
  | .pipe x n => some (3702784#22 ++ x ++ n)
  | .fork d i => some (114#7 ++ d ++ i)
  | .join => some (3858759680#32)
  | .rdv => some (3860856832#32)
  | .launch a => some (14848#14 ++ a ++ 1664#11)
  | .nvsub d a b r => some (117#7 ++ d ++ a ++ b ++ 0#3 ++ BitVec.ofBool r)
  | .nvwait d a q => some (118#7 ++ d ++ a ++ 0#10 ++ BitVec.ofBool q)
  | .movs d x s => some (120#7 ++ d ++ 0#9 ++ BitVec.ofBool x ++ 0#1 ++ s)
  | .movsWrite d x s => some (120#7 ++ d ++ 0#9 ++ BitVec.ofBool x ++ 1#1 ++ s)
  | .winb w => some (126877696#27 ++ w)
  | .sysr d n => some (122#7 ++ d ++ 0#7 ++ n)
  | .sysw d n => some (123#7 ++ d ++ 0#7 ++ n)
  | .eret => some (4160749568#32)
  | .wfi => some (4162846720#32)
  | .halt => some (4164943872#32)
  | .tlbi a b k => some (16000#14 ++ a ++ b ++ k)
  | .preempt d a k => some (126#7 ++ d ++ a ++ 0#9 ++ k)
  | .resume d a => some (126#7 ++ d ++ a ++ 3#11)
  | .mfree a b => some (16256#14 ++ a ++ b ++ 0#4)
  | .mused a b => some (16256#14 ++ a ++ b ++ 1#4)
  | .rgrel a b => some (16256#14 ++ a ++ b ++ 2#4)
  | _ => none

/-- The instruction this decoder reads from the opcode table's numbering of a row: one 32-bit word. -/
def decodeTableWord (nbits w : Nat) : Option Instr :=
  if nbits ≤ 32 then
    match decode (BitVec.ofNat 32 w) with
    | .ok i => some i
    | .error _ => none
  else none

end Sys2Proof
end

