-- ==== Sys2Proof/Config.lean ====
section
/-! DEFINITION. What an implementation of the AD8 fixes and the spec leaves open: constants without a
body, so that no proof can see a value of them. -/

namespace Sys2Proof.Config

/-- Which of the two FP32 values that bracket the exact result a transcendental function returns:
true for the upper one (R60: the device's fixed choice, a function of function and argument; log 10).
`f` is the function code of R129. -/
opaque fp32Upper (f : Nat) (x : Word) : Bool

/-- The device identity public key of this part, derived at every boot (R354; log 15). -/
opaque identityKey : List Byte

/-- The hash fused for key slot k: of the RSA modulus, or of the SLH-DSA key when `slh` (R353; log 15). -/
opaque fusedHash (slh : Bool) (k : Nat) : BitVec 384

/-- The alias key pair's public half, which the secure controller derives from its identity key and the digests of the images that
it accepted (R354 names no derivation; log 15). -/
opaque aliasKey (digests : List (List Byte)) : List Byte

/-- The certificate of the identity key, issued at manufacture (R354; log 15). -/
opaque identityCertificate : List Byte

/-- The certificate of a public key under the device's identity key (R354; log 15). -/
opaque certificate (key : List Byte) : List Byte

/-- The signature of bytes under the alias key pair whose public half is given (R354: ECDSA P-384; log 15). -/
opaque aliasSign (key bytes : List Byte) : List Byte

/-- What an SPDM answer says beside what R354 names: 0 versions, 1 capabilities, 2 algorithms, 3 of a challenge, 4 of a key
exchange, 5 of its end (R354 names the features and no message; log 15). -/
opaque spdmContent (request : Nat) : List Byte

/-- Calibration data of links, sensors and current monitors in the payload of a configuration record (R354; log 15). -/
opaque recordCalibration (payload : List Byte) : List Byte

/-- Serial number that the payload of a configuration record carries (R354 gives the content and no layout; log 15). -/
opaque recordSerial (payload : List Byte) : BitVec 64

/-- Retired columns of a tower in the payload of a configuration record (R354; log 15). -/
opaque recordColumns (payload : List Byte) (tower : Nat) : BitVec 16

/-- Retired channels of a stack in the payload of a configuration record (R354; log 15). -/
opaque recordChannels (payload : List Byte) (stack : Nat) : BitVec 32

/-- Which valid entry of a 2 MiB run whose entries break the duty of R256 a walk of an address translates through
(any of them; log 57). -/
opaque runEntry (va n : Nat) : Nat

/-- Which line a full cache gives up (R247 states size and ways, and no replacement; log 94). -/
opaque victim (n : Nat) : Nat

/-- Which free physical accumulator bank the engine takes (R191: the map is the engine's; log 33). -/
opaque pickBank (n : Nat) : Nat

/-- Which of the free batch slots an aggregation batch takes (R276: any free one; log 37). -/
opaque pickSlot (n : Nat) : Nat

/-- Where the device keeps the SGL segment of a command whose buffer has several physical runs (R327; log 41). -/
opaque sglSegment (queue slot : Nat) : BitVec 64

/-- Refresh commands per channel that a refresh rate asks for in 10 µs (R339, R342; log 44). -/
opaque refreshRate (rate : BitVec 2) : BitVec 64

/-- Refresh commands per channel that a tower's stacks were given in a 10 µs period (R339, R342; log 44). -/
opaque refreshUse (tower period : Nat) : BitVec 64

/-- The line of ranges 0 to 30 of a stack, by its number there, that lies in place `n` of a channel: the interleaving is not stated
(R357; log 83). -/
opaque channelLine (channel n : Nat) : Nat

/-- The address field of `TINFO` where a misaligned-access trap names no address (R213 with R142; log 35). -/
opaque openAddr (n : Nat) : BitVec 57

/-- The hash by which an interface picks a port for a stream and a sequence number (R317, R323; log 101). -/
opaque planeHash (stream seq : Nat) : Nat

/-- Which route the source router of a packet takes, from the credits free toward the minimal one and toward each of the
others (R300; log 102). -/
opaque chooseRoute (minimal : Nat) (others : List Nat) : Nat

/-- The 6 bits of an order tag that stand for issuing core, group slot and target handle (R308; log 103). -/
opaque orderTag (key : Nat) : BitVec 6

/-- The payload of a datagram that leaves: no rule gives its layout (R322; log 104). -/
opaque wirePayload (n : Nat) : List Byte

/-- The keystream of AES-256-GCM by which the payload of a datagram is encrypted, and its tag: under the key of a pair of pods,
with a nonce that no rule gives (R323; log 104). -/
opaque gcmStream (key header : BitVec 256) (i : Nat) : BitVec 8

/-- The 16-byte tag over header and encrypted payload (R323; log 104). -/
opaque gcmTag (key header : BitVec 256) (payload : List Byte) : BitVec 128

/-- The fields of the item that a received payload carries: no rule gives its layout (R322; log 104). -/
opaque wireField (payload : List Byte) (field : Nat) : Nat

/-- STATUS of a write-off answer that says ACCEPTED (R322; log 104). -/
opaque acceptedCode : BitVec 5

/-- A byte of a part of a save record whose inner layout R294 does not give: commands, captured operands and chains of the
engines (log 14). `n` names the save, the part and the byte. -/
opaque engineImage (n : Nat) : BitVec 8

/-- Syndrome bits of an uncorrectable error that an instruction or a host core meets: unit, address and lane (log 109). -/
opaque syndrome (unit addr lane : Nat) : BitVec 64

end Sys2Proof.Config
end

