-- ==== Sys2Proof/Machine/State.lean ====
section
/-! DEFINITION. The state of one AD8 package, as plain data: everything the spec gives the machine
(INVENTORY.md lists it with rules and reset values), and the state after reset. -/

namespace Sys2Proof.Machine

open Host (Cell)

/-! ### Registers and synchronisation state of a context -/

/-- Full/empty state of a physical `v` register or a `k` register (R27). `acq`: armed by `arm.acq`, so
that the first read after the filling put is an acquire. -/
inductive RegState where
  | plain
  | armedEmpty (acq : Bool)
  | armedFull (acq : Bool)
  deriving DecidableEq, Repr

/-- The `k` registers of a context: values (0 when unlisted) and states (plain when unlisted) (R15, R27). -/
structure KFile where
  vals : Tab DWord
  states : Tab RegState
  deriving DecidableEq, Repr

/-- A token (R33). -/
structure Token where
  count : BitVec 8
  status : BitVec 4
  info : Word
  deriving DecidableEq, Repr

/-- Trap registers of a group or sequencer (R39). -/
structure TrapRegs where
  tcause : Word
  tinfo : DWord
  epc : DWord
  emask : Word
  respc : DWord
  deriving DecidableEq, Repr

/-- Where an access is performed: a physical address, a byte of a team's vault, or an address on a node. -/
inductive Loc where
  | phys (pa : Nat)
  | vault (team off : Nat)
  | peer (node va : Nat)
  deriving DecidableEq, Repr

/-- Outcome of a remote lane request (R170). -/
inductive PeerResult where
  | pending
  | ok
  /-- refused with a SUB code of R142 -/
  | refused (sub : BitVec 4)
  | writtenOff
  | poison
  deriving DecidableEq, Repr

/-- One lane of an outstanding access. `va` is the address of the element's byte for `ldt`, `fmt` the format code
of its page (0 raw) and `nib` its high nibble. `gauge` is the vault gauge that its bytes count toward (R153). `ro`: its line
is of normal memory, which caches may hold (R150, R248). -/
structure LaneAcc where
  lane : Nat
  va : Nat
  loc : Loc
  data : BitVec 128
  cmp : DWord
  fmt : BitVec 4
  nib : Bool
  ro : Bool
  gauge : Option (Nat × Nat)
  result : PeerResult
  value : BitVec 128
  deriving DecidableEq, Repr

/-- What kind of outstanding access it is; loads and atomics count in `LDC`, the others in `STC` (R145, R168). -/
inductive AccKind where
  | load
  | store
  | atomic
  | maint
  deriving DecidableEq, Repr

/-- The registers an access will write: none, a run of physical `v` rows, of `k` or of `s` registers. -/
inductive Dest where
  | none
  | v (row n : Nat)
  | k (reg n : Nat)
  | s (reg n : Nat)
  deriving DecidableEq, Repr

/-- An issued access that has not completed (R32, R145): `pc` and `mask` of the instruction, its order,
scope, size, destination and lanes. `peer`: `ldp`, `stp`, `atomp`. `reissue`: a load recorded at a halt, which is
translated again (R32, R147), and `fault` the fault record (column and number) that it waits on. `fenced`: lanes whose later
writes a `fence.rel` orders behind this load (R268). -/
structure Access where
  id : Nat
  kind : AccKind
  pc : Addr
  split : Nat
  mask : Word
  acq : Bool
  rel : Bool
  sc : Bool
  scope : BitVec 3
  size : Nat
  signed : Bool
  ro : Bool
  wide : Bool
  typed : Bool
  op : BitVec 4
  peer : Bool
  dst : Dest
  lanes : List LaneAcc
  reissue : Bool
  fault : Option (Nat × Nat)
  fenced : Word
  deriving DecidableEq, Repr

/-- State common to groups and sequencers: tokens, scale registers, `STAT`, trap registers, outstanding
accesses (their number is `LDC` and `STC`), open chain, audit interval and chain number (R32 to R39, R203, R207).
`parked`: the split table entries (0 in a scalar context) whose instruction is parked on a translation fault or has not executed
again after it, and the kind of access that each counts as, if any (R145, R260). -/
structure Regs where
  tok : Tab Token
  sc : Tab Word
  stat : Word
  trap : TrapRegs
  outs : List Access
  parked : Tab (Option AccKind)
  chain : Option Nat
  aud : BitVec 16
  chainSeq : BitVec 16
  deriving DecidableEq, Repr

/-- What a split in the resource wait is short of. `any` is one that its image does not name. -/
inductive Resource where
  | any
  /-- room in `LDC` or `STC` -/
  | counts (load : Bool)
  /-- room in a token's COUNT -/
  | token (n : Nat)
  /-- a place in the matrix or the copy engine's queue -/
  | matrix
  | copy
  /-- free physical accumulator banks, or the end of the commands on a logical one -/
  | banks (n : Nat)
  | bank (b : Nat)
  /-- the core's sequencer -/
  | sequencer
  /-- the activation table, to fill or to exchange -/
  | fill
  | exchange
  deriving DecidableEq, Repr

/-- What a split waits on, with the operand held in its entry (R29, R290). -/
inductive Wait where
  /-- 0: not waiting -/
  | none
  /-- 1: a pop or push of a queue port -/
  | queue (port : Nat) (push : Bool)
  /-- 2: an armed-empty register -/
  | reg (isK : Bool) (n : Nat)
  /-- 3: a barrier phase -/
  | barrier (n : Nat) (arv : Bool)
  /-- 4: a gauge generation, with the destination -/
  | gauge (mem : Bool) (loc : DWord) (g : Word) (dst : RegNum)
  /-- 5: tokens -/
  | token (mask : Byte)
  /-- 6: outstanding counts -/
  | counts (l s : BitVec 6)
  /-- 7: `waitq`, with its destination, the pass number and the Σ LOST recorded at issue (R315) -/
  | waitq (dst : RegNum) (pass lost : DWord)
  /-- 8: parked on a fault record of a column's buffer, with the faulting address (R260); `id` is 256 while the fault
  waits for a record to free -/
  | parked (col id va : Nat)
  /-- 9: `join` -/
  | join
  /-- 10: a resource that is tried again; also room in `LDC`, `STC` or a token's COUNT (log 92) -/
  | resource (what : Resource)
  /-- 0: held back by an earlier access, a reason that no WAIT code names (R145, R149) -/
  | order
  /-- 10: an answer to `launch`, `nvsub` or `gset` that is on its way -/
  | answer
  /-- 11: `nvwait`, with its destination and ticket -/
  | nvwait (dst : RegNum) (ticket : DWord)
  deriving DecidableEq, Repr

/-- An open hardware loop: counter, start and end addresses (R29, R109). -/
structure Loop where
  count : Word
  start : Addr
  last : Addr
  deriving DecidableEq, Repr

/-- A split table entry (R29). `LDEPTH` is the number of open loops, innermost last. `held`: held by the trap
of another split; `parkHeld`: held by another split's translation fault (both read as WAIT 8; R106, R260). -/
structure Split where
  valid : Bool
  pc : Addr
  mask : Word
  wbi : BitVec 5
  loops : List Loop
  wait : Wait
  held : Bool
  parkHeld : Bool
  deriving DecidableEq, Repr

/-- An active message as delivered (R23, R171). -/
structure QMsg where
  payload : List Word
  header : Word
  snode : Word
  score : Word
  deriving DecidableEq, Repr

/-- A trap that is due before the group's next issue: an access that met poison or was refused (R159, R170). -/
structure PostTrap where
  cause : BitVec 8
  pc : Addr
  mask : Word
  split : Nat
  info : DWord
  accessId : Nat
  deriving DecidableEq, Repr

/-- A group (R13, R18 to R39). `preds` holds one lane mask for each of `p0` to `p6`; `rows` the physical
registers (all lanes 0 when unlisted); `badRegs` the poisoned entries, 32 times the row plus the lane (R346). `latch`
is the operand latch: entries popped from a port, by its number, for an instruction that executes again (R17). -/
structure Group where
  rows : Tab Row
  states : Tab RegState
  badRegs : List Nat
  k : KFile
  preds : Tab Word
  splits : List Split
  deferred : List Split
  lastIssued : Nat
  regs : Regs
  awb : BitVec 12
  awl : BitVec 12
  part : BitVec 3
  arv : BitVec 256
  held : Option QMsg
  latch : Tab (List Row)
  q6 : List (BitVec 256)
  overwrite : Option DWord
  posts : List PostTrap
  quarter : Nat
  slot : Nat
  lastIssue : Nat
  waitingIssue : Nat
  urgent : Bool
  retired : Bool
  deriving DecidableEq, Repr

/-- A sequencer context (R217). `q6` holds event records and `q6pos` how many words of the head were read. -/
structure Seqr where
  s : Tab DWord
  k : KFile
  p : Byte
  pc : Addr
  regs : Regs
  wait : Wait
  q6 : List (BitVec 256)
  q6pos : Nat
  deriving DecidableEq, Repr

/-! ### Engines -/

/-- One operand of a captured `mma` (R197 to R200): its line bytes and scale bytes as captured from
registers, or a descriptor. -/
inductive MOperand where
  | tile (bytes : List Byte) (scales : List Byte)
  | desc (d : BitVec 128)
  deriving DecidableEq, Repr

/-- What a matrix-queue command does. -/
inductive MKind where
  /-- bank (128: freed since), tile number, chain, operands, formats (0: by page, 15: as the other operand),
  scale factors as FP32, k-steps performed -/
  | mma (bank : Nat) (tile : Word) (chain : Nat) (a b : MOperand) (fa fb : BitVec 4) (sa sb : Word)
      (done : BitVec 4)
  /-- the banks still to be zeroed -/
  | acz (banks : List Nat)
  /-- row (4096 or above: freed since), lanes and words -/
  | acwr (row : Nat) (mask : Word) (words : Row)
  /-- first logical bank and the physical banks to free -/
  | acfr (phys : List Nat)
  deriving DecidableEq, Repr

/-- A command in a matrix queue, with the team and context that issued it (R190). `dead`: a prepared `mma` of a chain that
failed, which performs no k-step (R205, R215). -/
structure MCmd where
  id : Nat
  team : Nat
  ctx : Ctx
  kind : MKind
  fault : Option (Nat × Nat)
  audited : Bool
  dead : Bool
  deriving DecidableEq, Repr

/-- A chain (R203): its context and token, captured audit interval, chain number, tiles issued, `mma`
commands not yet finished, whether it was closed, its first failure, and audit records not yet written. -/
structure Chain where
  id : Nat
  team : Nat
  ctx : Ctx
  token : Nat
  audit : Nat
  seqNo : BitVec 16
  tiles : Word
  open_ : Bool
  failed : Option (BitVec 4 × Word)
  aborted : Bool
  audits : List (BitVec 256)
  auditFault : Option (Nat × Nat)
  deriving DecidableEq, Repr

/-- A `tcopy` command (R208): its four registers, the start time of each chunk started, chunks done, remote chunks
sent, first failure, the chunk after which none is performed, follow-on `mma`, and for each chunk that waits on a fault
record its column, number and chunk. -/
structure CCmd where
  id : Nat
  team : Nat
  ctx : Ctx
  k8 : DWord
  k9 : DWord
  k10 : DWord
  k11 : DWord
  started : List Nat
  done : List Nat
  sentChunks : List Nat
  failed : Option (BitVec 4 × Word)
  stop : Option Nat
  follow : Option MCmd
  faults : List (Nat × Nat × Nat)
  deriving DecidableEq, Repr

/-- The activation table of a core (R134 to R138). Banks are sparse bytes; `bad` holds poisoned entries;
`draining`: evaluations that latched the bank that is not current have not ended; `fill` the pending fill, of the context that
waits, address and bytes, and `fillPc` the address of its `tblld`. -/
structure ActTable where
  holder : Option Nat
  bank0 : List Cell
  bank1 : List Cell
  bad0 : List Nat
  bad1 : List Nat
  current : Bool
  draining : Bool
  fill : Option (Ctx × Nat × Nat)
  fillPc : Addr
  deriving DecidableEq, Repr

/-- Engine work and table of a saved team that its record gives no inner layout for (R294; log 14): queued and
captured commands, open chains, the prepared follow-on, follow-ons that were handed over, and the table without its banks' bytes. -/
structure SavedWork where
  mq : List MCmd
  cq : List CCmd
  chains : List Chain
  followOn : Option MCmd
  released : List MCmd
  table : ActTable
  deriving DecidableEq, Repr

/-! ### Teams, grids and the scheduler -/

/-- A barrier (R37). -/
structure Barrier where
  expected : BitVec 16
  arrivals : BitVec 16
  phase : BitVec 16
  deriving DecidableEq, Repr

/-- An allocated logical accumulator bank: its physical bank, step count, words (0 when unlisted) and
poisoned words (R191, R347). `rect` names the rectangle it belongs to: first bank, tile rows, tile columns. -/
structure Bank where
  phys : Nat
  steps : Word
  words : Tab Word
  bad : List Nat
  rect : Nat × Nat × Nat
  deriving DecidableEq, Repr

/-- State of a team's directory entry (R273). `lost` and `done` entries are freed at once. -/
inductive TeamState where
  | resident
  | saving
  | saved
  | restoring
  deriving DecidableEq, Repr

/-- An event that waits while its team is being saved or restored (R28). -/
inductive HeldEvent where
  /-- a message of the inbound list, by its identity -/
  | message (id : Nat)
  deriving DecidableEq, Repr

/-- A team (R271 to R273). `rec` is its launch record with `argp` after aggregation; `cluster` a number
shared by the teams of its cluster, `heldCores` the cores whose pre-emption holds it (R241), and `rank0` their rank-0 home and handle. `home` and `slot` are in its key. -/
structure Team where
  gen : BitVec 10
  state : TeamState
  core : Nat
  recPa : Nat
  launch : BitVec 512
  grid : DWord
  argp : DWord
  x : BitVec 16
  y : BitVec 16
  z : BitVec 16
  rank : Nat
  cluster : Nat
  clusterSize : Nat
  rank0 : BitVec 26
  code : List Cell
  voff : Nat
  groups : List Group
  q0123 : Tab (List Row)
  q4 : List QMsg
  q5down : List DWord
  q5up : List DWord
  q7up : List DWord
  q7down : List DWord
  barriers : Tab Barrier
  acc : Tab Bank
  seq : Option Seqr
  pipeMin : Nat
  pipeMax : Nat
  depth : Nat
  latencies : List Nat
  lavg : Nat
  residentSince : Nat
  residentNs : Nat
  capFail : Option Word
  halted : Bool
  reason : BitVec 3
  held : Bool
  heldCores : List Nat
  wake : Bool
  fatal : BitVec 8
  sseq : BitVec 16
  events : Word
  saveCyc : DWord
  issuer : Option Nat
  tableHeld : Bool
  acked : Bool
  saved : SavedWork
  deriving DecidableEq, Repr

/-- One record's share of a grid: its handle, record, next team to place, and how many teams retired, were
halted by a fatal cause, or were lost (R274, R277). `met`: its dependency's condition held (R226). -/
structure GridPart where
  handle : DWord
  launch : BitVec 512
  argp : DWord
  next : Nat
  retired : Nat
  ended : Nat
  lost : Nat
  denied : Bool
  met : Bool
  noticed : Bool
  deriving DecidableEq, Repr

/-- A grid of a slice's grid table (R274): its parts (one, or the records of a batch) and the code as it
stood at launch (R259). `slot` is its batch slot. -/
structure Grid where
  parts : List GridPart
  slot : Option Nat
  code : List Cell
  poolFull : Bool
  deriving DecidableEq, Repr

/-- An aggregation batch (R276): opening time, its records with their handles, and the fault record that the write of
its indirection table waits on. The teams of its first `denied` records are not placed, because their job was made invalid since
(R224). -/
structure Batch where
  opened : Nat
  records : List (DWord × BitVec 512)
  code : List Cell
  closed : Bool
  fault : Option (Nat × Nat)
  denied : Nat := 0
  deriving DecidableEq, Repr

/-- A FULL launch line (R274): the record, its handle and whether it came from group or sequencer context. -/
structure Line where
  launch : BitVec 512
  handle : DWord
  user : Bool
  code : List Cell
  deriving DecidableEq, Repr

/-- A launch request on its way to a slice (R222, R184): of a context that waits for the answer in `reg`, or of a
gauge of another package, through the capability `cap`. -/
structure LaunchReq where
  who : Option Ctx
  cap : Option (BitVec 128)
  reg : RegNum
  col : Nat
  launch : BitVec 512
  user : Bool
  job : BitVec 8
  pri : BitVec 3
  deriving DecidableEq, Repr

/-- A completion notice that is due (R226): slice column, job, address and value, and its fault record. -/
structure Notice where
  col : Nat
  job : BitVec 8
  va : Nat
  value : DWord
  grid : DWord
  fault : Option (Nat × Nat)
  deriving DecidableEq, Repr

/-! ### Cores and coherence -/

/-- MOESI state of a line (R249). -/
inductive Moesi where
  | m
  | o
  | e
  | s
  deriving DecidableEq, Repr

/-- A snoop-filter entry: the L1s of the tower that hold the line (cores by number, the host core of column c as
1024 + c), and the one that holds it M, O or E (R249). -/
structure Snoop where
  holders : List Nat
  owner : Option Nat
  deriving DecidableEq, Repr

/-- A home agent's directory entry (R249). -/
structure DirLine where
  state : Moesi
  presence : Byte
  owner : Option Nat
  deriving DecidableEq, Repr

/-- A SIMT core (R6, R273, R288, R336). Generations unlisted are 0. `released` holds follow-on `mma`s that a finished copy
has handed over and that wait for room in the matrix queue (R190, R215). `sweep` holds what a wake still waits for, with the
time at which it ends: the register sweep of a quarter by its number, and the wake itself as 4 (R41, R336). -/
structure Core where
  gens : Tab (BitVec 10)
  mq : List MCmd
  cq : List CCmd
  chains : List Chain
  followOn : Option MCmd
  released : List MCmd
  phys : List Nat
  seqOwner : Option Nat
  table : ActTable
  roCache : Tab (List Byte)
  l1 : Tab Moesi
  heldPlacement : Bool
  asleep : Bool
  sweep : List (Nat × Nat)
  gating : Bool
  powered : Bool
  idleSince : Nat
  deriving DecidableEq, Repr

/-! ### Columns -/

/-- Supervisor or machine trap registers of a host core (R234). -/
structure HostTrap where
  cause : DWord
  info : DWord
  epc : DWord
  vec : DWord
  deriving DecidableEq, Repr

/-- An instruction of a host core that has begun and has not passed: a pre-emption (the team named with its generation,
the teams it halts, and its count), or a `tlbi` (R240, R241). -/
inductive Pending where
  | halt (team : Option (Nat × BitVec 10)) (teams : List Nat) (count : Nat)
  | tlbi
  deriving DecidableEq, Repr

/-- A host core (R13, R234, R235). `outs` holds its access to a peer package while it waits for the answer; `l1` the
states of the lines in its data cache and `icache` the lines of its instruction cache (R247, R259). -/
structure HostCore where
  s : Tab DWord
  outs : List Access
  k : KFile
  p : Byte
  pc : Addr
  stopped : Bool
  wfi : Bool
  wait : Wait
  ie : Bool
  pie : Bool
  ppl : BitVec 2
  pl : BitVec 2
  strap : HostTrap
  mtrap : HostTrap
  hscratch : DWord
  hmbsel : DWord
  hie : DWord
  htcmp : DWord
  hdeleg : DWord
  hevdrop : Word
  jobsel : DWord
  fbsel : DWord
  schctl : DWord
  tmsel : DWord
  nvqsel : DWord
  shlsel : DWord
  uksel : DWord
  isel : DWord
  hbmsel : DWord
  bgsel : DWord
  svcsel : DWord
  shlksel : DWord
  ejhi : Word
  q6 : List (BitVec 256)
  q6pos : Nat
  q7order : List Nat
  pending : Option Pending
  l1 : Tab Moesi
  icache : Tab (List Byte)
  deriving DecidableEq, Repr

/-- What a walk found when it ended without a translation (R254, R261). -/
structure WalkEnd where
  entry : DWord
  malf : Bool
  level : BitVec 2
  eaddr : BitVec 52
  deriving DecidableEq, Repr

/-- A translation fault: address, kind, where the walk ended, the column that it was made for, and the addresses of the table
entries that it read (R252). -/
structure FaultAt where
  va : Nat
  kind : BitVec 3
  walk : WalkEnd
  col : Nat
  reads : List Nat
  deriving DecidableEq, Repr

/-- A fault record with its waiter count (R261). -/
structure FaultRec where
  id : Nat
  va : Nat
  asid : BitVec 16
  job : BitVec 8
  kind : BitVec 3
  agent : BitVec 3
  core : BitVec 10
  waiters : Nat
  entry : DWord
  malf : Bool
  level : BitVec 2
  eaddr : BitVec 52
  deriving DecidableEq, Repr

/-- An error record (R350). -/
structure ErrRec where
  w0 : DWord
  w1 : DWord
  w2 : DWord
  deriving DecidableEq, Repr

/-- A wake entry (R290): the cluster, and whether it is one of the 256 (REASON 1). -/
structure WakeEntry where
  cluster : Nat
  swap : Bool
  deriving DecidableEq, Repr

/-- Slice coherence state (R249): the tower's state of each line homed here, the lines whose data the slice holds, and
the snoop-filter part. -/
structure SliceCoh where
  lines : Tab Moesi
  data : List Nat
  snoop : Tab Snoop
  deriving DecidableEq, Repr

/-- Governor of a column (R335): level, Tj in 0.125 °C, event count, time of entry into the level, THCAP. -/
structure Governor where
  level : BitVec 2
  tj : Nat
  events : BitVec 16
  since : Nat
  thcap : BitVec 4
  dropPending : Bool
  deriving DecidableEq, Repr

/-- Service state of a column (R355, R356). -/
structure Service where
  drain : Bool
  status : BitVec 4
  image : DWord
  staged : Option (BitVec 16 × Word)
  running : Tab Word
  retired : Bool
  failed : Bool
  deriving DecidableEq, Repr

/-- Energy meters (R341). -/
structure Energy where
  ej : Tab DWord
  eh : DWord
  carry : Nat
  deriving DecidableEq, Repr

/-- A background budget (R342): limit, use in this period, use in the last complete period. -/
structure Budget where
  limit : DWord
  now : Nat
  last : Nat
  deriving DecidableEq, Repr

/-- A column (R4): host core, slice, governor, error log. `heads`: the head of each priority level (true: a cluster to
resume; false: a grid) and since when it has been the head (R282). `heldGrids`: handles whose unplaced teams are held back
(R241). `marks`: when a timed activity of the column was last done (0 activity window, 1 governor sample, 2 energy interval,
3 budget period). `unfiled`: faults of parked contexts that wait for a record to free, oldest first, with the agent (R260). -/
structure Column where
  host : HostCore
  aggbase : Tab DWord
  faults : List FaultRec
  unfiled : List (Ctx × Nat × FaultAt)
  lines : Tab Line
  gseq : BitVec 30
  grids : List Grid
  batches : Tab Batch
  resumeQ : List Nat
  heldGrids : List DWord
  wakes : List WakeEntry
  heads : Tab (Bool × Nat × Nat)
  blocked : Tab (Bool × Nat)
  cycBase : Nat
  marks : Tab Nat
  gov : Governor
  pgate : Byte
  energy : Energy
  budgets : Tab Budget
  coh : SliceCoh
  errs : List ErrRec
  errOvf : Bool
  errCount : Word
  errThr : Word
  errRecent : Nat
  errSince : Nat
  svc : Service
  deriving DecidableEq, Repr

/-- A loss record (R312). -/
structure LossRec where
  w0 : DWord
  w1 : DWord
  w2 : DWord
  deriving DecidableEq, Repr

/-- A tower (R3, R304, R338): loss log, region-table base, power of its upper dies, highest reading of each column's
sensors in 0.001 °C, the reading of the last trip and its time, last PEERDOWN times. -/
structure Tower where
  losses : List LossRec
  lossOvf : Bool
  rgtbase : DWord
  powered : Bool
  readings : Tab Nat
  sensor : Nat
  tripAt : Nat
  peerdown : Tab Nat
  deriving DecidableEq, Repr

/-- An island (R329 to R332, R334). `phase`: 0 steady, 1 raising before the voltage settles, 2 raising with
the clock stopped, 3 lowering with the clock stopped, 4 lowering before the voltage settles. -/
structure Island where
  point : BitVec 4
  target : BitVec 4
  step : Bool
  capped : Bool
  status : BitVec 4
  phase : Nat
  since : Nat
  lowerTo : Option (BitVec 4)
  sample : Word
  busyr : BitVec 16
  stallr : BitVec 16
  deriving DecidableEq, Repr

/-- An HBM stack (R339, R340, R357). `retired` is its retired channels, `moving` the one being retired; `scrubNow` and
`scrubLast` the bytes scrubbed in this period and in the last one (R342); `readAt` the time of the last reading. -/
structure Stack where
  reads : Word
  temp : Byte
  ref : BitVec 2
  cap : BitVec 2
  retired : Word
  moving : Option Nat
  status : BitVec 4
  toMove : Word
  range31gone : Bool
  scrubNow : Nat
  scrubLast : Nat
  readAt : Nat
  deriving DecidableEq, Repr

/-! ### Fabric -/

/-- Message classes of R312, with the counting of R166. -/
inductive MsgClass where
  | rput
  | barRarv
  | msgs
  | stp
  | atomp
  | gauge
  | chunk
  | ldp
  deriving DecidableEq, Repr

/-- What the end of a message completes at its sender (R309). -/
inductive Completion where
  /-- a token of a context -/
  | token (ctx : Ctx) (t : Nat)
  /-- a lane of an outstanding access -/
  | access (ctx : Ctx) (id lane : Nat)
  /-- a chunk of a copy command -/
  | chunk (core id n : Nat)
  /-- a gauge's ARRIVE: its column, and the GAUGE record to push if it is refused -/
  | gauge (col : Nat) (record : BitVec 256)
  deriving DecidableEq, Repr

/-- A message or request of R166 and R168 (R308): sender, destination, stream, sequence number, order tag,
and its content. `reg` is the put's register offset, `wide`, `bcast`, `rel` and `toGauge` its `.d`, `.b`, `.rel`, `.g`.
`lanes` holds a put's or message's words, and for a copy chunk the address and length of each of its pieces. `onode` and `ova` are the node and virtual address that a
request first named, whatever translation or forwarding it is sent by (R320, R321). `kept`: it is sent through a kept entry;
`pool`: it is replayed by physical address into a pool (R321); `part`: it holds pieces of a copy chunk that a forward entry of
another page than theirs parted from the rest, which CON counts (R212; log 111). -/
structure Msg where
  id : Nat
  cls : MsgClass
  snode : BitVec 20
  stwr : BitVec 3
  score : BitVec 10
  dnode : BitVec 20
  dtwr : BitVec 3
  seqNo : Word
  tag : Nat
  job : BitVec 8
  pri : BitVec 3
  cap : BitVec 128
  reg : BitVec 4
  wide : Bool
  bcast : Bool
  rel : Bool
  toGauge : Bool
  mask : Word
  lanes : List DWord
  header : DWord
  addr : Nat
  phys : Bool
  kept : Bool
  pool : Bool
  onode : BitVec 20
  ova : Nat
  size : Nat
  op : BitVec 4
  cmp : DWord
  bytes : List Byte
  bad : Bool
  redirects : Nat
  fault : Option (Nat × Nat)
  writeoff : Bool
  part : Bool := false
  deriving DecidableEq, Repr

/-- A message not yet acknowledged (R309): first sending, whether it is not to be sent again (it was, or a cumulative
acknowledgement says that it has been decided, R322), WRITEOFFs sent, and the plane (0 to 31) or Ethernet
port (32 to 35) that it left by last, if it left the package (R317, R323). -/
structure SentMsg where
  msg : Msg
  port : Option Nat
  comp : Completion
  first : Nat
  resent : Bool
  writeoffs : Nat
  lastWriteoff : Nat
  deriving DecidableEq, Repr

/-- An acknowledgement or write-off answer (R309): the message, what it reports, its data. -/
inductive AckKind where
  /-- decided, with the outcome status, the refusal SUB (R170), poison and data -/
  | decided (status : BitVec 4) (sub : BitVec 4) (bad : Bool) (data : BitVec 128)
  /-- a retransmission of a message already decided: the kept outcome, without data (R311) -/
  | kept (status : BitVec 4)
  /-- WRITEOFF answered ACCEPTED -/
  | accepted
  /-- WRITEOFF answered PERFORMED with the kept status -/
  | performed (status : BitVec 4)
  /-- a forward entry: node, SPACE, address (R321) -/
  | redirect (node : BitVec 20) (space : Bool) (addr : Nat)
  /-- the kept translation is not accepted (R320) -/
  | retranslate
  deriving DecidableEq, Repr

/-- An acknowledgement on its way, with the translation a target gives with it (R320). `va`: of a redirection of a copy chunk,
the address of the piece of it that met the forward entry. -/
structure Ack where
  id : Nat
  kind : AckKind
  xlate : Option Nat
  va : Nat := 0
  deriving DecidableEq, Repr

/-- The kept outcome of a stream's sequence number (R311); none: written off. `away`: the message was not decided here but
answered with a redirection or RETRANSLATE, which a copy of it is answered with again (R320, R321), of the piece at `va`. -/
structure Outcome where
  stream : Nat
  seqNo : Word
  status : Option (BitVec 4)
  away : Option AckKind
  va : Nat := 0
  deriving DecidableEq, Repr

/-- An answer that has left for the interface of another package (R309): its node, the message, what it says. -/
structure AckOut where
  msg : Msg
  kind : AckKind
  xlate : Option Nat
  va : Nat := 0
  deriving DecidableEq, Repr

/-- A Sahlin datagram that has left by an Ethernet port (R322, R323): IPv6 destination, UDP port, header, encrypted payload, and
the 16-byte tag over both, under the key of the pair of pods. -/
structure Wire where
  port : Nat
  dest : BitVec 128
  udp : BitVec 16
  header : BitVec 256
  payload : List Byte
  tag : BitVec 128
  deriving DecidableEq, Repr

/-- A kept translation or forwarding (R320, R321): interface, node, job and page, and where it leads: node, tower, page, and
whether by physical address, of a pool. `vpage` is the page of that node's virtual space that it was found by. -/
structure XEntry where
  tower : Nat
  node : Nat
  job : Nat
  page : Nat
  fwdNode : Nat
  dtwr : BitVec 3
  vpage : Nat
  target : Nat
  phys : Bool
  pool : Bool
  deriving DecidableEq, Repr

/-- A sharer list (R320): job, interface, page and node given a translation, and the size of the page that gave it (as a
power of 2). -/
structure Sharer where
  job : Nat
  tower : Nat
  page : Nat
  node : Nat
  shift : Nat
  deriving DecidableEq, Repr

/-- A translation invalidation (R320): one received from the package `node`, or one sent to it, of the entries that lead to
a page of the package `target`, or to any of its pages. `flood`: it goes to every package of the job's tree. -/
structure Inval where
  out : Bool
  node : Nat
  target : Nat
  job : Nat
  page : Option Nat
  flood : Bool
  acked : Bool
  deriving DecidableEq, Repr

/-- A write whose bytes are still to be counted at a gauge (R183). -/
inductive CountItem where
  | vault (team off bytes : Nat)
  | mem (agent entry bytes : Nat)
  deriving DecidableEq, Repr

/-- A store or `cctl` that a team issued before a fatal cause freed its cluster with no image (R238, R280): the context and job
that issued it and the cache it goes through. It is performed later like any store (log 110). -/
structure LateStore where
  ctx : Ctx
  agent : Nat
  job : Nat
  acc : Access
  deriving DecidableEq, Repr

/-- A pending NOTIFY store or LAUNCH store of a gauge (R184), with the GAUGE record to push on failure. `late`:
failures of later actions of the same firing, whose records follow (R185); `id`: a request sent to another package. -/
structure GaugeStore where
  col : Nat
  job : BitVec 8
  pri : BitVec 3
  va : Nat
  gen : Word
  cap : BitVec 128
  launch : BitVec 512
  record : BitVec 256
  due : Nat
  late : Nat
  id : Nat
  fault : Option (Nat × Nat)
  deriving DecidableEq, Repr

/-- A memory gauge: the physical 64 KiB pages of its region, its job and limit, and its quad (R182, R186). -/
structure MGauge where
  pages : List Nat
  job : BitVec 8
  limit : BitVec 3
  total : Word
  count : Word
  gen : Word
  action : BitVec 4
  params : List Byte
  deriving DecidableEq, Repr

/-- The translation caches (R258): the L1 TLB of a core or of a host core, the TLB of a column, the last-level TLB of a
base die, and a base die's walk caches. -/
inductive TlbUnit where
  | core (c : Nat)
  | host (col : Nat)
  | column (col : Nat)
  | die (tower : Nat)
  | walk (tower : Nat)
  deriving DecidableEq, Repr

/-- A cached entry (R258): where it is held, the ASID and the 64 KiB page it was walked for, the entry (a leaf, or a table
entry in a walk cache) and its level. -/
structure TlbEntry where
  unit : TlbUnit
  asid : BitVec 16
  page : Nat
  entry : DWord
  level : Nat
  deriving DecidableEq, Repr

/-- A wave packet at this package (R314): a WAVE from the parent, a child's REPLY, or a QUIET. -/
inductive WavePacket where
  | wave (job : Nat) (pass : DWord)
  | reply (job : Nat) (pass : DWord) (child : BitVec 20) (inj con lost : DWord) (disc : Bool)
  | quiet (job : Nat) (pass lost : DWord) (disc : Bool)
  deriving DecidableEq, Repr

/-- A tower's message counters and wave values for one job (R306, R307, R315). -/
structure TowerJob where
  inj : DWord
  con : DWord
  lost : DWord
  snapPass : DWord
  qpass : DWord
  qlost : DWord
  deriving DecidableEq, Repr

/-- The wave agent's state for one job (R314): `snaps` holds the snapshots that the towers have taken for the running pass,
`sentAt` when the last WAVE left for each child, and the last REPLY for the parent. -/
structure WaveState where
  pass : DWord
  started : Nat
  running : Bool
  snaps : Tab (DWord × DWord × DWord × Bool)
  replies : List (BitVec 20 × DWord × DWord × DWord × Bool)
  prev : Option (DWord × DWord × DWord)
  replied : DWord
  sentAt : Tab Nat
  deriving DecidableEq, Repr

/-- A job's registers (R234, R278, R307). -/
structure Job where
  ctl : DWord
  root : DWord
  key0 : DWord
  key1 : DWord
  wdog : DWord
  trbase : DWord
  trsize : DWord
  trhead : Word
  trtail : Word
  trdrop : Word
  savebase : DWord
  savelen : DWord
  mcfail : Word
  wvctl : DWord
  wvkids : DWord
  wvkid : Tab DWord
  fwctl : DWord
  wave : WaveState
  towers : Tab TowerJob
  deriving DecidableEq, Repr

/-- A submission slot (R228, R229): who issued the command, whether its team is gone, opcode, the address of its buffer and
its physical pieces with their lengths, blocks, the result once it is there, and the context that waits with its register. -/
structure NvSlot where
  ctx : Ctx
  orphan : Bool
  op : Byte
  pichk : Bool
  va : Nat
  buf : List (Nat × Nat)
  blocks : Nat
  result : Option DWord
  waiter : Option (Ctx × RegNum)
  deriving DecidableEq, Repr

/-- The registers and slots of one queue (R326). -/
structure NvQueue where
  ctl : DWord
  sqb : DWord
  cqb : DWord
  sqdb : DWord
  cqdb : DWord
  qid : DWord
  pab : DWord
  slots : Tab NvSlot
  sqtail : Nat
  sqhead : BitVec 16
  cqhead : Nat
  phase : Bool
  deriving DecidableEq, Repr

/-- What goes out on a plane (R316): a UPLI request of `ldp`, `stp` or `atomp`, its response, or a write that carries the header
of R323. -/
inductive UpliKind where
  | read
  | write
  | atomic
  | response
  | headed (header : BitVec 256)
  deriving DecidableEq, Repr

/-- A UALinkSec plane (R316, R318). `replay` holds the flits that the partner has not taken, as the message and the identifier of
the key they are encrypted under, and `upli` what each of them is; `rx` and `rxOld` are the keys of the receive direction. -/
structure Plane where
  staged : BitVec 256
  key : BitVec 256
  old : Option (BitVec 256)
  keyId : BitVec 2
  busy : Bool
  replay : List (Nat × BitVec 2)
  upli : List (Nat × UpliKind)
  rx : BitVec 256
  rxOld : Option (BitVec 256)
  deriving DecidableEq, Repr

/-- A Sahlin key pair of one peer pod (R349). -/
structure ShlKey where
  staged : BitVec 256
  key : BitVec 256
  old : Option (BitVec 256)
  changed : Nat
  deriving DecidableEq, Repr

/-- A virtual channel (R299). -/
inductive Chan where
  | mgmt
  | req
  | rsp
  | wb
  | msg
  deriving DecidableEq, Repr

/-- What a packet carries (R299). -/
inductive Carried where
  | slackWave
  | linkControl
  | eventRecord
  | read
  | write
  | atomic
  | probe
  | walkerRead
  | data
  | acknowledgement
  | writeBack
  | message
  | messageAck
  deriving DecidableEq, Repr

/-- An end of a packet's way in the package: a column's router with what stands beside it, a tower's fabric interface, the home
agent of an HBM stack, or an external port, behind the interface that owns it (R299, R304). -/
inductive Block where
  | column (col : Nat)
  | interface (tower : Nat)
  | homeAgent (stack : Nat)
  | port (n : Nat)
  deriving DecidableEq, Repr

/-- A packet at a router output or egress port (R300, R303): its channel and class, the router (a global column) that it goes
to and the egress port behind it, the intermediate quadrant that a non-minimal route still has to reach, whether its route on
this die is non-minimal, the input that it waits at, when it arrived there, and since when it has been at its head. -/
structure Packet where
  id : Nat
  chan : Chan
  cls : BitVec 3
  dst : Nat
  exit : Option Nat
  via : Option Nat
  nonmin : Bool
  input : Nat
  age : Byte
  arrived : Nat
  headAt : Nat
  deriving DecidableEq, Repr

/-- A router output or egress port (R299, R303): packets waiting, the input served last in each class, and the credits that
each buffer behind it has given: twice the channel's number, plus 1 for the class of non-minimal packets (R300). -/
structure EgressPort where
  packets : List Packet
  lastServed : Tab Nat
  credits : Tab Nat
  deriving DecidableEq, Repr

/-- A firmware image or configuration record in the module flash (R352): its bytes. -/
structure FlashCopy where
  bytes : List Byte
  deriving DecidableEq, Repr

/-- The secure controller (R352 to R359). `flash` holds the copies of each TYPE, A first; `calibration` what the accepted
configuration record gives for links, sensors and current monitors; `aliasKey` the alias key with its certificate under the
identity key; `portSessions` the planes with whose switch port an SPDM session is held, and `keysOut` the link keys delivered in
them (R318, R354). -/
structure Hertor where
  aux : Bool
  main : Bool
  mrstnLow : Bool
  hrdy : Bool
  malrt : Bool
  step : Word
  failure : BitVec 16
  flash : Tab (List FlashCopy)
  accepted : Tab FlashCopy
  minsvn : Tab Word
  revoked : BitVec 4
  kslot : BitVec 2
  serial : DWord
  cfgRetired : Tab (BitVec 16)
  cfgChannels : Tab DWord
  calibration : List Byte
  aliasKey : Option (List Byte × List Byte)
  portSessions : List Nat
  keysOut : List (Nat × BitVec 256)
  sessions : Nat
  answers : List (SpdmReq × List Byte)
  deriving DecidableEq, Repr

/-- A PCIe/CXL port (R324, R325, R358): held in reset, the data answered to the host or to a device, the lines of HBM that
the host holds and those it has been told to give up, and the columns whose events the host has enabled with the events that
MSI-X has told it of. -/
structure PciePort where
  inReset : Bool
  answers : List (List Byte)
  held : List Nat
  backInval : List Nat
  msixOn : List Nat
  msix : List (Nat × BitVec 256)
  deriving DecidableEq, Repr

/-! ### The package -/

/-- Where an error is found that is no scrub's (R344, R348): a lane of a register row, a word of an accumulator bank, a line of
a vault, of a slice, of a core's L1 or read-only cache, or of a host core's instruction cache, the registers or data cache
of a host core, a line of HBM, an entry of an activation table's first or second bank, lines of a set of an L1, of a slice or
of a snoop filter whose tags or state are not known any more, and the directory state of a line, of which a tower's copy may be
uncorrectable. -/
inductive ErrSite where
  | reg (team group row lane : Nat)
  | accum (team bank word : Nat)
  | vault (line : Nat)
  | slice (col line : Nat)
  | l1 (core line : Nat)
  | readOnly (core line : Nat)
  | hostInst (col line : Nat)
  | hostCore (col : Nat)
  | hbm (line : Nat)
  | table (core : Nat) (second : Bool) (entry : Nat)
  | l1Tags (core : Nat) (lines : List Nat)
  | sliceTags (col : Nat) (lines : List Nat)
  | snoopTags (col : Nat) (lines : List Nat)
  | directory (line : Nat) (badCopy : Bool)
  deriving DecidableEq, Repr

/-- What happens next (log 4): a step of the opcode table, an issue of a context, the passing of time, an
eviction of a cached translation or of a cached line, or something that reaches the package from outside. -/
inductive Agenda where
  | event (i : Instr)
  | issue (c : Ctx)
  | elapse (ns : Nat)
  | evictTlb (n : Nat)
  | evictRo (core line : Nat)
  | evictL1 (agent line : Nat)
  | evictIcache (col line : Nat)
  | receive (m : Msg)
  | receiveLaunch (l : LaunchReq)
  | receiveAck (a : Ack)
  | receiveInval (v : Inval)
  | receiveWave (w : WavePacket)
  /-- the wave agent's request for a snapshot reaches a tower (R314) -/
  | towerSnapshot (job tower : Nat)
  /-- a packet enters the network at one end, for another, caused by a context (R299, R300, R303) -/
  | inject (src dst : Block) (what : Carried) (cause : Ctx)
  /-- the buffer behind an output has room for one more packet (R299) -/
  | credit (output : Nat) (chan : Chan) (nonmin : Bool)
  /-- the partner of a plane has taken a flit (R318) -/
  | flitTaken (plane id : Nat)
  /-- the secure controller delivers the partner's next key, or the partner's key-retire arrives (R318) -/
  | planeKey (plane : Nat) (key : BitVec 256)
  | planeRetire (plane : Nat)
  /-- the secure controller delivers the key of a plane to the partner receiver (R318, R354) -/
  | deliverKey (plane : Nat)
  /-- the home agent moves the next line of the channel that is being retired (R357) -/
  | moveLine (stack : Nat) (found : ScrubResult)
  /-- the oldest event of a host core is told to the host (R324) -/
  | msix (port col : Nat)
  /-- an error is found in a storage structure as it is used (R344, R348) -/
  | storageError (site : ErrSite) (found : ScrubResult)
  deriving DecidableEq, Repr

/-- One AD8 package. -/
structure State where
  cur : Ctx
  agenda : List Agenda
  fresh : Nat
  now : Nat
  node : BitVec 20
  mem : List Cell
  poison : List Nat
  freed : List Nat
  claims : List (Nat × Nat)
  tlb : List TlbEntry
  jobs : Tab Job
  cols : Tab Column
  cores : Tab Core
  towers : Tab Tower
  teams : Tab Team
  islands : Tab Island
  hbm : Tab Stack
  mgauges : Tab MGauge
  directory : Tab DirLine
  inbound : List Msg
  sent : List SentMsg
  acks : List Ack
  streams : Tab Word
  undecided : Tab Word
  outcomes : List Outcome
  ackOut : List AckOut
  xlate : List XEntry
  sharers : List Sharer
  invals : List Inval
  waves : List WavePacket
  waveOut : List (BitVec 20 × WavePacket)
  waveWait : List (BitVec 20 × WavePacket)
  counts : List CountItem
  late : List LateStore
  notifies : List GaugeStore
  glaunches : List GaugeStore
  launches : List LaunchReq
  notices : List Notice
  nvqs : Tab NvQueue
  shlport : DWord
  shlpfx : Tab DWord
  shliid : DWord
  lnkdrain : DWord
  links : BitVec 38
  planes : Tab Plane
  shlkeys : Tab ShlKey
  egress : Tab EgressPort
  mgmtWait : List (Block × Block × Carried × Ctx)
  shlrx : List (BitVec 256 × List Byte)
  shltx : List Wire
  hbmLast : Nat
  hertor : Hertor
  pcie : Tab PciePort
  deriving DecidableEq, Repr

/-! ### Reasons a step can stop -/

/-- Faults: the machine stops because the spec gives no behaviour to go on with. -/
inductive Fault where
  /-- An access to the Hertor mailbox, 0x180_0000_1000 to 0x180_0000_1FFF (R359 names the window and gives no
  behaviour; log 16). Raised by loads, stores and atomics of a host core. Safe: a claim about such a run is lost. -/
  | hertorMailbox (pa : Nat)
  deriving DecidableEq, Repr

/-- Refusals: no meaning is given. -/
inductive Refusal where
  /-- The row of the opcode table has no meaning in this model yet. Raised by its arm of `exec`. Safe. -/
  | notModelled (mnemonic : String)
  deriving DecidableEq, Repr

/-! ### After reset -/

/-- A `k` file of zeros in the plain state (R18). -/
def KFile.zero : KFile := { vals := [], states := [] }

/-- Trap registers after reset or at launch (R39). -/
def TrapRegs.zero : TrapRegs := { tcause := 0, tinfo := 0, epc := 0, emask := 0, respc := 0 }

/-- Tokens with COUNT 0, scale registers 0, `STAT` 0, nothing outstanding (R32, R33, R35, R38, R207). -/
def Regs.zero : Regs :=
  { tok := [], sc := [], stat := 0, trap := TrapRegs.zero, outs := [], parked := [], chain := none, aud := 0, chainSeq := 0 }

/-- Host trap registers at reset: the spec gives no value (log 3). -/
def HostTrap.zero : HostTrap := { cause := 0, info := 0, epc := 0, vec := 0 }

/-- A host core as it starts: machine level, interrupts off (R235, R359), `HTCMP` all ones, `HDELEG` 0
(R234); its other registers 0 and its pc 0 (logs 1, 2, 3). -/
def HostCore.reset : HostCore :=
  { s := [], outs := [], k := KFile.zero, p := 0, pc := 0, stopped := false, wfi := false, wait := .none, ie := false, pie := false,
    ppl := 3, pl := 3, strap := HostTrap.zero, mtrap := HostTrap.zero, hscratch := 0, hmbsel := 0, hie := 0,
    htcmp := BitVec.allOnes 64, hdeleg := 0, hevdrop := 0, jobsel := 0, fbsel := 0, schctl := 0, tmsel := 0,
    nvqsel := 0, shlsel := 0, uksel := 0, isel := 0, hbmsel := 0, bgsel := 0, svcsel := 0, shlksel := 0,
    ejhi := 0, q6 := [], q6pos := 0, q7order := [], pending := none, l1 := [], icache := [] }

/-- A slice with no line cached. -/
def SliceCoh.reset : SliceCoh := { lines := [], data := [], snoop := [] }

/-- Governor at NORMAL with THCAP 9 (R330, R335). -/
def Governor.reset : Governor := { level := 0, tj := 0, events := 0, since := 0, thcap := 9, dropPending := false }

/-- Service state of a working column, not draining (R355). -/
def Service.reset : Service :=
  { drain := false, status := 0, image := 0, staged := none, running := [], retired := false, failed := false }

/-- Budgets at their reset limits (R342); refresh commands per channel at the rate of R339 are held as 0, which
R342 raises to what R339 requires. -/
def Budget.resets : Tab Budget :=
  [(0, { limit := 0, now := 0, last := 0 }), (1, { limit := 64, now := 0, last := 0 }),
   (2, { limit := 4096, now := 0, last := 0 }), (3, { limit := 256, now := 0, last := 0 }),
   (4, { limit := 2048, now := 0, last := 0 })]

/-- A column after reset at time `t` (R225, R274, R329 to R356). -/
def Column.reset (t : Nat) : Column :=
  { host := HostCore.reset, aggbase := [], faults := [], unfiled := [], lines := [], gseq := 0, grids := [],
    batches := [], resumeQ := [], heldGrids := [], wakes := [], heads := [], blocked := [], cycBase := t, marks := [], gov := Governor.reset, pgate := 0,
    energy := { ej := [], eh := 0, carry := 0 }, budgets := Budget.resets, coh := SliceCoh.reset, errs := [],
    errOvf := false, errCount := 0, errThr := 0, errRecent := 0, errSince := 0, svc := Service.reset }

/-- An activation table that no team holds (R134). -/
def ActTable.empty : ActTable :=
  { holder := none, bank0 := [], bank1 := [], bad0 := [], bad1 := [], current := false, draining := false, fill := none,
    fillPc := 0 }

/-- No saved engine work. -/
def SavedWork.none : SavedWork :=
  { mq := [], cq := [], chains := [], followOn := Option.none, released := [], table := ActTable.empty }

/-- A core with nothing resident, awake and open for placement. -/
def Core.reset : Core :=
  { gens := [], mq := [], cq := [], chains := [], followOn := none, released := [], phys := [], seqOwner := none,
    table := ActTable.empty, roCache := [], l1 := [], heldPlacement := false, asleep := false, sweep := [], gating := false,
    powered := true, idleSince := 0 }

/-- A tower with its dies powered and an empty loss log. -/
def Tower.reset : Tower :=
  { losses := [], lossOvf := false, rgtbase := 0, powered := true, readings := [], sensor := 0, tripAt := 0,
    peerdown := [] }

/-- An island at point 15 (R329). -/
def Island.reset : Island :=
  { point := 15, target := 15, step := false, capped := false, status := 0, phase := 0, since := 0,
    lowerTo := none, sample := 0, busyr := 0, stallr := 0 }

/-- A stack with no reading taken (R340) and no channel retired. -/
def Stack.reset : Stack :=
  { reads := 0, temp := 0, ref := 0, cap := 0, retired := 0, moving := none, status := 0, toMove := 0,
    range31gone := false, scrubNow := 0, scrubLast := 0, readAt := 0 }

/-- A job whose registers hold 0 but `TRSIZE`, which holds 4 (R234; log 3). -/
def Job.reset : Job :=
  { ctl := 0, root := 0, key0 := 0, key1 := 0, wdog := 0, trbase := 0, trsize := 4, trhead := 0, trtail := 0,
    trdrop := 0, savebase := 0, savelen := 0, mcfail := 0, wvctl := 0, wvkids := 0, wvkid := [], fwctl := 0,
    wave := { pass := 0, started := 0, running := false, snaps := [], replies := [], prev := none, replied := 0,
              sentAt := [] },
    towers := [] }

/-- A tower's counters for a job, 0 (R306). -/
def TowerJob.zero : TowerJob := { inj := 0, con := 0, lost := 0, snapPass := 0, qpass := 0, qlost := 0 }

/-- A queue that is not enabled (log 3). -/
def NvQueue.reset : NvQueue :=
  { ctl := 0, sqb := 0, cqb := 0, sqdb := 0, cqdb := 0, qid := 0, pab := 0, slots := [], sqtail := 0, sqhead := 0,
    cqhead := 0, phase := true }

/-- A plane whose keys no rule gives (log 3). -/
def Plane.reset : Plane := { staged := 0, key := 0, old := none, keyId := 0, busy := false, replay := [], upli := [], rx := 0, rxOld := none }

/-- A pod pair whose keys no rule gives (log 3). -/
def ShlKey.reset : ShlKey := { staged := 0, key := 0, old := none, changed := 0 }

/-- The secure controller once boot is complete (R359); what its flash holds, no rule gives (log 15). -/
def Hertor.reset : Hertor :=
  { aux := true, main := true, mrstnLow := false, hrdy := true, malrt := false, step := 8, failure := 0,
    flash := [], accepted := [], minsvn := [], revoked := 0, kslot := 0, serial := 0, cfgRetired := [],
    cfgChannels := [], calibration := [], aliasKey := none, portSessions := List.range 32, keysOut := [], sessions := 0,
    answers := [] }

/-- Tower `t` after bring-up: firmware has written `RGTBASE`, here with the last 64 MiB of the tower's own HBM (R251,
R359; log 93). -/
def Tower.broughtUp (t : Nat) : Tower := { Tower.reset with rgtbase := BitVec.ofNat 64 ((t + 1) * 2 ^ 37 - 2 ^ 26) }

/-- The machine right after reset: bring-up has ended (R359), HBM reads 0, every host core stands at machine
level, no team is resident, nothing is in flight. Unlisted entries of a table are at their own reset. -/
def State.reset : State :=
  { cur := .host 0, agenda := [], fresh := 0, now := 0, node := 0, mem := [], poison := [], freed := [], claims := [],
    tlb := [], jobs := [], cols := [], cores := [], towers := (List.range 8).map fun t => (t, Tower.broughtUp t), teams := [], islands := [], hbm := [],
    mgauges := [], directory := [], inbound := [], sent := [], acks := [], streams := [], undecided := [], outcomes := [],
    ackOut := [], xlate := [],
    sharers := [], invals := [], waves := [], waveOut := [], waveWait := [], counts := [], late := [], notifies := [], glaunches := [],
    launches := [], notices := [], nvqs := [], shlport := 0xC6A0, shlpfx := [], shliid := 0, lnkdrain := 0,
    links := BitVec.allOnes 38, planes := [], shlkeys := [], egress := [], mgmtWait := [], shlrx := [], shltx := [],
    hbmLast := 0, hertor := Hertor.reset,
    pcie := [] }

end Sys2Proof.Machine
end

