-- ==== Sys2Proof/Machine/Util.lean ====
section
/-! DEFINITION. Tables, lists, bytes and bit fields: helpers that carry no rule of their own but the
little-endian byte order of R9. -/

namespace Sys2Proof.Machine

/-! ### Tables -/

/-- The content of number `n`, if it is listed. -/
def tabFind {α : Type} (n : Nat) : Tab α → Option α
  | [] => none
  | (m, x) :: t => if m = n then some x else tabFind n t

/-- The content of number `n`, or `d` when it is not listed. -/
def tabGet {α : Type} (d : α) (n : Nat) (t : Tab α) : α := (tabFind n t).getD d

/-- The table with content `x` at number `n`, numbers rising. -/
def tabSet {α : Type} (n : Nat) (x : α) : Tab α → Tab α
  | [] => [(n, x)]
  | (m, y) :: t =>
    if n < m then (n, x) :: (m, y) :: t else if n = m then (n, x) :: t else (m, y) :: tabSet n x t

/-- The table without number `n`. -/
def tabDel {α : Type} (n : Nat) : Tab α → Tab α
  | [] => []
  | (m, y) :: t => if m = n then tabDel n t else (m, y) :: tabDel n t

/-- The table with content of number `n` changed by `f`, from default `d`. -/
def tabMod {α : Type} (d : α) (n : Nat) (f : α → α) (t : Tab α) : Tab α := tabSet n (f (tabGet d n t)) t

/-- The line that a cache of `sets` sets of `ways` lines gives up after line `n` was added to its lines: another one of a set
that has more than its ways, picked by number `v` (R247; log 94). -/
def setVictim (sets ways v n : Nat) (lines : List Nat) : Option Nat :=
  let others := lines.filter fun l => l % sets = n % sets && l != n
  if others.length < ways then none else others[v % others.length]?

/-- The lines of such a cache after line `n` was added. -/
def tabWays {α : Type} (sets ways v n : Nat) (t : Tab α) : Tab α :=
  match setVictim sets ways v n (t.map (·.1)) with
  | none => t
  | some l => t.filter fun e => e.1 != l

/-- Every content changed by `f`. -/
def tabMap {α : Type} (f : Nat → α → α) (t : Tab α) : Tab α := t.map fun e => (e.1, f e.1 e.2)

/-- Numbers `a` to `a + n - 1`. -/
def span (a : Nat) : Nat → List Nat
  | 0 => []
  | n + 1 => a :: span (a + 1) n

/-- Numbers `0` to `n - 1`. -/
def upto (n : Nat) : List Nat := span 0 n

/-- The list with element `i` replaced, unchanged when there is none. -/
def setAt {α : Type} (i : Nat) (x : α) : List α → List α
  | [] => []
  | y :: t => if i = 0 then x :: t else y :: setAt (i - 1) x t

/-- The list with element `i` changed by `f`. -/
def modAt {α : Type} (i : Nat) (f : α → α) : List α → List α
  | [] => []
  | y :: t => if i = 0 then f y :: t else y :: modAt (i - 1) f t

/-- The list without element `i`. -/
def delAt {α : Type} (i : Nat) : List α → List α
  | [] => []
  | y :: t => if i = 0 then t else y :: delAt (i - 1) t

/-- The list with `x` inserted once, before the first greater element. -/
def insertNat (x : Nat) : List Nat → List Nat
  | [] => [x]
  | y :: t => if x < y then x :: y :: t else if x = y then y :: t else y :: insertNat x t

/-- Sum of a list. -/
def sumNat : List Nat → Nat
  | [] => 0
  | x :: t => x + sumNat t

/-- The least element, if any. -/
def minNat : List Nat → Option Nat
  | [] => none
  | x :: t => match minNat t with
    | none => some x
    | some y => some (if x ≤ y then x else y)

/-- The first element of least key. -/
def argMin {α : Type} (key : α → Nat) : List α → Option α
  | [] => none
  | x :: t => match argMin key t with
    | none => some x
    | some y => if key x ≤ key y then some x else some y

/-- A stateful pass over a list. -/
def passAll {α σ : Type} (f : σ → α → σ) (s : σ) : List α → σ
  | [] => s
  | x :: t => passAll f (f s x) t

/-- The first failure of a check over a list, in its order. -/
def firstErr {α ε : Type} (f : α → Except ε Unit) : List α → Except ε Unit
  | [] => .ok ()
  | x :: t => match f x with
    | .error e => .error e
    | .ok _ => firstErr f t

/-! ### Bits -/

/-- Bits `lo` to `lo + n - 1` of a number. -/
def bitsOf (x lo n : Nat) : Nat := (x >>> lo) % 2 ^ n

/-- Bit `i` of a number. -/
def bitOf (x i : Nat) : Bool := x.testBit i

/-- 1 for true. -/
def b2n (b : Bool) : Nat := if b then 1 else 0

/-- The lane mask of a list of lanes. -/
def maskOf (ls : List Nat) : Word := ls.foldl (fun m l => m ||| ((1 : Word) <<< l)) 0

/-- The lanes of a mask, rising (R18). -/
def lanesOf (m : Word) : List Nat := (upto 32).filter fun l => m.getLsbD l

/-- The lowest lane of a mask, 0 for an empty one. -/
def lowLane (m : Word) : Nat := (lanesOf m).headD 0

/-- Bit `n` of a byte set to `b`. -/
def setBit8 (x : Byte) (n : Nat) (b : Bool) : Byte :=
  if b then x ||| ((1 : Byte) <<< n) else x &&& ~~~((1 : Byte) <<< n)

/-- The number of 1 bits of a number below `2 ^ n`. -/
def popCount (n x : Nat) : Nat := ((upto n).filter fun i => x.testBit i).length

/-- Position of the highest 1 bit plus 1; 0 for 0. -/
def bitLen (x : Nat) : Nat := if x = 0 then 0 else x.log2 + 1

/-- Two's complement reading of the low `n` bits. -/
def toSigned (n x : Nat) : Int := if (x % 2 ^ n).testBit (n - 1) then (x % 2 ^ n : Int) - 2 ^ n else (x % 2 ^ n : Int)

/-- The low `n` bits of an integer as a number. -/
def wrapInt (n : Nat) (x : Int) : Nat := (x % (2 ^ n : Int)).toNat

/-- An integer brought into a range. -/
def clampInt (lo hi x : Int) : Int := if x < lo then lo else if hi < x then hi else x

/-! ### Bytes, little-endian (R9) -/

/-- The bytes of a number, the least significant first. -/
def toBytes : Nat → Nat → List Byte
  | 0, _ => []
  | n + 1, x => BitVec.ofNat 8 x :: toBytes n (x / 256)

/-- The number that bytes spell, the least significant first. -/
def ofBytes : List Byte → Nat
  | [] => 0
  | b :: t => b.toNat + 256 * ofBytes t

/-- `n` zero bytes. -/
def zeros (n : Nat) : List Byte := List.replicate n 0

/-- A row of equal lanes (R18). -/
def rowOf (x : Word) : Row := List.replicate 32 x

/-- Lane `l` of a row. -/
def laneOf (r : Row) (l : Nat) : Word := r.getD l 0

/-- Bytes brought to length `n`: cut, or filled with zeros. -/
def padTo (n : Nat) (bs : List Byte) : List Byte := (bs ++ zeros (n - bs.length)).take n

/-! ### Memory as a sorted list of nonzero bytes (log 9, log 20) -/

/-- The byte at an address; an unlisted address reads 0 (R11, R245). -/
def memByte (a : Nat) : List Host.Cell → Byte
  | [] => 0
  | (b, x) :: t => if b = a then x else memByte a t

/-- The memory with byte `x` at address `a`, in canonical form. -/
def memSet (a : Nat) (x : Byte) : List Host.Cell → List Host.Cell
  | [] => if x = 0 then [] else [(a, x)]
  | (b, y) :: t =>
    if a < b then (if x = 0 then (b, y) :: t else (a, x) :: (b, y) :: t)
    else if a = b then (if x = 0 then t else (a, x) :: t)
    else (b, y) :: memSet a x t

/-- The bytes from address `a`. -/
def memBytes (m : List Host.Cell) (a n : Nat) : List Byte := (span a n).map fun i => memByte i m

/-- The memory with bytes stored from address `a`. -/
def memPut (m : List Host.Cell) (a : Nat) : List Byte → List Host.Cell
  | [] => m
  | x :: t => memPut (memSet a x m) (a + 1) t

/-- The memory with `n` bytes from address `a` zero. -/
def memZero (m : List Host.Cell) (a n : Nat) : List Host.Cell := m.filter fun c => c.1 < a || a + n ≤ c.1

/-- The little-endian number in `n` bytes at `a`. -/
def memNat (m : List Host.Cell) (a n : Nat) : Nat := ofBytes (memBytes m a n)

/-- Canonical form: addresses strictly rising and no zero byte listed. -/
def memCanonical : List Host.Cell → Bool
  | [] => true
  | [(_, x)] => x != 0
  | (a, x) :: (b, y) :: t => x != 0 && decide (a < b) && memCanonical ((b, y) :: t)

/-- The canonical form of the package's memory. -/
abbrev Memory.wf (m : List Host.Cell) : Bool := memCanonical m

end Sys2Proof.Machine
end

