-- ==== Sys2Proof/Machine/Parts.lean ====
section
/-! DEFINITION. The parts of the package by their numbers, the fields of a launch record, and the event
records a host core receives. -/

namespace Sys2Proof.Machine

/-! ### Parts by number (R5) -/

/-- Column `c` (global column number). -/
def State.col (s : State) (c : Nat) : Column := tabGet (Column.reset 0) c s.cols

/-- The state with column `c` changed. -/
def State.modCol (s : State) (c : Nat) (f : Column → Column) : State :=
  { s with cols := tabMod (Column.reset 0) c f s.cols }

/-- Core `c` (global core number). -/
def State.core (s : State) (c : Nat) : Core := tabGet Core.reset c s.cores

/-- The state with core `c` changed. -/
def State.modCore (s : State) (c : Nat) (f : Core → Core) : State :=
  { s with cores := tabMod Core.reset c f s.cores }

/-- Tower `t`. -/
def State.tower (s : State) (t : Nat) : Tower := tabGet Tower.reset t s.towers

/-- The state with tower `t` changed. -/
def State.modTower (s : State) (t : Nat) (f : Tower → Tower) : State :=
  { s with towers := tabMod Tower.reset t f s.towers }

/-- Job `j`'s registers. -/
def State.job (s : State) (j : Nat) : Job := tabGet Job.reset j s.jobs

/-- The state with job `j`'s registers changed. -/
def State.modJob (s : State) (j : Nat) (f : Job → Job) : State :=
  { s with jobs := tabMod Job.reset j f s.jobs }

/-- Island `i` (R329). -/
def State.island (s : State) (i : Nat) : Island := tabGet Island.reset i s.islands

/-- The state with island `i` changed. -/
def State.modIsland (s : State) (i : Nat) (f : Island → Island) : State :=
  { s with islands := tabMod Island.reset i f s.islands }

/-- Stack `k` (R339). -/
def State.stack (s : State) (k : Nat) : Stack := tabGet Stack.reset k s.hbm

/-- The state with stack `k` changed. -/
def State.modStack (s : State) (k : Nat) (f : Stack → Stack) : State :=
  { s with hbm := tabMod Stack.reset k f s.hbm }

/-- NVMe queue `q` (R326). -/
def State.nvq (s : State) (q : Nat) : NvQueue := tabGet NvQueue.reset q s.nvqs

/-- The state with NVMe queue `q` changed. -/
def State.modNvq (s : State) (q : Nat) (f : NvQueue → NvQueue) : State :=
  { s with nvqs := tabMod NvQueue.reset q f s.nvqs }

/-- The host core of column `c`. -/
def State.host (s : State) (c : Nat) : HostCore := (s.col c).host

/-- The state with the host core of column `c` changed. -/
def State.modHost (s : State) (c : Nat) (f : HostCore → HostCore) : State :=
  s.modCol c fun col => { col with host := f col.host }

/-- A counter's values for job `j` at tower `t` (R306). -/
def State.towerJob (s : State) (t j : Nat) : TowerJob := tabGet TowerJob.zero t (s.job j).towers

/-- The state with the counters of job `j` at tower `t` changed. -/
def State.modTowerJob (s : State) (t j : Nat) (f : TowerJob → TowerJob) : State :=
  s.modJob j fun jb => { jb with towers := tabMod TowerJob.zero t f jb.towers }

/-- Tower of a global column. -/
def towerOfCol (c : Nat) : Nat := c / 16

/-- Global column of a global core. -/
def colOfCore (c : Nat) : Nat := c / 8

/-- Tower of a global core. -/
def towerOfCore (c : Nat) : Nat := c / 128

/-- Column 0 of a tower. -/
def firstCol (t : Nat) : Nat := 16 * t

/-- `CYC` of a column: 1 GHz, 0 when the column left reset (R40). -/
def State.cyc (s : State) (c : Nat) : DWord := BitVec.ofNat 64 (s.now - (s.col c).cycBase)

/-- A number never used before for a message, an access or a command. -/
def State.newId (s : State) : Nat × State := (s.fresh, { s with fresh := s.fresh + 1 })

/-! ### Launch record fields (R223) -/

/-- Bits of register `k(8+r)` of a launch record. -/
def lrBits (rec : BitVec 512) (r lo n : Nat) : Nat := bitsOf rec.toNat (64 * r + lo) n

/-- Virtual address of the kernel's first instruction. -/
def lrEntry (r : BitVec 512) : Nat := lrBits r 0 0 57
/-- Argument pointer. -/
def lrArgp (r : BitVec 512) : Nat := lrBits r 1 0 57
/-- Trap vector; 0 makes every trap fatal. -/
def lrTvec (r : BitVec 512) : Nat := lrBits r 2 0 57
/-- Aggregation key. -/
def lrAggkey (r : BitVec 512) : Nat := lrBits r 3 48 16
/-- Grid size in x, y and z. -/
def lrSize (r : BitVec 512) : Nat × Nat × Nat := (lrBits r 3 0 16 + 1, lrBits r 3 16 16 + 1, lrBits r 3 32 16 + 1)
/-- Job index. -/
def lrJob (r : BitVec 512) : Nat := lrBits r 4 56 8
/-- Priority. -/
def lrPri (r : BitVec 512) : Nat := lrBits r 4 53 3
/-- Groups per team. -/
def lrGroups (r : BitVec 512) : Nat := lrBits r 4 48 5 + 1
/-- Teams per cluster. -/
def lrClus (r : BitVec 512) : Nat := lrBits r 4 44 4 + 1
/-- Registers per lane A (R18). -/
def lrRegs (r : BitVec 512) : Nat := 32 * (lrBits r 4 39 5 + 1)
/-- Vault bytes per team, `SCRS`. -/
def lrVault (r : BitVec 512) : Nat := 128 * lrBits r 4 24 15
/-- Barrier count. -/
def lrBars (r : BitVec 512) : Nat := lrBits r 4 15 9
/-- `ACMODE`: window mode (R35). -/
def lrWindow (r : BitVec 512) : Bool := lrBits r 4 14 1 = 1
/-- Accumulator accesses to unallocated banks trap (R195). -/
def lrActrap (r : BitVec 512) : Bool := lrBits r 4 13 1 = 1
/-- Swap threshold in µs; 0 selects 16. -/
def lrSwapt (r : BitVec 512) : Nat := let t := lrBits r 4 0 13; if t = 0 then 16 else t
/-- Dependency flag, home agent, entry and generation. -/
def lrDep (r : BitVec 512) : Bool := lrBits r 5 63 1 = 1
/-- Home agent of the dependency gauge. -/
def lrDha (r : BitVec 512) : Nat := lrBits r 5 48 4
/-- Entry of the dependency gauge. -/
def lrDent (r : BitVec 512) : Nat := lrBits r 5 40 8
/-- Generation to wait for. -/
def lrDgen (r : BitVec 512) : Nat := lrBits r 5 0 32
/-- Completion notice enable. -/
def lrCne (r : BitVec 512) : Bool := lrBits r 6 63 1 = 1
/-- Completion notice address. -/
def lrCnaddr (r : BitVec 512) : Nat := lrBits r 6 0 57
/-- Teams of the record's grid. -/
def lrTeams (r : BitVec 512) : Nat := let (x, y, z) := lrSize r; x * y * z

/-! ### Teams -/

/-- A team that is not in the directory. -/
def Team.none : Team :=
  { gen := 0, state := .saved, core := 0, recPa := 0, launch := 0, grid := 0, argp := 0, x := 0, y := 0, z := 0,
    rank := 0, cluster := 0, clusterSize := 1, rank0 := 0, code := [], voff := 0, groups := [], q0123 := [], q4 := [],
    q5down := [], q5up := [], q7up := [], q7down := [], barriers := [], acc := [], seq := Option.none, pipeMin := 4,
    pipeMax := 4, depth := 4, lavg := 16384, latencies := [], residentSince := 0, residentNs := 0,
    capFail := Option.none, halted := false, reason := 0, held := false, heldCores := [], wake := false, fatal := 0, sseq := 0,
    events := 0, saveCyc := 0, issuer := Option.none, tableHeld := false, acked := false, saved := SavedWork.none }

/-- A team by its key: 64 times its home core plus its slot (R272). -/
def State.team (s : State) (t : Nat) : Team := tabGet Team.none t s.teams

/-- The state with a team changed, if it is in the directory. -/
def State.modTeam (s : State) (t : Nat) (f : Team → Team) : State :=
  match tabFind t s.teams with
  | none => s
  | some tm => { s with teams := tabSet t (f tm) s.teams }

/-- Home core of a team key. -/
def homeOf (t : Nat) : Nat := t / 64

/-- Directory slot of a team key. -/
def slotOf (t : Nat) : Nat := t % 64

/-- The team's handle: slot [15:10], generation [9:0] (R241). -/
def State.handle (s : State) (t : Nat) : Nat := slotOf t * 1024 + (s.team t).gen.toNat

/-- The team that a home core and a handle name, if its generation matches (R273). -/
def State.findTeam (s : State) (core handle : Nat) : Option Nat :=
  let t := 64 * core + handle / 1024 % 64
  match tabFind t s.teams with
  | none => none
  | some tm => if tm.gen.toNat = handle % 1024 then some t else none

/-- Keys of the teams of a cluster that still exist, by rank (R271). -/
def State.clusterTeams (s : State) (c : Nat) : List Nat :=
  (upto 16).flatMap fun r => (s.teams.filter fun e => e.2.cluster = c && e.2.rank = r).map (·.1)

/-- Keys of the teams whose current core satisfies `p` and that are on it: not saved. -/
def State.teamsOn (s : State) (p : Nat → Bool) : List Nat :=
  (s.teams.filter fun e => p e.2.core && e.2.state != .saved).map (·.1)

/-- The key of the team of rank `r` of a team's cluster. -/
def State.rankTeam (s : State) (t r : Nat) : Option Nat :=
  (s.teams.find? fun e => e.2.cluster = (s.team t).cluster && e.2.rank = r).map (·.1)

/-- A group with no rows and no splits. -/
def Group.none : Group :=
  { rows := [], states := [], badRegs := [], k := KFile.zero, preds := [], splits := [], deferred := [], lastIssued := 3,
    regs := Regs.zero, awb := 0, awl := 0, part := 5, arv := 0, held := Option.none, latch := [], q6 := [],
    overwrite := Option.none, posts := [], quarter := 0, slot := 0, lastIssue := 0, waitingIssue := 0, urgent := false,
    retired := true }

/-- Group `g` of a team. -/
def State.group (s : State) (t g : Nat) : Group := (s.team t).groups.getD g Group.none

/-- The state with a group changed. -/
def State.modGroup (s : State) (t g : Nat) (f : Group → Group) : State :=
  s.modTeam t fun tm => { tm with groups := modAt g f tm.groups }

/-- A split table entry that is not in use. -/
def Split.none : Split :=
  { valid := false, pc := 0, mask := 0, wbi := 0, loops := [], wait := .none, held := false, parkHeld := false }

/-- Entry `p` of a group's split table. -/
def State.split (s : State) (t g p : Nat) : Split := (s.group t g).splits.getD p Split.none

/-- The state with a split table entry changed. -/
def State.modSplit (s : State) (t g p : Nat) (f : Split → Split) : State :=
  s.modGroup t g fun gr => { gr with splits := modAt p f gr.splits }

/-- A sequencer that is not running. -/
def Seqr.none : Seqr :=
  { s := [], k := KFile.zero, p := 0, pc := 0, regs := Regs.zero, wait := .none, q6 := [], q6pos := 0 }

/-- The sequencer of a team. -/
def State.seqr (s : State) (t : Nat) : Seqr := (s.team t).seq.getD Seqr.none

/-- The state with a team's running sequencer changed. -/
def State.modSeq (s : State) (t : Nat) (f : Seqr → Seqr) : State :=
  s.modTeam t fun tm => { tm with seq := tm.seq.map f }

/-- First physical address of a team's vault bytes (R245). -/
def State.vaultBase (s : State) (t : Nat) : Nat := 0x10000000000 + (s.team t).core * 0x200000 + (s.team t).voff

/-- Where a team's vault byte lies now: in its segment, or in its save record (R220, R294). -/
def State.vaultPa (s : State) (t off : Nat) : Nat :=
  let tm := s.team t
  if tm.state = .saved then
    tm.recPa + 0x30000 + lrGroups tm.launch * (8192 + 128 * lrRegs tm.launch) + off
  else s.vaultBase t + off

/-! ### Event records (R26, R284) -/

/-- A record at the host core of column `c`: appended, or dropped and counted when 64 are held (R26). -/
def State.pushHost (s : State) (c : Nat) (rec : BitVec 256) : State :=
  s.modHost c fun h =>
    if h.q6.length < 64 then { h with q6 := h.q6 ++ [rec] }
    else { h with hevdrop := if h.hevdrop = BitVec.allOnes 32 then h.hevdrop else h.hevdrop + 1 }

/-- A scheduler record (R284). -/
def schedRec (kind job info core home handle cyc voff recpa : Nat) (grid : DWord) : BitVec 256 :=
  BitVec.ofNat 256 (kind % 256 + 2 ^ 8 * (job % 256) + 2 ^ 16 * (info % 256) + 2 ^ 28 * (core % 1024)
    + 2 ^ 38 * (home % 1024) + 2 ^ 48 * (handle % 65536) + 2 ^ 64 * (cyc % 2 ^ 32) + 2 ^ 96 * (voff % 2 ^ 21)
    + 2 ^ 128 * (recpa % 2 ^ 52) + 2 ^ 192 * grid.toNat)

/-- The scheduler record of a team, pushed to the host core of column `c`. `recpa` 0: none was saved. -/
def State.pushTeamRec (s : State) (c kind info voff recpa t : Nat) : State :=
  let tm := s.team t
  s.pushHost c (schedRec kind (lrJob tm.launch) info tm.core (homeOf t) (s.handle t) (s.cyc c).toNat voff recpa tm.grid)

/-! ### PCIe ports (R324, R325) -/

/-- A port out of reset that has answered nothing. -/
def PciePort.reset : PciePort := { inReset := false, answers := [], held := [], backInval := [], msixOn := [], msix := [] }

/-- A port changed. -/
def State.modPcie (s : State) (port : Nat) (f : PciePort → PciePort) : State :=
  { s with pcie := tabMod PciePort.reset port f s.pcie }

/-! ### Background budgets (R342) -/

/-- A budget whose limit is 0 and which has not been used. -/
def Budget.zero : Budget := { limit := 0, now := 0, last := 0 }

/-- An activity of a column has budget left in this period. -/
def State.budgetLeft (s : State) (c code : Nat) : Bool :=
  let b := tabGet Budget.zero code (s.col c).budgets
  b.now < b.limit.toNat

/-- `n` units of an activity's budget used. -/
def State.useBudget (s : State) (c code n : Nat) : State :=
  s.modCol c fun col => { col with budgets := tabMod Budget.zero code (fun b => { b with now := b.now + n }) col.budgets }

/-! ### Error records (R350) -/

/-- An error record of a core (units and classes as R350 numbers them). -/
def State.errorRec (s : State) (unit cls addr core job lane : Nat) (synd : DWord) : ErrRec :=
  { w0 := BitVec.ofNat 64 (2 ^ 60 * unit + 2 ^ 58 * cls + addr % 2 ^ 52)
    w1 := BitVec.ofNat 64 (2 ^ 54 * (core % 1024) + 2 ^ 40 * (job % 256) + 2 ^ 32 * (lane % 32)
      + (s.cyc (colOfCore core)).toNat % 2 ^ 32)
    w2 := synd }

/-- CLASS of a record. -/
def errClass (r : ErrRec) : Nat := bitsOf r.w0.toNat 58 2

/-- A record enters the log of column `c`: corrected errors only below 32 records, and OVF when 64 are held. -/
def State.logError (s : State) (c : Nat) (r : ErrRec) : State :=
  s.modCol c fun col =>
    if errClass r = 0 && 32 ≤ col.errs.length then col
    else if 64 ≤ col.errs.length then { col with errOvf := true }
    else { col with errs := col.errs ++ [r] }

/-- A corrected error of column `c`: counted, and logged while fewer than 32 records are held (R344, R350). -/
def State.corrected (s : State) (c : Nat) (r : ErrRec) : State :=
  (s.modCol c fun col => { col with errCount := col.errCount + 1, errRecent := col.errRecent + 1 }).logError c r

end Sys2Proof.Machine
end

