-- ==== Sys2Proof/Machine/Image.lean ====
section
/-! DEFINITION. The save record (R293 to R296): the bytes of its sections with a stated layout, written from a
team and read back into it. What no section gives an inner layout for (queued engine commands, captured
operands, the inside of a recorded load, what a wait holds) stays in the team's own fields (log 14). -/

namespace Sys2Proof.Machine

open Host (Cell)

/-- Bytes to be placed at an offset of a record. -/
abbrev Chunk := Nat × List Byte

/-! ### Sizes (R293) -/

/-- Size of one group section. -/
def groupSectionSize (l : BitVec 512) : Nat := 8192 + 128 * lrRegs l

/-- Offset of the vault bytes in a record. -/
def recVaultOff (l : BitVec 512) : Nat := 0x30000 + lrGroups l * groupSectionSize l

/-- Offset of the accumulator section. -/
def recAccOff (l : BitVec 512) : Nat := recVaultOff l + (lrVault l + 4095) / 4096 * 4096

/-- Size of a record, in whole 64 KiB granules. -/
def recSize (l : BitVec 512) : Nat := (recAccOff l + 0x80000 + 0xFFFF) / 0x10000 * 0x10000

/-! ### Register states (R296) -/

/-- The 2-bit code of a register state: 00 plain, 01 armed-empty, 10 armed-full, 11 armed-empty with acquire. -/
def stateCode : RegState → Nat
  | .plain => 0
  | .armedEmpty false => 1
  | .armedFull _ => 2
  | .armedEmpty true => 3

/-- The ACQF bit: an armed-full register whose first read is an acquire. -/
def acqfBit : RegState → Nat
  | .armedFull true => 1
  | _ => 0

/-- The state that a code and an ACQF bit spell. -/
def stateOf (code : Nat) (acqf : Bool) : RegState :=
  match code with
  | 0 => .plain
  | 1 => .armedEmpty false
  | 2 => .armedFull acqf
  | _ => .armedEmpty true

/-- The codes of all registers, 2 bits each, as one number. -/
def stateCodes (t : Tab RegState) : Nat := sumNat (t.map fun e => stateCode e.2 * 4 ^ e.1)

/-- The ACQF bits of all registers as one number. -/
def acqfBits (t : Tab RegState) : Nat := sumNat (t.map fun e => acqfBit e.2 * 2 ^ e.1)

/-- The states of registers 0 to `n - 1`, the plain ones unlisted. -/
def statesFrom (n codes acqf : Nat) : Tab RegState :=
  ((upto n).map fun r => (r, stateOf (bitsOf codes (2 * r) 2) (bitOf acqf r))).filter fun e => e.2 != .plain

/-! ### Parts of a section -/

/-- A token in the `TKS` layout of R40. -/
def tokWord (t : Token) : Nat := t.count.toNat + 2 ^ 12 * t.status.toNat + 2 ^ 32 * t.info.toNat

/-- The token a `TKS` word spells. -/
def tokOf (x : Nat) : Token :=
  { count := BitVec.ofNat 8 x, status := BitVec.ofNat 4 (x / 2 ^ 12), info := BitVec.ofNat 32 (x / 2 ^ 32) }

/-- A token with COUNT 0 and STATUS OK. -/
def Token.zero : Token := { count := 0, status := 0, info := 0 }

/-- The bytes of tokens `t0` to `t7`. -/
def tokBytes (t : Tab Token) : List Byte := (upto 8).flatMap fun i => toBytes 8 (tokWord (tabGet Token.zero i t))

/-- The bytes of `sc0` to `sc7`. -/
def scBytes (t : Tab Word) : List Byte := (upto 8).flatMap fun i => toBytes 4 (tabGet 0 i t).toNat

/-- The bytes of `k0` to `k15`. -/
def kBytes (k : KFile) : List Byte := (upto 16).flatMap fun i => toBytes 8 (tabGet 0 i k.vals).toNat

/-- The bytes of a row of lanes. -/
def rowBytes (r : Row) : List Byte := (upto 32).flatMap fun l => toBytes 4 (laneOf r l).toNat

/-- The row that 128 bytes spell. -/
def rowFrom (bs : List Byte) : Row := (upto 32).map fun l => BitVec.ofNat 32 (ofBytes ((bs.drop (4 * l)).take 4))

/-- A message in the `q4` slot layout (R294). -/
def msgBytes (m : QMsg) : List Byte :=
  padTo 64 (m.payload.flatMap fun w => toBytes 4 w.toNat) ++ toBytes 4 m.header.toNat ++ toBytes 4 m.snode.toNat
    ++ toBytes 4 m.score.toNat

/-- The message in a `q4` slot. -/
def msgFrom (bs : List Byte) : QMsg :=
  let w := fun i => BitVec.ofNat 32 (ofBytes ((bs.drop (4 * i)).take 4))
  { payload := (upto 16).map w, header := w 16, snode := w 17, score := w 18 }

/-- The WAIT code of a wait (R290). -/
def waitCode : Wait → Nat
  | .none => 0
  | .queue _ _ => 1
  | .reg _ _ => 2
  | .barrier _ _ => 3
  | .gauge _ _ _ _ => 4
  | .token _ => 5
  | .counts _ _ => 6
  | .waitq _ _ _ => 7
  | .parked _ _ _ => 8
  | .join => 9
  | .resource _ => 10
  | .order => 0
  | .answer => 10
  | .nvwait _ _ => 11

/-- The operand held with a wait (R290). The places of its parts but a register's class [8] are the model's (log 14). -/
def waitOperand : Wait → Nat
  | .queue p w => p + 256 * b2n w
  | .reg k n => 256 * b2n k + 2 ^ 16 * n
  | .barrier n a => n + 256 * b2n a
  | .gauge m l g d => l.toNat + 2 ^ 64 * g.toNat + 2 ^ 96 * b2n m + 2 ^ 97 * d.toNat
  | .token m => m.toNat
  | .counts l s => l.toNat + 256 * s.toNat
  | .waitq d p l => d.toNat + 2 ^ 7 * (p.toNat % 2 ^ 60) + 2 ^ 67 * (l.toNat % 2 ^ 61)
  | .parked c i va => i + 2 ^ 16 + 2 ^ 32 * c + 2 ^ 64 * va
  | .nvwait d t => d.toNat + 2 ^ 64 * t.toNat
  | .answer => 1
  | _ => 0

/-- The wait that a WAIT code and an operand spell; held by a trap without a record of its own is no wait. -/
def waitFrom (code x : Nat) : Wait :=
  match code with
  | 1 => .queue (bitsOf x 0 8) (bitOf x 8)
  | 2 => .reg (bitOf x 8) (bitsOf x 16 16)
  | 3 => .barrier (bitsOf x 0 8) (bitOf x 8)
  | 4 => .gauge (bitOf x 96) (BitVec.ofNat 64 x) (BitVec.ofNat 32 (x / 2 ^ 64)) (BitVec.ofNat 7 (x / 2 ^ 97))
  | 5 => .token (BitVec.ofNat 8 x)
  | 6 => .counts (BitVec.ofNat 6 x) (BitVec.ofNat 6 (x / 256))
  | 7 => .waitq (BitVec.ofNat 7 x) (BitVec.ofNat 64 (bitsOf x 7 60)) (BitVec.ofNat 64 (bitsOf x 67 61))
  | 8 => if bitOf x 16 then .parked (bitsOf x 32 8) (bitsOf x 0 9) (bitsOf x 64 57) else .none
  | 9 => .join
  | 10 => if bitOf x 0 then .answer else .resource .any
  | 11 => .nvwait (BitVec.ofNat 7 x) (BitVec.ofNat 64 (x / 2 ^ 64))
  | _ => .none

/-- The WAIT code of a split: held by a trap counts as 8 (R29, R106). -/
def Split.code (p : Split) : Nat := if p.held || p.parkHeld then 8 else waitCode p.wait

/-- The operand of a split: one that is held has its mark (17: by a trap, 18: with a parked split) beside the record that it
itself is parked on, or that the split it is held with waits for (`mark`). -/
def Split.operand (p : Split) (mark : Nat) : Nat :=
  if p.held || p.parkHeld then
    2 ^ 17 * b2n p.held + 2 ^ 18 * b2n p.parkHeld
      + (if waitCode p.wait = 8 then waitOperand p.wait else if p.parkHeld then mark else 0)
  else waitOperand p.wait

/-- A split table or deferred entry, 128 bytes (R296). -/
def splitBytes (p : Split) (table : Bool) (mark : Nat) : List Byte :=
  let w0 := (if table then 2 ^ 63 * b2n p.valid + 2 ^ 59 * p.code else 0) + 2 ^ 54 * p.wbi.toNat
    + 2 ^ 52 * p.loops.length
  let lp := fun i => p.loops.getD i { count := 0, start := 0, last := 0 }
  padTo 128 (toBytes 8 w0 ++ toBytes 8 p.pc.toNat ++ toBytes 8 p.mask.toNat
    ++ ((upto 3).flatMap fun i => toBytes 4 (lp i).count.toNat) ++ zeros 4
    ++ ((upto 3).flatMap fun i => toBytes 8 (lp i).start.toNat)
    ++ ((upto 3).flatMap fun i => toBytes 8 (lp i).last.toNat)
    ++ toBytes 16 (if table then p.operand mark else 0))

/-- The entry that 128 bytes spell. What a held split itself waits on beside is kept as `old` has it (log 14). -/
def splitFrom (old : Split) (bs : List Byte) : Split :=
  let n := fun o k => ofBytes ((bs.drop o).take k)
  let w0 := n 0 8
  let code := bitsOf w0 59 4
  let x := n 0x58 16
  { valid := bitOf w0 63, pc := BitVec.ofNat 57 (n 8 8), mask := BitVec.ofNat 32 (n 16 4),
    wbi := BitVec.ofNat 5 (bitsOf w0 54 5),
    loops := (upto (bitsOf w0 52 2)).map fun i =>
      { count := BitVec.ofNat 32 (n (0x18 + 4 * i) 4), start := BitVec.ofNat 57 (n (0x28 + 8 * i) 8),
        last := BitVec.ofNat 57 (n (0x40 + 8 * i) 8) },
    wait := if code = 8 && !bitOf x 16 && waitCode old.wait ≠ 8 then old.wait else waitFrom code x
    held := code = 8 && bitOf x 17, parkHeld := code = 8 && bitOf x 18 }

/-! ### A group section (R296) -/

/-- The kind of access counts in `LDC`; the others count in `STC` (R145). -/
def AccKind.isLoad : AccKind → Bool
  | .load => true
  | .atomic => true
  | _ => false

/-- Accesses parked on a translation fault, of the kinds that `LDC` counts or of the others (R145). -/
def Regs.parkedOf (r : Regs) (load : Bool) : Nat := (r.parked.filter fun e => e.2.any fun k => k.isLoad = load).length

/-- Outstanding loads and atomics of a context, those parked on a translation fault among them: `LDC` (R32, R145). -/
def Regs.ldc (r : Regs) : Nat := (r.outs.filter fun a => a.kind.isLoad).length + r.parkedOf true

/-- Outstanding stores of a context, those parked on a translation fault among them: `STC`. -/
def Regs.stc (r : Regs) : Nat := (r.outs.filter fun a => !a.kind.isLoad).length + r.parkedOf false

/-- Every store and `cctl` of a context that was issued has been performed: one parked on a fault executes again (R147, R260). -/
def Regs.drained (r : Regs) : Bool := r.outs.all fun a => a.kind.isLoad

/-- Registers of every context of a team. -/
def Team.contexts (tm : Team) : List Regs := tm.groups.map (·.regs) ++ tm.seq.toList.map (·.regs)

/-- The operand latch as it is saved: the popped entries, ports rising, 128 bytes each (log 52). -/
def latchBytes (l : Tab (List Row)) : List Byte :=
  padTo 256 (l.flatMap fun e => e.2.flatMap rowBytes)

/-- Ports of the latched entries, in their order; the instruction that executes again names them. -/
def latchPorts (l : Tab (List Row)) : List Nat := l.flatMap fun e => e.2.map fun _ => e.1

/-- The latch that bytes spell for entries popped from the given ports. -/
def latchFrom (bs : List Byte) (ports : List Nat) : Tab (List Row) :=
  (ports.mapIdx fun i p => (p, rowFrom ((bs.drop (128 * i)).take 128))).foldl
    (fun t e => tabSet e.1 (tabGet [] e.1 t ++ [e.2]) t) []

/-- The split at an entry is parked on a translation fault with which the group's other splits are held (R260). -/
def Group.parksAt (g : Group) (p : Nat) : Bool :=
  let x := g.splits.getD p Split.none
  x.valid && (tabFind p g.regs.parked).isSome && match x.wait with
    | .parked _ _ _ => true
    | _ => false

/-- A split of another entry is parked so, or a reissued load of the group waits on a fault record. -/
def Group.parksBeside (g : Group) (p : Nat) : Bool :=
  (g.regs.outs.any fun a => a.fault.isSome) || (upto g.splits.length).any fun q => q ≠ p && g.parksAt q

/-- The fault record that the splits held with a parked one wait for, as their operand has it (R290). -/
def Group.parkMark (g : Group) : Nat :=
  match (upto g.splits.length).find? g.parksAt with
  | .none => match g.regs.outs.findSome? (·.fault) with
    | .none => 0
    | some w => w.2 + 2 ^ 32 * w.1
  | some p => match (g.splits.getD p Split.none).wait with
    | .parked c i _ => i + 2 ^ 32 * c
    | _ => 0

/-- The chunks of a group section with `A` registers per lane, offsets within the section. -/
def groupChunks (A : Nat) (g : Group) : List Chunk :=
  [ (0x0000, toBytes 256 (stateCodes g.states)), (0x0100, toBytes 128 (acqfBits g.states)), (0x0180, kBytes g.k),
    (0x0200, toBytes 4 (stateCodes g.k.states)), (0x0204, toBytes 2 (acqfBits g.k.states)),
    (0x0210, (upto 7).flatMap fun i => toBytes 4 (tabGet 0 i g.preds).toNat), (0x0230, scBytes g.regs.sc),
    (0x0250, toBytes 4 g.regs.stat.toNat),
    (0x0254, [BitVec.ofNat 8 g.part.toNat, BitVec.ofNat 8 g.regs.ldc, BitVec.ofNat 8 g.regs.stc,
      BitVec.ofNat 8 (b2n g.overwrite.isSome)]),
    (0x0258, toBytes 2 g.awb.toNat ++ toBytes 2 g.awl.toNat),
    (0x0260, toBytes 4 g.regs.trap.tcause.toNat ++ toBytes 4 g.regs.trap.emask.toNat
      ++ toBytes 8 g.regs.trap.tinfo.toNat ++ toBytes 8 g.regs.trap.epc.toNat),
    (0x0278, toBytes 8 (g.overwrite.getD 0).toNat), (0x0280, tokBytes g.regs.tok), (0x02C0, toBytes 32 g.arv.toNat),
    (0x0300, match g.held with
      | none => []
      | some m => msgBytes m ++ [1]),
    (0x0588, toBytes 8 g.regs.trap.respc.toNat), (0x0580, [BitVec.ofNat 8 g.deferred.length]),
    (0x0E00, if g.latch.isEmpty then [] else latchBytes g.latch) ]
  ++ (upto 4).map (fun i => (0x0380 + 128 * i, splitBytes (g.splits.getD i Split.none) true g.parkMark))
  ++ g.deferred.mapIdx (fun i p => (0x0600 + 128 * i, splitBytes p false 0))
  ++ (g.regs.outs.filter fun a => a.kind = .load).mapIdx
      (fun i a => (0x1000 + 16 * i, toBytes 8 a.pc.toNat ++ toBytes 8 a.mask.toNat))
  ++ ((g.rows.filter fun e => e.1 < A).map fun e => (0x2000 + 128 * e.1, rowBytes e.2))

/-- Accesses with the loads among them as recorded, in their order: address and lane mask (R294). -/
def loadsFrom (m : List Cell) : Nat → List Access → List Access
  | _, [] => []
  | i, a :: rest =>
    if a.kind = .load then
      { a with pc := BitVec.ofNat 57 (memNat m (0x1000 + 16 * i) 8), mask := BitVec.ofNat 32 (memNat m (0x1008 + 16 * i) 8) }
        :: loadsFrom m (i + 1) rest
    else a :: loadsFrom m i rest

/-- A group read back from its section `m` (addresses from the section's start); `poisoned` holds the rows
whose line is poisoned, which makes all 32 lanes poisoned (R346). -/
def groupFrom (A : Nat) (m : List Cell) (poisoned : List Nat) (g : Group) : Group :=
  let n := memNat m
  let tr := g.regs.trap
  { g with
    states := statesFrom A (n 0 256) (n 0x100 128)
    k := { vals := (upto 16).map fun i => (i, BitVec.ofNat 64 (n (0x180 + 8 * i) 8)),
           states := statesFrom 16 (n 0x200 4) (n 0x204 2) }
    preds := (upto 7).map fun i => (i, BitVec.ofNat 32 (n (0x210 + 4 * i) 4))
    regs := { g.regs with
      outs := loadsFrom m 0 g.regs.outs
      sc := (upto 8).map fun i => (i, BitVec.ofNat 32 (n (0x230 + 4 * i) 4))
      stat := BitVec.ofNat 32 (n 0x250 4)
      tok := (upto 8).map fun i => (i, tokOf (n (0x280 + 8 * i) 8))
      trap := { tr with tcause := BitVec.ofNat 32 (n 0x260 4), emask := BitVec.ofNat 32 (n 0x264 4),
                        tinfo := BitVec.ofNat 64 (n 0x268 8), epc := BitVec.ofNat 64 (n 0x270 8),
                        respc := BitVec.ofNat 64 (n 0x588 8) } }
    part := BitVec.ofNat 3 (n 0x254 1)
    overwrite := if bitOf (n 0x257 1) 0 then some (BitVec.ofNat 64 (n 0x278 8)) else none
    awb := BitVec.ofNat 12 (n 0x258 2), awl := BitVec.ofNat 12 (n 0x25A 2)
    arv := BitVec.ofNat 256 (n 0x2C0 32)
    held := if n (0x300 + 76) 1 = 1 then some (msgFrom (memBytes m 0x300 76)) else none
    latch := latchFrom (memBytes m 0xE00 256) (latchPorts g.latch)
    splits := (upto 4).map fun i => splitFrom (g.splits.getD i Split.none) (memBytes m (0x380 + 128 * i) 128)
    deferred := (upto (n 0x580 1)).map fun i => splitFrom Split.none (memBytes m (0x600 + 128 * i) 128)
    rows := (upto A).map fun r => (r, rowFrom (memBytes m (0x2000 + 128 * r) 128))
    badRegs := poisoned.flatMap fun r => (upto 32).map fun l => 32 * r + l
    lastIssued := 3 }

/-! ### The sequencer section (R294) -/

/-- The chunks of the sequencer section, offsets within it. -/
def seqChunks (q : Seqr) : List Chunk :=
  [ (0x000, (upto 32).flatMap fun i => toBytes 8 (tabGet 0 i q.s).toNat), (0x100, kBytes q.k),
    (0x180, toBytes 4 (stateCodes q.k.states)), (0x188, (upto 7).map fun i => BitVec.ofNat 8 (b2n (q.p.getLsbD i))),
    (0x190, toBytes 8 q.pc.toNat), (0x198, tokBytes q.regs.tok), (0x1D8, scBytes q.regs.sc),
    (0x1F8, toBytes 8 q.regs.trap.tcause.toNat ++ toBytes 8 q.regs.trap.tinfo.toNat ++ toBytes 8 q.regs.trap.epc.toNat),
    (0x210, toBytes 2 q.regs.aud.toNat), (0x300, toBytes 8 q.regs.trap.respc.toNat) ]

/-- The sequencer read back from its section. -/
def seqFrom (m : List Cell) (q : Seqr) : Seqr :=
  let n := memNat m
  { q with
    s := (upto 32).map fun i => (i, BitVec.ofNat 64 (n (8 * i) 8))
    k := { vals := (upto 16).map fun i => (i, BitVec.ofNat 64 (n (0x100 + 8 * i) 8)),
           states := statesFrom 16 (n 0x180 4) 0 }
    p := BitVec.ofNat 8 (sumNat ((upto 7).map fun i => (n (0x188 + i) 1 % 2) * 2 ^ i))
    pc := BitVec.ofNat 57 (n 0x190 8)
    q6 := [], q6pos := 0
    regs := { q.regs with
      tok := (upto 8).map fun i => (i, tokOf (n (0x198 + 8 * i) 8))
      sc := (upto 8).map fun i => (i, BitVec.ofNat 32 (n (0x1D8 + 4 * i) 4))
      aud := BitVec.ofNat 16 (n 0x210 2)
      trap := { q.regs.trap with
        tcause := BitVec.ofNat 32 (n 0x1F8 4), tinfo := BitVec.ofNat 64 (n 0x200 8),
        epc := BitVec.ofNat 64 (n 0x208 8), respc := BitVec.ofNat 64 (n 0x300 8) } } }

/-! ### The record of a team -/

/-- The header words of R295, with COMMIT as given. -/
def headerChunks (t : Nat) (tm : Team) (commit cyc : Nat) : List Chunk :=
  let q := fun c => (tabGet [] c tm.q0123).length
  [ (0x00, toBytes 8 commit), (0x08, toBytes 8 (bitsOf tm.launch.toNat 256 64)),
    (0x10, toBytes 8 (homeOf t * 2 ^ 16 + slotOf t * 1024 + tm.gen.toNat)), (0x18, toBytes 8 tm.grid.toNat),
    (0x20, toBytes 8 tm.argp.toNat), (0x28, toBytes 8 (lrTvec tm.launch)),
    (0x30, toBytes 8 (tm.z.toNat * 2 ^ 32 + tm.y.toNat * 2 ^ 16 + tm.x.toNat)),
    (0x38, toBytes 8 (bitsOf tm.rank0.toNat 16 10 * 2 ^ 32 + bitsOf tm.rank0.toNat 0 16 * 2 ^ 16 + tm.rank)),
    (0x40, toBytes 8 (tm.reason.toNat + 8 * b2n tm.held + 16 * b2n tm.wake + 32 * b2n tm.seq.isSome
      + 64 * b2n tm.tableHeld + 128 * b2n tm.saved.table.current + 256 * b2n tm.saved.table.fill.isSome
      + 512 * b2n tm.saved.followOn.isSome)),
    (0x48, toBytes 8 (q 0 + 2 ^ 5 * q 1 + 2 ^ 10 * q 2 + 2 ^ 15 * q 3 + 2 ^ 20 * tm.q4.length
      + 2 ^ 26 * tm.q5down.length + 2 ^ 31 * tm.q5up.length + 2 ^ 36 * tm.q7up.length + 2 ^ 41 * tm.q7down.length)),
    (0x50, toBytes 8 tm.voff), (0x58, toBytes 8 cyc), (0x60, toBytes 4 tm.events.toNat) ]

/-- COMMIT of a committed record (R295). -/
def commitWord (t : Nat) (tm : Team) : Nat :=
  0xA5A5C3C3 * 2 ^ 32 + tm.sseq.toNat * 2 ^ 16 + slotOf t * 1024 + tm.gen.toNat

/-- `n` bytes of part `part` of an image of the engines: their values are left open (R294; log 14). -/
def engineBytes (tm : Team) (part n : Nat) : List Byte :=
  (upto n).map fun i => Sys2Proof.Config.engineImage ((tm.sseq.toNat * 64 + part) * 8192 + i)

/-- The `pipe` state in a record: limits, depth, Lavg and the latencies not yet summed, of which fewer than 32 stand between
two evaluations (R216; the places are the model's, log 14). -/
def pipeBytes (tm : Team) : List Byte :=
  toBytes 2 tm.pipeMin ++ toBytes 2 tm.pipeMax ++ toBytes 2 tm.depth ++ toBytes 2 tm.latencies.length ++ toBytes 8 tm.lavg
    ++ tm.latencies.flatMap (toBytes 8)

/-- The `pipe` state read back from its place at 0x5700. -/
def Team.withPipe (m : List Cell) (tm : Team) : Team :=
  let n := memNat m
  { tm with
    pipeMin := n 0x5700 2, pipeMax := n 0x5702 2, depth := n 0x5704 2, lavg := n 0x5708 8
    latencies := (upto (n 0x5706 2)).map fun i => n (0x5710 + 8 * i) 8 }

/-- The chunks of the engines' work that are in use: copy commands with their progress, `pipe` state, chain and audit state,
captured commands, entry 16 of which is the prepared follow-on, and the sequencer's chain state (R294; log 14). -/
def engineChunks (tm : Team) : List Chunk :=
  let w := tm.saved
  (upto w.cq.length).map (fun i => (0x5300 + 64 * i, engineBytes tm i 64))
  ++ [(0x5700, pipeBytes tm)] ++ (if w.chains.isEmpty then [] else [(0x5900, engineBytes tm 16 0x700)])
  ++ (upto w.mq.length).map (fun i => (0x6000 + 6144 * i, engineBytes tm (17 + i) 6144))
  ++ (if w.followOn.isSome then [(0x6000 + 6144 * 16, engineBytes tm 33 6144)] else [])
  ++ (if tm.seq.any fun q => q.regs.chain.isSome then [(0x4212, engineBytes tm 34 6)] else [])

/-- The chunks of queues, barriers, sequencer, bank map, table and accumulator (R294). -/
def teamChunks (tm : Team) (table : ActTable) : List Chunk :=
  ((upto 256).flatMap fun n => match tabFind n tm.barriers with
    | none => []
    | some b => [(0x100 + 8 * n, toBytes 2 b.expected.toNat ++ toBytes 2 b.arrivals.toNat ++ toBytes 2 b.phase.toNat)])
  ++ [ (0x900, tm.q5down.flatMap fun x => toBytes 8 x.toNat), (0x980, tm.q5up.flatMap fun x => toBytes 8 x.toNat),
       (0xA00, tm.q7up.flatMap fun x => toBytes 8 x.toNat), (0xA80, tm.q7down.flatMap fun x => toBytes 8 x.toNat) ]
  ++ tm.q4.mapIdx (fun i m => (0x1000 + 128 * i, msgBytes m))
  ++ (upto 4).flatMap (fun c => (tabGet [] c tm.q0123).mapIdx fun e r => (0x2000 + 2048 * c + 128 * e, rowBytes r))
  ++ (match tm.seq with
      | none => []
      | some q => (seqChunks q).map fun c => (0x4000 + c.1, c.2))
  ++ (upto 128).map (fun b => (0x5000 + b, [match tabFind b tm.acc with
      | none => (0xFF : Byte)
      | some k => BitVec.ofNat 8 k.phys]))
  ++ tm.acc.map (fun e => (0x5100 + 4 * e.1, toBytes 4 e.2.steps.toNat))
  ++ (if tm.tableHeld then table.bank0.map (fun c => (0x20000 + c.1, [c.2]))
        ++ table.bank1.map (fun c => (0x28000 + c.1, [c.2])) else [])
  ++ tm.acc.flatMap fun e => e.2.words.map fun w => (recAccOff tm.launch + 4096 * e.1 + 4 * w.1, toBytes 4 w.2.toNat)

/-- Every chunk of a record but its header. -/
def recordChunks (tm : Team) (table : ActTable) : List Chunk :=
  teamChunks tm table ++ engineChunks tm
  ++ (tm.groups.mapIdx fun g gr =>
        (groupChunks (lrRegs tm.launch) gr).map fun c =>
          (0x30000 + g * groupSectionSize tm.launch + c.1, c.2)).flatten

/-- The parts of a group section that are in use (R288): offsets within the section, and lengths. -/
def groupParts (A : Nat) (g : Group) : List (Nat × Nat) :=
  [(0, 0x600), (0x600, 128 * g.deferred.length), (0xE00, if g.latch.isEmpty then 0 else 256),
   (0x1000, 16 * (g.regs.outs.filter fun a => a.kind = .load).length), (0x2000, 128 * A)]

/-- The parts of a record that are in use, but for the vault bytes (R288): offsets and lengths. -/
def recordParts (tm : Team) : List (Nat × Nat) :=
  [(0, 0x100), (0x100, 8 * lrBars tm.launch), (0x900, 8 * tm.q5down.length), (0x980, 8 * tm.q5up.length),
   (0xA00, 8 * tm.q7up.length), (0xA80, 8 * tm.q7down.length), (0x1000, 128 * tm.q4.length),
   (0x4000, if tm.seq.isSome then 0x308 else 0), (0x5000, 0x300), (0x5700, 0x200)]
  ++ (upto 4).map (fun c => (0x2000 + 2048 * c, 128 * (tabGet [] c tm.q0123).length))
  ++ [(0x20000, if tm.tableHeld then 0x10000 else 0)]
  ++ tm.acc.map (fun e => (recAccOff tm.launch + 4096 * e.1, 4096))
  ++ (tm.groups.mapIdx fun g gr =>
        (groupParts (lrRegs tm.launch) gr).map fun p => (0x30000 + g * groupSectionSize tm.launch + p.1, p.2)).flatten

/-- Chunks placed from an address. -/
def putChunks (m : List Cell) (base : Nat) : List Chunk → List Cell
  | [] => m
  | (o, bs) :: t => putChunks (memPut m (base + o) bs) base t

/-- The bytes of a region, addresses from its start. -/
def region (m : List Cell) (base size : Nat) : List Cell :=
  (m.filter fun c => base ≤ c.1 && c.1 < base + size).map fun c => (c.1 - base, c.2)

/-- The register rows of section `g` of a record whose line is poisoned. -/
def poisonedRows (poison : List Nat) (tm : Team) (g : Nat) : List Nat :=
  let base := tm.recPa + 0x30000 + g * groupSectionSize tm.launch + 0x2000
  (upto (lrRegs tm.launch)).filter fun r => poison.contains ((base + 128 * r) / 128)

/-- A launch record with one of its eight words replaced. -/
def withWord (l : BitVec 512) (i : Nat) (x : Nat) : BitVec 512 :=
  BitVec.ofNat 512 (sumNat ((upto 8).map fun j => (if j = i then x % 2 ^ 64 else lrBits l j 0 64) * 2 ^ (64 * j)))

/-- A team with what the words 0x08 to 0x48 of its header say of it: SHAPE, GRID, ARGP, TVEC, COORD, CLUS and STATE, of whose
table, fill and follow-on bits each leaves what State keeps beside it, or drops it (R295). -/
def Team.withHeader (m : List Cell) (tm : Team) : Team :=
  let n := memNat m
  let st := n 0x40 8
  { tm with
    launch := withWord (withWord tm.launch 4 (n 0x08 8)) 2 (n 0x28 8)
    grid := BitVec.ofNat 64 (n 0x18 8), argp := BitVec.ofNat 64 (n 0x20 8)
    x := BitVec.ofNat 16 (n 0x30 2), y := BitVec.ofNat 16 (n 0x32 2), z := BitVec.ofNat 16 (n 0x34 2)
    rank := bitsOf (n 0x38 8) 0 4
    rank0 := BitVec.ofNat 26 (bitsOf (n 0x38 8) 32 10 * 2 ^ 16 + bitsOf (n 0x38 8) 16 16)
    reason := BitVec.ofNat 3 st, held := bitOf st 3, wake := bitOf st 4
    seq := if bitOf st 5 then some (tm.seq.getD Seqr.none) else .none
    tableHeld := bitOf st 6
    saved := { tm.saved with
      followOn := if bitOf st 9 then tm.saved.followOn else .none
      table := { tm.saved.table with current := bitOf st 7, fill := if bitOf st 8 then tm.saved.table.fill else .none } } }

/-- A logical bank that the bank map gives a physical one (R294). -/
def mappedBank (m : List Cell) (b : Nat) : Bool := memNat m (0x5000 + b) 1 ≠ 0xFF

/-- A saved team as its record now holds it, with the fields that have no stated layout as kept. -/
def teamFromRecord (m : List Cell) (poison : List Nat) (old : Team) : Team :=
  let r := region m old.recPa (recSize old.launch)
  let n := memNat r
  let qc := n 0x48 8
  let words := fun o k => (upto k).map fun i => BitVec.ofNat 64 (n (o + 8 * i) 8)
  let tm := (old.withHeader r).withPipe r
  { tm with
    barriers := (upto (lrBars tm.launch)).map fun i =>
      (i, { expected := BitVec.ofNat 16 (n (0x100 + 8 * i) 2), arrivals := BitVec.ofNat 16 (n (0x102 + 8 * i) 2),
            phase := BitVec.ofNat 16 (n (0x104 + 8 * i) 2) })
    q0123 := (upto 4).map fun c =>
      (c, (upto (bitsOf qc (5 * c) 5)).map fun e => rowFrom (memBytes r (0x2000 + 2048 * c + 128 * e) 128))
    q4 := (upto (bitsOf qc 20 6)).map fun i => msgFrom (memBytes r (0x1000 + 128 * i) 76)
    q5down := words 0x900 (bitsOf qc 26 5), q5up := words 0x980 (bitsOf qc 31 5)
    q7up := words 0xA00 (bitsOf qc 36 5), q7down := words 0xA80 (bitsOf qc 41 5)
    seq := match tm.seq with
      | none => none
      | some q => some (seqFrom (region r 0x4000 4096) q)
    acc := (tm.acc.filter fun e => mappedBank r e.1).map fun e =>
      (e.1, { e.2 with
        steps := BitVec.ofNat 32 (n (0x5100 + 4 * e.1) 4)
        words := (upto 1024).map fun w => (w, BitVec.ofNat 32 (n (recAccOff tm.launch + 4096 * e.1 + 4 * w) 4)) })
    events := BitVec.ofNat 32 (n 0x60 4)
    groups := (upto (lrGroups tm.launch)).map fun g =>
      groupFrom (lrRegs tm.launch)
        (region r (0x30000 + g * groupSectionSize tm.launch) (groupSectionSize tm.launch))
        (poisonedRows poison tm g) (tm.groups.getD g Group.none) }

/-- Banks of the activation table as a record holds them. -/
def tableFromRecord (m : List Cell) (tm : Team) : List Cell × List Cell :=
  (region m (tm.recPa + 0x20000) 0x8000, region m (tm.recPa + 0x28000) 0x8000)

/-- The record's parts in use outside the vault bytes, written anew from a team (R288, R295, R296): the lines of register
rows with a poisoned lane become poisoned lines, and a line that is poisoned stays so (R345). -/
def State.writeRecord (s : State) (t : Nat) (tm : Team) (table : ActTable) (commit cyc : Nat) : State :=
  let m0 := (recordParts tm).foldl (fun m p => memZero m (tm.recPa + p.1) p.2) s.mem
  let m1 := putChunks m0 tm.recPa (headerChunks t tm commit cyc ++ recordChunks tm table)
  let bad := (tm.groups.mapIdx fun g gr =>
    gr.badRegs.map fun b => (tm.recPa + 0x30000 + g * groupSectionSize tm.launch + 0x2000 + 128 * (b / 32)) / 128).flatten
  { s with mem := m1, poison := bad.foldl (fun l p => insertNat p l) s.poison }

/-! ### The pool (R293) -/

/-- Bytes of a pool that its allocation bitmap takes. -/
def bitmapSize (len : Nat) : Nat := ((len / 65536 + 7) / 8 + 65535) / 65536 * 65536

/-- The bitmap bits of a record's granules set or cleared; bit `i` of byte `i / 8` is granule `i` (log 42). -/
def markPool (m : List Cell) (base pa size : Nat) (on : Bool) : List Cell :=
  (span ((pa - base) / 65536) (size / 65536)).foldl (fun m g =>
    let a := base + g / 8
    memSet a (setBit8 (memByte a m) (g % 8) on) m) m

/-- A record taken from, or given back to, the pool of a job. -/
def State.markRecord (s : State) (tm : Team) (on : Bool) : State :=
  if tm.recPa = 0 then s
  else { s with mem := markPool s.mem (s.job (lrJob tm.launch)).savebase.toNat tm.recPa (recSize tm.launch) on }

/-- A team as it stands now, wherever its state is held (R272). -/
def State.view (s : State) (t : Nat) : Team :=
  let tm := s.team t
  if tm.state = .saved && tm.recPa ≠ 0 then teamFromRecord s.mem s.poison tm else tm

/-- A change applied to a team wherever its state is held (R297): to the team, or as one indivisible
read-modify-write of its record, which also increments EVENTS when `event`. -/
def State.modView (s : State) (t : Nat) (event : Bool) (f : Team → Team) : State :=
  let tm := s.team t
  if tm.state = .saved && tm.recPa ≠ 0 then
    let v := f (teamFromRecord s.mem s.poison tm)
    let v := if event then { v with events := v.events + 1 } else v
    let table : ActTable :=
      { ActTable.empty with bank0 := (tableFromRecord s.mem tm).1, bank1 := (tableFromRecord s.mem tm).2 }
    (s.modTeam t fun _ => v).writeRecord t v table (commitWord t v) v.saveCyc.toNat
  else s.modTeam t f

end Sys2Proof.Machine
end

