-- ==== Sys2Proof/Machine/Cluster.lean ====
section
/-! DEFINITION. Clusters and grids: where barriers and gauges of a team lie, the wake condition, halting a
cluster, ending a team, and completing a grid (R105, R178, R187, R226, R238, R271 to R274, R288 to R291). -/

namespace Sys2Proof.Machine

/-! ### Barriers and gauges -/

/-- The team and number of the barrier that `bN` names, if any (R178). -/
def State.barrierOf (s : State) (t n : Nat) : Option (Nat × Nat) :=
  let tm := s.team t
  if tm.clusterSize = 1 || n < 128 then if n < lrBars tm.launch then some (t, n) else none
  else match s.findTeam (bitsOf tm.rank0.toNat 16 10) (bitsOf tm.rank0.toNat 0 16) with
    | none => none
    | some r => if n - 128 < lrBars (s.team r).launch then some (r, n - 128) else none

/-- A barrier at launch: nothing expected, nothing arrived, phase 0. -/
def Barrier.zero : Barrier := { expected := 0, arrivals := 0, phase := 0 }

/-- One arrival (R180). -/
def Barrier.arrive (b : Barrier) : Barrier :=
  if b.arrivals + 1 = b.expected then { b with arrivals := 0, phase := b.phase + 1 }
  else { b with arrivals := b.arrivals + 1 }

/-- `GEN` has reached generation `g` (R187). -/
def genReached (gen g : Nat) : Bool := (gen + 2 ^ 32 - g % 2 ^ 32) % 2 ^ 32 < 2 ^ 31

/-- The team and offset of a vault address as a team of the cluster names it, if `n` bytes there lie inside
that team's allocation (R151). -/
def State.vaultLoc (s : State) (t addr n : Nat) : Option (Nat × Nat) :=
  match s.rankTeam t (bitsOf addr 21 4) with
  | none => none
  | some r =>
    let off := bitsOf addr 0 21
    if addr < 2 ^ 25 && off + n ≤ lrVault (s.team r).launch then some (r, off) else none

/-- A little-endian number in a team's vault bytes. -/
def State.vaultNat (s : State) (t off n : Nat) : Nat := memNat s.mem (s.vaultPa t off) n

/-- The table key of a memory gauge: 256 times its home agent plus its entry (R186). -/
def gaugeKey (agent entry : Nat) : Nat := 256 * agent + entry

/-- The memory gauge that a handle of R186 names, if it is attached. -/
def State.gaugeOf (s : State) (h : Nat) : Option MGauge :=
  if h % 256 = 0 && h < 2 ^ 20 then tabFind (gaugeKey (bitsOf h 16 4) (bitsOf h 8 8)) s.mgauges else none

/-! ### Waking (R290) -/

/-- Room or entry in a port as a group sees it (R23, R24). -/
def portReady (tm : Team) (port : Nat) (push : Bool) : Bool :=
  if port < 4 then
    let n := (tabGet [] port tm.q0123).length
    if push then n < 16 else 0 < n
  else if port = 4 then 0 < tm.q4.length
  else if port = 5 then if push then tm.q5up.length < 16 else 0 < tm.q5down.length
  else if port = 7 then if push then tm.q7up.length < 16 else 0 < tm.q7down.length
  else false

/-- Every token that a mask names is complete (R188). -/
def tokensDone (r : Regs) (m : Byte) : Bool :=
  (upto 8).all fun i => !m.getLsbD i || (tabGet Token.zero i r.tok).count = 0

/-- A launch answer is due to a context (R222). -/
def State.answerDue (s : State) (c : Ctx) : Bool := s.launches.any fun l => l.who = some c

/-- A launch result is still due to some context of a team (R290). -/
def State.answersDue (s : State) (t : Nat) : Bool :=
  s.launches.any fun l => match l.who with
    | some (.group u _ _) => u = t
    | some (.seq u) => u = t
    | _ => false

/-- What a wait of a group's split waits for has come (R290). -/
def State.waitOver (s : State) (t : Nat) (tm : Team) (g : Group) (w : Wait) : Bool :=
  match w with
  | .none => false
  | .queue p push => if p = 6 then !g.q6.isEmpty else portReady tm p push
  | .reg isK n => match tabGet .plain n (if isK then g.k.states else g.states) with
      | .armedFull _ => true
      | _ => false
  | .barrier n arv => match s.barrierOf t n with
      | none => true
      | some (b, i) => (tabGet Barrier.zero i (s.view b).barriers).phase.getLsbD 0 != arv
  | .gauge mem loc gen _ =>
      if mem then match s.gaugeOf loc.toNat with
        | none => true
        | some q => genReached q.gen.toNat gen.toNat
      else match s.vaultLoc t loc.toNat 16 with
        | none => true
        | some (r, o) => genReached (s.vaultNat r (o + 8) 4) gen.toNat
  | .token m => tokensDone g.regs m
  | .counts _ _ => !(tm.contexts.any fun r => r.outs.any fun a => a.kind = .atomic) && !s.answersDue t
  | .waitq _ _ _ => tm.wake
  | .parked c i _ => i < 256 && !((s.col c).faults.any fun f => f.id = i)
  | .join => tm.seq.isNone
  | .resource _ => true
  | .order => false
  | .answer => true
  | .nvwait _ _ => tm.wake

/-- The wake condition of a saved cluster holds: some split of some team of it is satisfied (R290). A split held by a trap,
or with a parked split, is satisfied by no earlier wait of its own. -/
def State.wakeHolds (s : State) (c : Nat) : Bool :=
  (s.clusterTeams c).any fun t =>
    let v := s.view t
    v.wake || v.groups.any fun g => g.splits.any fun p =>
      p.valid && !p.held && !p.parkHeld && s.waitOver t v g p.wait

/-- Column of the slice that holds a cluster's wake entry: the home column of rank 0 (R289). -/
def State.wakeCol (s : State) (c : Nat) : Nat :=
  match s.teams.find? fun e => e.2.cluster = c with
  | none => 0
  | some e => colOfCore (bitsOf e.2.rank0.toNat 16 10)

/-- The cluster enters the resumption queue of its slice, once (R291). -/
def State.queueResume (s : State) (c : Nat) : State :=
  s.modCol (s.wakeCol c) fun col =>
    if col.resumeQ.contains c then col else { col with resumeQ := col.resumeQ ++ [c] }

/-- A saved cluster is queued if nothing holds it back: not HELD, not halted by a fatal cause, and its wake
condition holds, or it was saved for power-gating or the emergency save (R288, R290, R337). -/
def State.evalWake (s : State) (c : Nat) : State :=
  let ts := s.clusterTeams c
  let ok := ts.all fun t =>
    let tm := s.team t
    tm.state = .saved && tm.recPa ≠ 0 && !tm.held && tm.reason ≠ 5
  let now := ts.any fun t => (s.team t).reason = 3 || (s.team t).reason = 4
  if ok && !ts.isEmpty && (now || s.wakeHolds c) then s.queueResume c else s

/-- Wake conditions of every saved cluster, evaluated again. -/
def State.evalWakes (s : State) : State :=
  let cs := (s.teams.filter fun e => e.2.state = .saved).foldl (fun l e => insertNat e.2.cluster l) []
  cs.foldl State.evalWake s

/-! ### Grids (R226, R274, R276) -/

/-- The slice column of a grid handle (R225). -/
def handleCol (h : DWord) : Nat := bitsOf h.toNat 8 7

/-- The part of a grid with a handle, changed. -/
def State.modPart (s : State) (h : DWord) (f : GridPart → GridPart) : State :=
  s.modCol (handleCol h) fun col =>
    { col with grids := col.grids.map fun g =>
        { g with parts := g.parts.map fun p => if p.handle = h then f p else p } }

/-- The part of a grid with a handle. -/
def State.part (s : State) (h : DWord) : Option GridPart :=
  ((s.col (handleCol h)).grids.flatMap (·.parts)).find? fun p => p.handle = h

/-- `JOBCTL`.VALID of a job (R234). -/
def State.jobValid (s : State) (j : Nat) : Bool := (s.job j).ctl.getLsbD 63

/-- No further team of this part will be placed (R186, R224). -/
def State.partClosed (s : State) (p : GridPart) : Bool :=
  p.denied || lrTeams p.launch ≤ p.next || !s.jobValid (lrJob p.launch)

/-- Every team of the part is placed, or will never be, and has ended. -/
def State.partDone (s : State) (p : GridPart) : Bool :=
  s.partClosed p && p.retired + p.ended + p.lost = p.next

/-- STATUS of a part's completion notice: DENIED after a fatal halt, a detached gauge or a cleared VALID. -/
def noticeStatus (p : GridPart) : Nat := if p.ended ≠ 0 || p.next < lrTeams p.launch then 10 else 0

/-- The completion notice of a finished part: none without CNE, or when a team of it was lost (log 25). -/
def noticeOf (col : Nat) (p : GridPart) : List Notice :=
  if lrCne p.launch && p.lost = 0 then
    [{ col := col, job := BitVec.ofNat 8 (lrJob p.launch), va := lrCnaddr p.launch,
       value := p.handle + BitVec.ofNat 64 (noticeStatus p), grid := p.handle, fault := none }]
  else []

/-- Grids of a column: finished parts give their notice once, and a grid whose parts are finished and whose
notices are stored or dropped leaves the grid table. A batch slot is free once every team of the batch has ended (R276). -/
def State.settleCol (s : State) (c : Nat) : State :=
  let col := s.col c
  let due := fun (p : GridPart) => !p.noticed && s.partDone p
  let ns := (col.grids.flatMap (·.parts)).filter due
  let notices := s.notices ++ ns.flatMap (noticeOf c)
  let grids := col.grids.map fun g =>
    { g with parts := g.parts.map fun p => if due p then { p with noticed := true } else p }
  let gone := fun (g : Grid) => g.parts.all fun p => p.noticed && !(notices.any fun n => n.grid = p.handle)
  let ended := fun (g : Grid) => g.parts.all (·.noticed)
  let slots := (grids.filter ended).filterMap (·.slot)
  { s.modCol c fun col =>
      { col with
          grids := (grids.filter fun g => !gone g).map fun g => if ended g then { g with slot := none } else g
          heldGrids := col.heldGrids.filter fun h => !((grids.filter gone).any fun g => g.parts.any fun p => p.handle = h)
          batches := slots.foldl (fun b i => tabDel i b) col.batches }
    with notices := notices }

/-- Every column's grids settled. -/
def State.settle (s : State) : State := s.cols.foldl (fun s e => s.settleCol e.1) s

/-! ### The end of a team -/

/-- How a team's directory entry comes to an end (R105, R238, R338). -/
inductive TeamEnd where
  | retired
  | fatal
  | lost
  deriving DecidableEq, Repr

/-- A context belongs to a team. -/
def ctxOfTeam (t : Nat) : Ctx → Bool
  | .group u _ _ => u = t
  | .seq u => u = t
  | .host _ => false

/-- A core after a team's engine work, banks, sequencer and table are released. -/
def Core.release (c : Core) (t : Nat) (tm : Team) : Core :=
  let queued := c.mq.flatMap fun m => match m.kind with
    | .acfr phys => if m.team = t then phys else []
    | _ => []
  let mine := tm.acc.map (·.2.phys) ++ queued
  { c with
    mq := c.mq.filter fun m => m.team ≠ t
    cq := c.cq.filter fun m => m.team ≠ t
    chains := c.chains.filter fun m => m.team ≠ t
    followOn := match c.followOn with
      | none => none
      | some m => if m.team = t then none else some m
    released := c.released.filter fun m => m.team ≠ t
    phys := c.phys.filter fun p => !mine.contains p
    seqOwner := if c.seqOwner = some t then none else c.seqOwner
    table := if c.table.holder = some t then ActTable.empty else c.table }

/-- Messages that a team discards at its end count in CON and set the job's discard flag (R172). -/
def State.discardMessages (s : State) (t : Nat) : State :=
  let v := s.view t
  let n := v.q4.length + (v.groups.filter fun g => g.held.isSome).length
  let j := lrJob v.launch
  if n = 0 then s
  else
    let s := s.modTowerJob (towerOfCore (homeOf t)) j fun c => { c with con := c.con + BitVec.ofNat 64 n }
    s.modJob j fun jb => { jb with ctl := jb.ctl ||| (1 : DWord) <<< 62 }

/-- A team's commands when it ends: completions not collected free their slots, and those still due will; a wait of the
team is over (R229). -/
def NvQueue.leave (q : NvQueue) (t : Nat) : NvQueue :=
  let mine := fun (k : NvSlot) => ctxOfTeam t k.ctx
  let fix := fun (_ : Nat) (k : NvSlot) =>
    { k with orphan := k.orphan || mine k, waiter := k.waiter.filter fun w => !ctxOfTeam t w.1 }
  { q with slots := tabMap fix (q.slots.filter fun e => !(mine e.2 && e.2.result.isSome)) }

/-- The team leaves the directory: its generation advances, its resources and its save record are free, and
completions it has not collected are collected (R105, R172, R229, R273, R280). A cluster with no team left has no wake
entry; the teams that remain of a cluster go on as the cluster (R271). -/
def State.removeTeam (s : State) (t : Nat) : State :=
  let tm := s.team t
  let s := (s.discardMessages t).markRecord tm false
  let s := if tm.state = .saved then s else s.modCore tm.core fun c => c.release t tm
  let s := s.modCore (homeOf t) fun c => { c with gens := tabMod 0 (slotOf t) (· + 1) c.gens }
  let wc := s.wakeCol tm.cluster
  let s := { s with
    teams := tabDel t s.teams
    nvqs := tabMap (fun _ (q : NvQueue) => q.leave t) s.nvqs }
  let s := s.modHost (colOfCore (homeOf t)) fun h => { h with q7order := h.q7order.filter (· ≠ t) }
  if s.teams.any fun e => e.2.cluster = tm.cluster then s.evalWake tm.cluster
  else s.modCol wc fun col =>
    { col with wakes := col.wakes.filter (fun w => w.cluster ≠ tm.cluster), resumeQ := col.resumeQ.filter (· ≠ tm.cluster) }

/-- A team's end is counted in its grid. -/
def State.countEnd (s : State) (grid : DWord) (e : TeamEnd) : State :=
  (s.modPart grid fun p => match e with
    | .retired => { p with retired := p.retired + 1 }
    | .fatal => { p with ended := p.ended + 1 }
    | .lost => { p with lost := p.lost + 1 }).settleCol (handleCol grid)

/-- The team leaves the directory and its grid counts it. A team that a fatal cause halted was counted when it was saved
(R226, R238). -/
def State.endTeam (s : State) (t : Nat) (e : TeamEnd) : State :=
  let tm := s.team t
  let s := s.removeTeam t
  if tm.state = .saved && tm.reason = 5 then s else s.countEnd tm.grid e

/-- A team is lost: a LOST record (kind 0x22) goes to the host core of column `c` (R337, R338, R346). -/
def State.loseTeam (s : State) (t c : Nat) : State :=
  (s.pushTeamRec c 0x22 0 0 (s.team t).recPa t).endTeam t .lost

/-! ### Halting a cluster (R238, R288) -/

/-- The job has a save pool (R280). -/
def State.hasPool (s : State) (j : Nat) : Bool := (s.job j).savelen != 0

/-- A halt request for one team: REASON becomes the more severe, a pre-emption, by the host core of column `hold`, sets
HELD, and no group of a team that is not saved issues again. A team that is saved keeps its REASON unless its cluster's
save is still going on (`during`). -/
def Team.halt (reason : BitVec 3) (hold : Option Nat) (during : Bool) (tm : Team) : Team :=
  let worse := if (tm.halted || tm.state = .saved) && reason.toNat < tm.reason.toNat then tm.reason else reason
  let tm := { tm with held := tm.held || hold.isSome }
  if tm.state = .saved && !during then tm
  else { tm with halted := tm.halted || tm.state != .saved, reason := worse,
                 issuer := if hold.isSome then hold else tm.issuer }

/-- A cluster's save is going on: some team of it is not saved yet. -/
def State.savingCluster (s : State) (c : Nat) : Bool :=
  (s.clusterTeams c).any fun t => (s.team t).state != .saved && (s.team t).halted

/-- Every team of the cluster is asked to halt (R271). A cluster that is being saved by swap also has its entry counted
among the 256 until its restoration begins or a graver cause arrives during the save; others have one in the separate list
(R288, R290). -/
def State.haltCluster (s : State) (c : Nat) (reason : BitVec 3) (hold : Option Nat) : State :=
  let during := s.savingCluster c
  let s := (s.clusterTeams c).foldl (fun s t => s.modView t false (Team.halt reason hold during)) s
  s.modCol (s.wakeCol c) fun col =>
    if col.wakes.any fun w => w.cluster = c then
      { col with wakes := col.wakes.map fun w =>
          if w.cluster = c then { w with swap := w.swap && (!during || reason = 1) } else w }
    else { col with wakes := col.wakes ++ [{ cluster := c, swap := reason = 1 }] }

/-- The location lies outside every vault. -/
def Loc.inMemory : Loc → Bool
  | .phys _ => true
  | _ => false

/-- Issued stores and `cctl` to memory of a context of a team that a fatal cause ends (log 110). -/
def lateOf (agent job : Nat) (c : Ctx) (r : Regs) : List LateStore :=
  (r.outs.filter fun a => !a.kind.isLoad && !a.peer).map fun a =>
    { ctx := c, agent := agent, job := job
      acc := { a with lanes := (a.lanes.filter fun l => l.loc.inMemory).map fun l => { l with gauge := Option.none } } }

/-- Those of every context of a team. -/
def State.lateStores (s : State) (t : Nat) : List LateStore :=
  let tm := s.team t
  let of := lateOf tm.core (lrJob tm.launch)
  (tm.groups.mapIdx fun g gr => of (.group t g 0) gr.regs).flatten ++ tm.seq.toList.flatMap fun q => of (.seq t) q.regs

/-- A cluster of a job with no pool that a fatal cause ends: FATAL records with RECPA 0, and the teams are
freed with no image (R238, R280). `t` raised `cause`. Their issued stores are still performed. -/
def State.freeFatal (s : State) (c t : Nat) (cause : BitVec 8) : State :=
  let s := { s with late := s.late ++ (s.clusterTeams c).flatMap s.lateStores }
  (s.clusterTeams c).foldl (fun s u =>
    (s.pushTeamRec (colOfCore (s.team u).core) 0x10 (if u = t then cause.toNat else 0) 0 0 u).endTeam u .fatal) s

/-- Step 2 to 4 of R238 for the team that raised a fatal cause. -/
def State.fatalHalt (s : State) (t : Nat) (cause : BitVec 8) : State :=
  let tm := s.team t
  if tm.recPa ≠ 0 then
    (s.modTeam t fun tm => { tm with fatal := cause }).haltCluster tm.cluster 5 none
  else s.freeFatal tm.cluster t cause

end Sys2Proof.Machine
end

