-- ==== Sys2Proof/Machine/Ops.lean ====
section
/-! DEFINITION. Operations on the issuing context: its registers, masks and pc, the end of an instruction, fault
records, taking an exception and returning from one (R13 to R39, R110, R236 to R239, R260, R261). -/

namespace Sys2Proof.Machine

/-! ### The issuing context -/

/-- The three kinds of context (R13). -/
inductive Kind where
  | group
  | seq
  | host
  deriving DecidableEq, Repr

/-- Kind of a context. -/
def kindOf : Ctx → Kind
  | .group _ _ _ => .group
  | .seq _ => .seq
  | .host _ => .host

/-- Kind of the issuing context. -/
def State.kind (s : State) : Kind := kindOf s.cur

/-- Key of the team of a group or sequencer context; 0 for a host core. -/
def ctxTeam : Ctx → Nat
  | .group t _ _ => t
  | .seq t => t
  | .host _ => 0

/-- Global core a context runs on; for a host core, core 0 of its column. -/
def State.ctxCore (s : State) : Ctx → Nat
  | .group t _ _ => (s.team t).core
  | .seq t => (s.team t).core
  | .host c => 8 * c

/-- Global column a context runs on. -/
def State.ctxCol (s : State) : Ctx → Nat
  | .host c => c
  | c => colOfCore (s.ctxCore c)

/-- Job of a context: of the team's launch record, or the job that `JOBSEL` selects for a host core (log 7). -/
def State.ctxJob (s : State) : Ctx → Nat
  | .host c => bitsOf (s.host c).jobsel.toNat 0 8
  | c => lrJob (s.team (ctxTeam c)).launch

/-- Priority of a context: of its team's grid; 7 for a host core (R186, R303). -/
def State.ctxPri (s : State) : Ctx → Nat
  | .host _ => 7
  | c => lrPri (s.team (ctxTeam c)).launch

/-- Host privilege level of a context; user for groups and sequencers (R13). -/
def State.ctxLevel (s : State) : Ctx → Nat
  | .host c => (s.host c).pl.toNat
  | _ => 0

/-- Address of the context's next instruction. -/
def State.ctxPc (s : State) : Ctx → Addr
  | .group t g p => (s.split t g p).pc
  | .seq t => (s.seqr t).pc
  | .host c => (s.host c).pc

/-- The state with the pc of a context set. -/
def State.setPc (s : State) (c : Ctx) (pc : Addr) : State :=
  match c with
  | .group t g p => s.modSplit t g p fun x => { x with pc := pc }
  | .seq t => s.modSeq t fun q => { q with pc := pc }
  | .host c => s.modHost c fun h => { h with pc := pc }

/-- The wait of a context. -/
def State.ctxWait (s : State) : Ctx → Wait
  | .group t g p => (s.split t g p).wait
  | .seq t => (s.seqr t).wait
  | .host c => (s.host c).wait

/-- The state with the wait of a context set. -/
def State.setWait (s : State) (c : Ctx) (w : Wait) : State :=
  match c with
  | .group t g p => s.modSplit t g p fun x => { x with wait := w }
  | .seq t => s.modSeq t fun q => { q with wait := w }
  | .host c => s.modHost c fun h => { h with wait := w }

/-- Active lanes of the issuing context as a mask; a scalar context has lane 0. -/
def State.ctxMask (s : State) : Ctx → Word
  | .group t g p => (s.split t g p).mask
  | _ => 1

/-- Active lanes of the issuing context, rising. -/
def State.lanes (s : State) : List Nat := lanesOf (s.ctxMask s.cur)

/-- Lowest-numbered active lane of the issuing context. -/
def State.low (s : State) : Nat := lowLane (s.ctxMask s.cur)

/-- First physical register of the issuing split's window, `WB` (R19). -/
def State.wb (s : State) : Nat :=
  match s.cur with
  | .group t g p => 32 * (s.split t g p).wbi.toNat
  | _ => 0

/-- Registers per lane A of the issuing team (R18). -/
def State.regsA (s : State) : Nat := lrRegs (s.team (ctxTeam s.cur)).launch

/-- The group of the issuing context. -/
def State.myGroup (s : State) : Group :=
  match s.cur with
  | .group t g _ => s.group t g
  | _ => Group.none

/-- The state with the group of the issuing context changed. -/
def State.modMyGroup (s : State) (f : Group → Group) : State :=
  match s.cur with
  | .group t g _ => s.modGroup t g f
  | _ => s

/-- The `k` registers of a context. -/
def State.ctxK (s : State) : Ctx → KFile
  | .group t g _ => (s.group t g).k
  | .seq t => (s.seqr t).k
  | .host c => (s.host c).k

/-- The state with the `k` registers of a context changed. -/
def State.modK (s : State) (c : Ctx) (f : KFile → KFile) : State :=
  match c with
  | .group t g _ => s.modGroup t g fun gr => { gr with k := f gr.k }
  | .seq t => s.modSeq t fun q => { q with k := f q.k }
  | .host c => s.modHost c fun h => { h with k := f h.k }

/-- Register `s`n of a scalar context. -/
def State.getS (s : State) (c : Ctx) (n : Nat) : DWord :=
  match c with
  | .group _ _ _ => 0
  | .seq t => tabGet 0 n (s.seqr t).s
  | .host c => tabGet 0 n (s.host c).s

/-- The state with register `s`n of a scalar context written. -/
def State.setS (s : State) (c : Ctx) (n : Nat) (x : DWord) : State :=
  match c with
  | .group _ _ _ => s
  | .seq t => s.modSeq t fun q => { q with s := tabSet n x q.s }
  | .host c => s.modHost c fun h => { h with s := tabSet n x h.s }

/-- Register `k`n of a context. -/
def State.getK (s : State) (c : Ctx) (n : Nat) : DWord := tabGet 0 n (s.ctxK c).vals

/-- A local write of `k`n: the register becomes plain (R27). -/
def State.setK (s : State) (c : Ctx) (n : Nat) (x : DWord) : State :=
  s.modK c fun k => { vals := tabSet n x k.vals, states := tabDel n k.states }

/-- Tokens, scale registers, flags, trap registers and outstanding accesses of a context; a host core has only
outstanding accesses. -/
def State.ctxRegs (s : State) : Ctx → Regs
  | .group t g _ => (s.group t g).regs
  | .seq t => (s.seqr t).regs
  | .host c => { Regs.zero with outs := (s.host c).outs }

/-- The state with those registers changed. -/
def State.modRegs (s : State) (c : Ctx) (f : Regs → Regs) : State :=
  match c with
  | .group t g _ => s.modGroup t g fun gr => { gr with regs := f gr.regs }
  | .seq t => s.modSeq t fun q => { q with regs := f q.regs }
  | .host c => s.modHost c fun h => { h with outs := (f { Regs.zero with outs := h.outs }).outs }

/-- Row `r` of a group's registers. -/
def Group.row (g : Group) (r : Nat) : Row := tabGet (rowOf 0) r g.rows

/-- A local write of the lanes of a mask in row `r`: the register becomes plain and the lanes' poison is
cleared (R27, R346). -/
def Group.writeRow (g : Group) (r : Nat) (mask : Word) (f : Nat → Word) : Group :=
  let old := g.row r
  { g with
    rows := tabSet r ((upto 32).map fun l => if mask.getLsbD l then f l else laneOf old l) g.rows
    states := tabDel r g.states
    badRegs := g.badRegs.filter fun b => !(b / 32 = r && mask.getLsbD (b % 32)) }

/-- Predicate `pN` of the lanes of a context as a mask; `p7` reads true (R22). -/
def State.pred (s : State) (n : Nat) : Word :=
  if n = 7 then BitVec.allOnes 32
  else match s.cur with
    | .group t g _ => tabGet 0 n (s.group t g).preds
    | .seq t => if (s.seqr t).p.getLsbD n then 1 else 0
    | .host c => if (s.host c).p.getLsbD n then 1 else 0

/-- Predicate `pN` written in each active lane; writes of `p7` are discarded (R22). -/
def State.setPred (s : State) (n : Nat) (f : Nat → Bool) : State :=
  if n = 7 then s
  else match s.cur with
    | .group t g p =>
      let m := (s.split t g p).mask
      s.modGroup t g fun gr =>
        let old := tabGet 0 n gr.preds
        { gr with preds := tabSet n ((old &&& ~~~m) ||| maskOf ((lanesOf m).filter f)) gr.preds }
    | .seq t => s.modSeq t fun q => { q with p := setBit8 q.p n (f 0) }
    | .host c => s.modHost c fun h => { h with p := setBit8 h.p n (f 0) }

/-! ### The end of an instruction -/

/-- The end test of R110 for the instruction at `pc`, which completed without moving the pc: the address of the
next instruction and the loops still open, innermost last. -/
def endTest (pc : Addr) : List Loop → Addr × List Loop
  | [] => (pc + 4, [])
  | l :: outer =>
    if l.last = pc then
      if l.count - 1 = 0 then endTest pc outer else (l.start, { l with count := l.count - 1 } :: outer)
    else (pc + 4, l :: outer)

/-- A split after the instruction at its pc completed (R110). -/
def Split.next (p : Split) : Split :=
  let r := endTest p.pc p.loops.reverse
  { p with pc := r.1, loops := r.2.reverse, wait := .none }

/-- The context goes on to its next instruction. -/
def State.advanceOf (s : State) (c : Ctx) : State :=
  match c with
  | .group t g p => s.modSplit t g p Split.next
  | .seq t => s.modSeq t fun q => { q with pc := q.pc + 4, wait := .none }
  | .host c => s.modHost c fun h => { h with pc := h.pc + 4, wait := .none }

/-- The issuing context goes on to its next instruction. -/
def State.advance (s : State) : State := s.advanceOf s.cur

/-! ### Fault records (R260, R261) -/

/-- The lowest record number that is free, of 256. -/
def freeRecord (fs : List FaultRec) : Option Nat := (upto 256).find? fun i => !(fs.any fun f => f.id = i)

/-- A fault in the buffer of column `c`: it shares the record of the same ASID, 64 KiB page and kind, or takes
a free one; with all 256 in use there is none, and the faulting agent tries again (R260). -/
def State.fileFault (s : State) (c : Nat) (asid : BitVec 16) (job agent core : Nat) (f : FaultAt) :
    Option (Nat × State) :=
  let fs := (s.col c).faults
  let same := fun (r : FaultRec) => r.asid = asid && r.va / 65536 = f.va / 65536 && r.kind = f.kind
  match fs.find? same with
  | some r => some (r.id, s.modCol c fun col =>
      { col with faults := col.faults.map fun q => if q.id = r.id then { q with waiters := q.waiters + 1 } else q })
  | none => match freeRecord fs with
    | none => none
    | some i => some (i, s.modCol c fun col =>
        { col with faults := col.faults ++
          [{ id := i, va := f.va, asid := asid, job := BitVec.ofNat 8 job, kind := f.kind,
             agent := BitVec.ofNat 3 agent, core := BitVec.ofNat 10 core, waiters := 0, entry := f.walk.entry,
             malf := f.walk.malf, level := f.walk.level, eaddr := f.walk.eaddr }] })

/-- ASID of a job (R244). -/
def State.asid (s : State) (j : Nat) : BitVec 16 := BitVec.ofNat 16 (s.job j).ctl.toNat

/-! ### Taking an exception (R236 to R239) -/

/-- `TCAUSE` with VALID, FATAL, LANE and CAUSE. -/
def tcauseWord (fatal : Bool) (lane cause : Nat) : Word :=
  BitVec.ofNat 32 (2 ^ 31 + 2 ^ 30 * b2n fatal + 2 ^ 16 * (lane % 32) + cause % 256)

/-- Where `eret` resumes for a recoverable cause (R236): the next instruction for all but cause 9. Causes 8 and
6 after issue name their own address. -/
def resumeAfter (cause : Nat) (epc : Addr) : Addr := if cause = 9 then epc else epc + 4

/-- Trap registers on a fatal cause (R238, R39). -/
def TrapRegs.fatal (r : TrapRegs) (cause lane : Nat) (info : DWord) : TrapRegs :=
  { r with tcause := tcauseWord true lane cause, tinfo := info, respc := 0 }

/-- Trap registers on a fatal cause taken before the next issue: `EPC` is the instruction not executed (R236). -/
def TrapRegs.fatalAt (r : TrapRegs) (cause : Nat) (info : DWord) (pc : Addr) : TrapRegs :=
  { r.fatal cause 0 info with epc := pc.setWidth 64 }

/-- Trap registers on a recoverable cause (R237). -/
def TrapRegs.take (cause lane : Nat) (info : DWord) (epc resp : Addr) (mask : Word) : TrapRegs :=
  { tcause := tcauseWord false lane cause, tinfo := info, epc := epc.setWidth 64, emask := mask,
    respc := resp.setWidth 64 }

/-- `TINFO` of cause 16: the cause that arrived and the cause held before (R236). -/
def doubleInfo (arrived : Nat) (held : Word) : DWord := BitVec.ofNat 64 (arrived % 256 + 256 * (held.toNat % 256))

/-- Causes that are always fatal (R236). -/
def isFatal (cause : Nat) : Bool := cause = 7 || cause = 11 || cause = 12 || cause = 15 || cause = 16

/-- A fatal cause in a group or sequencer (R238). -/
def State.takeFatal (s : State) (c : Ctx) (cause lane : Nat) (info : DWord) : State :=
  let tm := s.team (ctxTeam c)
  let u := (s.modRegs c fun r => { r with trap := r.trap.fatal cause lane info }).fatalHalt (ctxTeam c) (BitVec.ofNat 8 cause)
  if cause = 7 then
    u.logError (colOfCore tm.core)
      (s.errorRec 0 2 info.toNat tm.core (lrJob tm.launch) lane (Sys2Proof.Config.syndrome 0 info.toNat lane))
  else u

/-- Every other valid split of the group is held (R106, R237). -/
def holdOthers (p : Nat) (ps : List Split) : List Split :=
  ps.mapIdx fun i x => if i = p || !x.valid then x else { x with held := true }

/-- Entry for a recoverable cause (R237), or the fatal cause it becomes: 16 when VALID is 1, the cause itself
when there is no trap vector. -/
def State.takeRecoverable (s : State) (c : Ctx) (cause : Nat) (info : DWord) (epc resp : Addr) (mask : Word) : State :=
  let r := s.ctxRegs c
  let tvec := lrTvec (s.team (ctxTeam c)).launch
  if r.trap.tcause.getLsbD 31 then s.takeFatal c 16 0 (doubleInfo cause r.trap.tcause)
  else if tvec = 0 then s.takeFatal c cause 0 info
  else
    let s := s.modRegs c fun r => { r with trap := TrapRegs.take cause 0 info epc resp mask }
    match c with
    | .group t g p =>
      s.modGroup t g fun gr =>
        { gr with splits := holdOthers p (modAt p (fun x =>
            { x with pc := BitVec.ofNat 57 tvec, wait := .none, parkHeld := false }) gr.splits) }
    | .seq t => s.modSeq t fun q => { q with pc := BitVec.ofNat 57 tvec, wait := .none }
    | .host _ => s

/-- Target level of a host cause or interrupt bit: supervisor when delegated and not at machine level (R239). -/
def HostCore.target (h : HostCore) (delegBit : Nat) : BitVec 2 :=
  if h.hdeleg.getLsbD delegBit && h.pl.toNat < 3 then 1 else 3

/-- Host trap or interrupt entry (R239). -/
def HostCore.enter (h : HostCore) (interrupt : Bool) (num : Nat) (info : DWord) (epc : Addr) : HostCore :=
  let lvl := h.target (if interrupt then 32 + num else num)
  let tr : HostTrap := { cause := BitVec.ofNat 64 (2 ^ 63 * b2n interrupt + num % 256), info := info,
                         epc := epc.setWidth 64, vec := (if lvl = 1 then h.strap else h.mtrap).vec }
  let h := if lvl = 1 then { h with strap := tr } else { h with mtrap := tr }
  { h with ppl := h.pl, pie := h.ie, ie := false, pl := lvl, pc := tr.vec.setWidth 57, wait := .none, wfi := false }

/-- A synchronous trap of the issuing context at its instruction: the exception entry of R237 to R239. -/
def State.raise (s : State) (cause : Nat) (info : DWord) (lane : Nat) : State :=
  match s.cur with
  | .host c => s.modHost c fun h => h.enter false cause info h.pc
  | c =>
    if isFatal cause then s.takeFatal c cause lane info
    else s.takeRecoverable c cause info (s.ctxPc c) (resumeAfter cause (s.ctxPc c)) (s.ctxMask c)

/-- Parks a context on a translation fault (R260). `hold`: the group's other splits are held with it. -/
def State.parkOn (s : State) (c : Ctx) (hold : Bool) (col id va : Nat) : State :=
  let s := s.setWait c (.parked col id va)
  match c with
  | .group t g p => s.modGroup t g fun gr =>
      { gr with splits := gr.splits.mapIdx fun i x => if i = p || !x.valid || !hold then x else { x with parkHeld := true } }
  | _ => s

/-- `TINFO` of a permission fault or misaligned access: sub-cause and address (R142). -/
def accInfo (sub va : Nat) : DWord := BitVec.ofNat 64 (2 ^ 60 * sub + va % 2 ^ 57)

/-- AGENT of a fault record made by a context (R261). -/
def agentOf : Ctx → Nat
  | .group _ _ _ => 0
  | _ => 1

/-- The entry of the split table that issues; 0 in a scalar context. -/
def ctxSplit : Ctx → Nat
  | .group _ _ p => p
  | _ => 0

/-- The context with its split left out. -/
def engCtx : Ctx → Ctx
  | .group t g _ => .group t g 0
  | c => c

/-- A context is parked on a translation fault of an agent: on its record, or, with all 256 in use, until one frees. The
other splits of a group are held with it but for a `tblld` (AGENT 4), which waits alone as an engine command does (R260). -/
def State.parkFault (s : State) (c : Ctx) (agent : Nat) (f : FaultAt) : State :=
  let col := s.ctxCol c
  match s.fileFault col (s.asid (s.ctxJob c)) (s.ctxJob c) agent (s.ctxCore c) f with
  | none => (s.modCol col fun k => { k with unfiled := k.unfiled ++ [(c, agent, f)] }).parkOn c (agent ≠ 4) col 256 f.va
  | some (i, s) => s.parkOn c (agent ≠ 4) col i f.va

/-- A translation fault of the issuing context: a record and a parked context, or cause 5 in host context. An instruction
that counts in `LDC` or `STC` counts from now on (R145). -/
def State.faultHere (s : State) (f : FaultAt) (count : Option AccKind) : State :=
  match s.cur with
  | .host c => s.modHost c fun h => h.enter false 5 (accInfo 0 f.va) h.pc
  | c => (s.modRegs c fun r => { r with parked := tabSet (ctxSplit c) count r.parked }).parkFault c (agentOf c) f

/-- Entries of port `n` that a team or group holds, as rows (R23, R25). -/
def State.portRows (s : State) (t g n : Nat) : List Row :=
  let pair := fun (x : DWord) => [x.setWidth 32, (x >>> 32).setWidth 32] ++ List.replicate 30 0
  if n < 4 then tabGet [] n (s.team t).q0123
  else if n = 5 then (s.team t).q5down.map pair
  else if n = 6 then (s.group t g).q6.map fun r => (upto 8).map (fun i => BitVec.ofNat 32 (bitsOf r.toNat (32 * i) 32)) ++ List.replicate 24 0
  else if n = 7 then (s.team t).q7down.map pair
  else []

/-- What an instruction popped from the ports between its issue at `s` and its translation fault at `t` goes into the
operand latch, behind what it had already latched (R17). -/
def State.latchPops (s t : State) : State :=
  match s.cur with
  | .group tm g _ =>
    let popped := fun n => (s.portRows tm g n).take ((s.portRows tm g n).length - (t.portRows tm g n).length)
    let latch := (upto 8).foldl (fun (l : Tab (List Row)) n =>
      if (popped n).isEmpty then l else tabSet n (tabGet [] n l ++ popped n) l) (s.group tm g).latch
    t.modGroup tm g fun gr => { gr with latch := latch }
  | _ => t

/-! ### Ways an instruction ends -/

/-- Why an instruction does not complete. -/
inductive Stop where
  /-- a trap at issue or before any effect, with its information and lane (R77, R78, R236) -/
  | trap (cause : Nat) (info : DWord) (lane : Nat)
  /-- the split waits, with what it waits on held in its entry (R29) -/
  | wait (w : Wait)
  /-- the split does not issue now: an earlier access holds it back, a reason that no WAIT code names (R145, R149) -/
  | stall
  /-- a replayable translation fault (R141), in the state after the instruction's pops, and how it counts while it is
  parked (R145) -/
  | page (f : FaultAt) (t : State) (count : Option AccKind)
  /-- the machine stops -/
  | fault (f : Fault)
  deriving DecidableEq, Repr

/-- The result of a meaning: a state, or why there is none. -/
abbrev Res := Except Stop State

/-- The instruction counts as an access of this kind while it is parked on a translation fault (R145). -/
def counting {α : Type} (k : AccKind) : Except Stop α → Except Stop α
  | .error (.page f t _) => .error (.page f t (some k))
  | r => r

/-- The outcome of an instruction issued at `s`. -/
def conclude (s : State) (r : Res) : Host.Outcome State Fault Refusal :=
  match r with
  | .ok t => .next t
  | .error (.trap cause info lane) => .next (s.raise cause info lane)
  | .error (.wait w) => .next (s.setWait s.cur w)
  | .error .stall => .next (s.setWait s.cur .order)
  | .error (.page f t count) => .next ((s.latchPops t).faultHere f count)
  | .error (.fault f) => .fault f

/-- Illegal-operand trap. -/
def illegalOperand {α : Type} (info : Nat) : Except Stop α := .error (.trap 2 (BitVec.ofNat 64 info) 0)

/-- Illegal-instruction trap at the issuing context's word, with a reason (R77). -/
def illegalInfo (w : Word) (reason : Nat) : DWord := BitVec.ofNat 64 (w.toNat + 2 ^ 32 * (reason % 16))

/-! ### Return from an exception (R239) -/

/-- Causes after which a host `eret` resumes at the next instruction. -/
def hostSkips (cause : DWord) : Bool :=
  let n := cause.toNat % 256
  !cause.getLsbD 63 && ((1 ≤ n && n ≤ 4) || n = 6 || n = 8 || n = 13 || n = 14)

/-- Host `eret`: the registers are those of the level that PL matches. -/
def HostCore.eret (h : HostCore) : HostCore :=
  let tr := if h.pl = 3 then h.mtrap else h.strap
  { h with pc := (if hostSkips tr.cause then tr.epc + 4 else tr.epc).setWidth 57, pl := h.ppl, ie := h.pie,
           wait := .none }

/-- `eret` of a group or sequencer: VALID cleared, the pc at `RESPC`, held splits released. -/
def State.eretOf (s : State) (c : Ctx) : State :=
  let resp := (s.ctxRegs c).trap.respc
  let s := s.modRegs c fun r => { r with trap := { r.trap with tcause := r.trap.tcause &&& 0x7FFFFFFF } }
  let s := s.setPc c (resp.setWidth 57)
  match c with
  | .group t g _ => s.modGroup t g fun gr => { gr with splits := gr.splits.map fun x => { x with held := false } }
  | _ => s

end Sys2Proof.Machine
end

