-- ==== Sys2Proof/Machine/Packet.lean ====
section
/-! DEFINITION. The on-die networks and the tower grid: topology, routes, virtual channels, and the choice of the next packet
at router outputs and fabric egress ports (R3, R299 to R303). Routers are named by their global columns. -/

namespace Sys2Proof.Machine

/-! ### Topology (R3, R299, R302) -/

/-- Quadrant of a router in its die. -/
def quadOf (r : Nat) : Nat := r % 16 / 4

/-- Router of quadrant `a` at which the long link between quadrants `a` and `b` of a tower's die ends. -/
def longEnd (tower a b : Nat) : Nat := 16 * tower + 4 * a + (b + 4 - a) % 4 - 1

/-- Router with the UCIe ports of a tower. -/
def uciePorts (tower : Nat) : Nat := 16 * tower + 15

/-- Router that a tower's fabric interface attaches to. -/
def fabricRouter (tower : Nat) : Nat := 16 * tower + 3

/-- Router that the home agent of an HBM stack attaches to: the tower's even stack, or its odd one. -/
def homeRouter (stack : Nat) : Nat := 16 * (stack / 2) + (if stack % 2 = 0 then 7 else 11)

/-- Tower whose interface a port is attached to: planes 0 to 31, Ethernet 32 to 35, PCIe 36 and 37 (R304). -/
def portTower (port : Nat) : Nat :=
  if port < 32 then port / 4 else if port < 36 then 2 * (port - 32) + 1 else if port = 36 then 0 else 7

/-- The end exists. -/
def Block.present : Block → Bool
  | .column c => c < 128
  | .interface t => t < 8
  | .homeAgent k => k < 16
  | .port n => n < 38

/-- Router at which an end stands. -/
def Block.router : Block → Nat
  | .column c => c
  | .interface t => fabricRouter t
  | .homeAgent k => homeRouter k
  | .port n => fabricRouter (portTower n)

/-- The egress port behind that router, if the end is one. -/
def Block.exit : Block → Option Nat
  | .port n => some n
  | _ => none

/-- The virtual channel that carries it (R299). -/
def Carried.chan : Carried → Chan
  | .slackWave => .mgmt
  | .linkControl => .mgmt
  | .eventRecord => .mgmt
  | .read => .req
  | .write => .req
  | .atomic => .req
  | .probe => .req
  | .walkerRead => .req
  | .data => .rsp
  | .acknowledgement => .rsp
  | .writeBack => .wb
  | .message => .msg
  | .messageAck => .msg

/-- Event and link-control flits are held to a tower's management budget (R342). -/
def Carried.managed : Carried → Bool
  | .linkControl => true
  | .eventRecord => true
  | _ => false

/-- The next tower on the way, row first, then along the target row: towers stand at row t / 4, position t mod 4. -/
def nextTower (t u : Nat) : Nat :=
  if t / 4 ≠ u / 4 then (if t < 4 then t + 4 else t - 4) else if t < u then t + 1 else t - 1

/-- The link from one router to another exists: within a quadrant, a long link, or a UCIe link between neighbours. -/
def linked (a b : Nat) : Bool :=
  a ≠ b && a < 128 && b < 128 &&
    (a / 4 = b / 4
      || (a / 16 = b / 16 && a = longEnd (a / 16) (quadOf a) (quadOf b) && b = longEnd (b / 16) (quadOf b) (quadOf a))
      || (a = uciePorts (a / 16) && b = uciePorts (b / 16)
          && (a / 16 + 4 = b / 16 || b / 16 + 4 = a / 16 || (a / 64 = b / 64 && (a / 16 + 1 = b / 16 || b / 16 + 1 = a / 16)))))

/-! ### Routes (R300) -/

/-- The next router toward a quadrant of the same die: over the long link, reached within the quadrant if need be. -/
def towardQuad (r q : Nat) : Nat :=
  let e := longEnd (r / 16) (quadOf r) q
  if r = e then longEnd (r / 16) q (quadOf r) else e

/-- The next router of a minimal route on a die. -/
def minimalHop (r d : Nat) : Nat := if quadOf r = quadOf d then d else towardQuad r (quadOf d)

/-- Router of this die that a packet goes to: its destination, or the UCIe ports. -/
def localGoal (r dst : Nat) : Nat := if r / 16 = dst / 16 then dst else uciePorts (r / 16)

/-- The next router of a packet at router `r`, other than its destination. -/
def Packet.hop (p : Packet) (r : Nat) : Nat :=
  let d := localGoal r p.dst
  if r = d then uciePorts (nextTower (r / 16) (p.dst / 16))
  else match p.via with
    | none => minimalHop r d
    | some q => towardQuad r q

/-- An output of a router: toward another router. -/
def outputTo (r next : Nat) : Nat := 128 * r + next

/-- Output of a router toward a fabric egress port: planes 0 to 31, Ethernet 32 to 35, PCIe 36 and 37. -/
def egressOf (port : Nat) : Nat := 2 ^ 14 + port

/-! ### Outputs (R299, R303) -/

/-- An output with no packet and no credit. -/
def EgressPort.empty : EgressPort := { packets := [], lastServed := [], credits := [] }

/-- Number of a channel. -/
def Chan.code : Chan → Nat
  | .mgmt => 0
  | .req => 1
  | .rsp => 2
  | .wb => 3
  | .msg => 4

/-- The buffer of a channel and a class of routes: no two packets of different ones share buffers or credits. -/
def bufferOf (c : Chan) (nonmin : Bool) : Nat := 2 * c.code + b2n nonmin

/-- The buffer that a packet takes behind an output. -/
def Packet.buffer (p : Packet) : Nat := bufferOf p.chan p.nonmin

/-- An output's content. -/
def State.output (s : State) (o : Nat) : EgressPort := tabGet EgressPort.empty o s.egress

/-- Credits free toward a next router, in a buffer. -/
def State.creditsTo (s : State) (r next buffer : Nat) : Nat := tabGet 0 buffer (s.output (outputTo r next)).credits

/-- An output's content changed. -/
def State.modEgress (s : State) (o : Nat) (f : EgressPort → EgressPort) : State :=
  { s with egress := tabMod EgressPort.empty o f s.egress }

/-- Intermediate quadrants of non-minimal routes on a die. -/
def viaQuads (r d : Nat) : List Nat := (upto 4).filter fun q => q ≠ quadOf r && q ≠ quadOf d

/-- The source router of a die chooses the packet's route there, on the credits free toward each candidate (log 102). A packet
within one quadrant goes directly. -/
def State.routed (s : State) (r : Nat) (p : Packet) : Packet :=
  let d := localGoal r p.dst
  if r = d || quadOf r = quadOf d then { p with via := none, nonmin := false }
  else
    let qs := viaQuads r d
    let free := qs.map fun q => s.creditsTo r (towardQuad r q) (bufferOf p.chan true)
    match Sys2Proof.Config.chooseRoute (s.creditsTo r (minimalHop r d) (bufferOf p.chan false)) free % (qs.length + 1) with
    | 0 => { p with via := none, nonmin := false }
    | i + 1 => { p with via := qs[i]?, nonmin := true }

/-- A packet at a router waits at its next output, or has arrived; at an egress port toward UALink or Ethernet its age starts
at 0. `entered`: this is its first router on the die. -/
def State.atRouter (s : State) (r : Nat) (entered : Bool) (p : Packet) : State :=
  let p := { p with arrived := s.now, headAt := s.now, via := p.via.filter (· ≠ quadOf r) }
  if r = p.dst then match p.exit with
    | none => s
    | some e => s.modEgress (egressOf e) fun x => { x with packets := x.packets ++ [if e < 36 then { p with age := 0 } else p] }
  else
    let p := if entered then s.routed r p else p
    s.modEgress (outputTo r (p.hop r)) fun x => { x with packets := x.packets ++ [p] }

/-- Class of a packet: the PRI of the grid of the context that caused it, 7 for a host core (R303). -/
def State.packetClass (s : State) (c : Ctx) : Nat :=
  match c with
  | .host _ => 7
  | c => s.ctxPri c

/-- A packet enters the network where it starts; one for a port goes to the interface that owns the port (R304). -/
def State.enterNetwork (s : State) (src dst : Block) (what : Carried) (cause : Ctx) : State :=
  let p : Packet :=
    { id := s.fresh, chan := what.chan, cls := BitVec.ofNat 3 (s.packetClass cause), dst := dst.router, exit := dst.exit,
      via := none, nonmin := false, input := 2 ^ 15 + src.router, age := 0, arrived := s.now, headAt := s.now }
  { s with fresh := s.fresh + 1 }.atRouter src.router true p

/-- A packet is to enter: an event or link-control flit within the budget of its tower, or in a later period (R342). -/
def State.injectPacket (s : State) (src dst : Block) (what : Carried) (cause : Ctx) : State :=
  let col := firstCol (src.router / 16)
  if !src.present || !dst.present then s
  else if !what.managed then s.enterNetwork src dst what cause
  else if s.budgetLeft col 4 then (s.useBudget col 4 1).enterNetwork src dst what cause
  else { s with mgmtWait := s.mgmtWait ++ [(src, dst, what, cause)] }

/-- Flits of a tower that waited enter in a new period, oldest first. -/
def State.drainMgmt (s : State) (tower : Nat) : State :=
  let mine := fun (e : Block × Block × Carried × Ctx) => decide (e.1.router / 16 = tower)
  (s.mgmtWait.filter mine).foldl (fun s e => s.injectPacket e.1 e.2.1 e.2.2.1 e.2.2.2)
    { s with mgmtWait := s.mgmtWait.filter fun e => !mine e }

/-- The buffer behind an output has room for one packet more. -/
def State.addCredit (s : State) (o : Nat) (c : Chan) (nonmin : Bool) : State :=
  s.modEgress o fun e => { e with credits := tabMod 0 (bufferOf c nonmin) (· + 1) e.credits }

/-! ### The choice of the next packet (R303) -/

/-- The packets at the heads of the inputs: each input has a buffer for each channel and class of routes. -/
def headPackets : List Packet → List (Nat × Nat) → List Packet
  | [], _ => []
  | p :: t, seen => if seen.contains (p.input, p.buffer) then headPackets t seen else p :: headPackets t ((p.input, p.buffer) :: seen)

/-- Age of a packet at the head of its input: 1 for each 32 cycles of 2.0 GHz, up to 255. -/
def Packet.ageAt (p : Packet) (now : Nat) : Nat := min 255 (p.age.toNat + (now - p.headAt) / 16)

/-- Distance of an input behind the one served last. -/
def turnOf (last : Option Nat) (input : Nat) : Nat :=
  match last with
  | none => input
  | some l => if l < input then input - l else input + 2 ^ 64 - l

/-- The packet that an output sends next, among those with credit: a MGMT packet, else the urgent one that arrived first, else
one of the highest class in round robin among the inputs. DESIGN CHOICE (log 112): of several MGMT packets, the one that arrived
first. -/
def EgressPort.pick (e : EgressPort) (now : Nat) : Option Packet :=
  let ok := (headPackets e.packets []).filter fun p => 0 < tabGet 0 p.buffer e.credits
  match argMin (·.arrived) (ok.filter fun p => p.chan = .mgmt) with
  | some p => some p
  | none => match argMin (·.arrived) (ok.filter fun p => p.ageAt now = 255) with
    | some p => some p
    | none =>
      let top := ok.foldl (fun m p => max m p.cls.toNat) 0
      argMin (fun p => turnOf (tabFind top e.lastServed) p.input) (ok.filter fun p => p.cls.toNat = top)

/-- The next packet of an input's buffer has come to its head. -/
def newHead (was : Packet) (now : Nat) : List Packet → List Packet
  | [] => []
  | p :: t =>
    if p.input = was.input && p.buffer = was.buffer then { p with headAt := now } :: t else p :: newHead was now t

/-- R303: an output sends its next packet, which takes a credit and goes on at the next router with its age, or leaves the
package. -/
def execPacketForward (port : Nat) (s : State) : Host.Outcome State Fault Refusal :=
  .next (
    let e := s.output port
    match e.pick s.now with
    | none => s
    | some p =>
      let rest := newHead p s.now (e.packets.filter fun q => q.id ≠ p.id)
      let t := s.modEgress port fun _ =>
        { packets := rest, lastServed := tabSet p.cls.toNat p.input e.lastServed, credits := tabMod 0 p.buffer (· - 1) e.credits }
      if 2 ^ 14 ≤ port then t
      else t.atRouter (port % 128) (decide (port / 128 / 16 ≠ port % 128 / 16)) { p with age := BitVec.ofNat 8 (p.ageAt s.now), input := port })

/-- R303: a packet whose age reaches 255 is urgent from then on. -/
def execPacketUrgent (port n : Nat) (s : State) : Host.Outcome State Fault Refusal :=
  .next (
    if (headPackets (s.output port).packets []).any fun p => p.id = n && p.ageAt s.now = 255 then
      s.modEgress port fun e => { e with packets := e.packets.map fun p => if p.id = n then { p with age := 255 } else p }
    else s)

end Sys2Proof.Machine
end

