-- ==== Sys2Proof/Machine/Operands.lean ====
section
/-! DEFINITION. Register operands: their classes and checks, the waits before issue, reading and writing them,
and the queue ports (R15 to R28, R78, R85, R86, R346). -/

namespace Sys2Proof.Machine

/-! ### Register numbers (R15, R16) -/

/-- What a register number names in a context. -/
inductive RegClass where
  | v (n : Nat)
  | s (n : Nat)
  | k (n : Nat)
  | q (n : Nat)
  | z
  | lid
  | tlid
  /-- a number that traps -/
  | bad
  deriving DecidableEq, Repr

/-- The class of a register number (R15). -/
def regClass (kind : Kind) (r : RegNum) : RegClass :=
  let n := r.toNat
  if n < 96 then match kind with
    | .group => .v n
    | .seq => if n < 32 then .s n else .bad
    | .host => .s n
  else if n < 112 then .k (n - 96)
  else if n < 120 then
    let p := n - 112
    match kind with
    | .group => .q p
    | .seq => if p = 5 || p = 6 then .q p else .bad
    | .host => if p = 6 || p = 7 then .q p else .bad
  else if n = 120 then .z
  else if n = 121 then (if kind = .group then .lid else .bad)
  else if n = 122 then (if kind = .group then .tlid else .bad)
  else .bad

/-- Whether an operand is read, written, or both. -/
inductive Role where
  | src
  | dst
  | both
  deriving DecidableEq, Repr

/-- The classes a field of the opcode table admits (R74). -/
inductive OpSet where
  /-- any register number that R15 and R16 allow -/
  | any
  /-- any but a queue port (R140) -/
  | data
  /-- `u`: `k` in a group, `s` or `k` in a scalar context -/
  | u
  /-- u or `z` -/
  | uz
  /-- a `k` register -/
  | k
  /-- a `v` register -/
  | v
  /-- a `v` or a u register -/
  | vu
  /-- a destination of 32 bits in each lane that is no `k` register (R118) -/
  | laneDst
  /-- a `v` or a `k` register -/
  | vk
  /-- a `v`, `s`, `k` register or `z`, but no `k` in a group (R155) -/
  | atomDst
  deriving DecidableEq, Repr

/-- A class is in a set. DESIGN CHOICE (log 117): `z` may be the destination of an atomic in group context, as it may be that of a
load (R140, R155). -/
def OpSet.has (o : OpSet) (kind : Kind) (c : RegClass) : Bool :=
  match o, c with
  | _, .bad => false
  | .any, _ => true
  | .data, .q _ => false
  | .data, _ => true
  | .u, .k _ => true
  | .u, .s _ => true
  | .uz, .k _ => true
  | .uz, .s _ => true
  | .uz, .z => true
  | .k, .k _ => true
  | .v, .v _ => true
  | .vu, .v _ => true
  | .vu, .k _ => true
  | .vu, .s _ => true
  | .laneDst, .v _ => true
  | .laneDst, .q _ => true
  | .laneDst, .z => true
  | .vk, .v _ => true
  | .vk, .k _ => true
  | .atomDst, .v _ => true
  | .atomDst, .z => true
  | .atomDst, .s _ => true
  | .atomDst, .k _ => kind != .group
  | _, _ => false

/-- A register operand: its number, role, width in 32-bit words, and the classes its field admits. A width of
1 is a single register; 2 a 64-bit and 4 a 128-bit operand (R21). -/
structure Opd where
  reg : RegNum
  role : Role
  words : Nat
  set : OpSet
  deriving DecidableEq, Repr

/-- The class of an operand in the issuing context. -/
def State.cls (s : State) (o : Opd) : RegClass := regClass s.kind o.reg

/-! ### Checks (R16, R21, R78) -/

/-- Step 2 of R78: the class of the field, and no read-only register as a destination. -/
def State.checkClass (s : State) (o : Opd) : Except Stop Unit :=
  let c := s.cls o
  let ro := match c with
    | .lid => true
    | .tlid => true
    | .q n => n = 4 || n = 6
    | _ => false
  if !o.set.has s.kind c || (o.role != .src && ro) then illegalOperand 0 else .ok ()

/-- Checks 1 and 2 of R21: alignment, and no wide operand among ports and lane indices but `q5` and `q7`;
in a scalar context a port is read 64 bits at a time (R25, log 27). A tile's block scales follow its 16 registers (R197). -/
def State.checkWide (s : State) (o : Opd) : Except Stop Unit :=
  if o.words ≤ 1 then .ok ()
  else match s.cls o with
    | .v n => if n % (if o.words = 20 then 16 else o.words) ≠ 0 then illegalOperand 0 else .ok ()
    | .s n => if o.words = 4 && n % 2 ≠ 0 then illegalOperand 0 else .ok ()
    | .k n => if o.words = 4 && n % 2 ≠ 0 then illegalOperand 0 else .ok ()
    | .q n => if o.words = 2 && (n = 5 || n = 7 || s.kind != .group) then .ok () else illegalOperand 0
    | .lid => illegalOperand 0
    | .tlid => illegalOperand 0
    | _ => .ok ()

/-- Checks 3 and 4 of R21 and the check of R19: `TINFO` is the physical register the reference would name. -/
def State.checkRange (s : State) (o : Opd) : Except Stop Unit :=
  match s.cls o with
  | .v n =>
    if s.regsA ≤ s.wb + n then .error (.trap 3 (BitVec.ofNat 64 ((s.wb + n) % 1024)) 0)
    else if s.regsA < s.wb + n + o.words then illegalOperand 0 else .ok ()
  | _ => .ok ()

/-- The checks of R78, steps 2 and 3, over the operands of an instruction in field order. -/
def State.checkOpds (s : State) (os : List Opd) : Except Stop Unit := do
  firstErr s.checkClass os
  firstErr s.checkWide os
  firstErr s.checkRange (os.filter fun o => 1 < o.words)
  firstErr s.checkRange (os.filter fun o => o.words ≤ 1)

/-! ### Waits before issue (R17, R24, R27, R28, R145) -/

/-- An outstanding access will write a register of the operand. -/
def Dest.overlaps (d : Dest) (c : RegClass) (wb words : Nat) : Bool :=
  match d, c with
  | .v r n, .v m => r < wb + m + words && wb + m < r + n
  | .k r n, .k m => r < m + (words + 1) / 2 && m < r + n
  | .s r n, .s m => r < m + (words + 1) / 2 && m < r + n
  | _, _ => false

/-- Registers of an operand that have a full/empty state: whether `k`, and physical numbers. -/
def State.stateful (s : State) (o : Opd) : List (Bool × Nat) :=
  match s.cls o with
  | .v n => (span (s.wb + n) o.words).map fun r => (false, r)
  | .k n => (span n ((o.words + 1) / 2)).map fun r => (true, r)
  | _ => []

/-- The state of a register (R27). -/
def State.regState (s : State) (isK : Bool) (n : Nat) : RegState :=
  tabGet .plain n (if isK then (s.ctxK s.cur).states else s.myGroup.states)

/-- Entries that a read of port `n` finds, in reads; room that a write finds (R23 to R26). -/
def State.portCount (s : State) (n : Nat) : Nat :=
  match s.cur with
  | .group t g _ =>
    let tm := s.team t
    if n < 4 then (tabGet [] n tm.q0123).length
    else if n = 4 then tm.q4.length + (if (s.group t g).held.isSome then 2 else 0)
    else if n = 5 then tm.q5down.length
    else if n = 6 then (s.group t g).q6.length
    else tm.q7down.length
  | .seq t => if n = 5 then (s.team t).q5up.length else 4 * (s.seqr t).q6.length - (s.seqr t).q6pos
  | .host c => if n = 6 then 4 * (s.host c).q6.length - (s.host c).q6pos else (s.host c).q7order.length

/-- The team that host pushes to `q7` reach: core [18:16] of the column and handle [15:0] of `HMBSEL`. -/
def State.mboxTeam (s : State) (c : Nat) : Option Nat :=
  let x := (s.host c).hmbsel.toNat
  s.findTeam (8 * c + bitsOf x 16 3) (bitsOf x 0 16)

/-- Room in port `n` for pushes, before the instruction's own pops. -/
def State.portRoom (s : State) (n : Nat) : Nat :=
  match s.cur with
  | .group t _ _ =>
    let tm := s.team t
    if n < 4 then 16 - (tabGet [] n tm.q0123).length
    else if n = 5 then 16 - tm.q5up.length
    else 16 - tm.q7up.length
  | .seq t => 16 - (s.team t).q5down.length
  | .host c => match s.mboxTeam c with
      | none => 1
      | some t =>
        let tm := s.team t
        if tm.state = .resident || tm.state = .saved then 16 - (s.view t).q7down.length else 0

/-- Reads, or writes, of port `n` by the operands. -/
def State.portUses (s : State) (n : Nat) (write : Bool) (os : List Opd) : Nat :=
  (os.filter fun o => s.cls o = .q n && (if write then o.role != .src else o.role != .dst)).length

/-- Entries of port `n` in the issuing group's operand latch: an instruction that executes again uses them and pops
nothing more (R17). -/
def State.latched (s : State) (n : Nat) : List Row := tabGet [] n s.myGroup.latch

/-- Ports first: every pop must find its entry and every push its room after the pops (R17, R24). A second read
of `q4` in one instruction finds the held message again (R23). -/
def State.waitPorts (s : State) (os : List Opd) : Except Stop Unit :=
  firstErr (fun n =>
    let pops := s.portUses n false os
    let pops := (if n = 4 then min pops 1 else pops) - (s.latched n).length
    let pushes := s.portUses n true os
    if s.portCount n < pops then .error (.wait (.queue n false))
    else if s.portRoom n + (if n < 4 then pops else 0) < pushes then .error (.wait (.queue n true))
    else .ok ()) (upto 8)

/-- Registers still to be written by an outstanding load or atomic (R145), then armed-empty sources (R27). -/
def State.waitOpd (s : State) (o : Opd) : Except Stop Unit :=
  if (s.ctxRegs s.cur).outs.any fun a => a.dst.overlaps (s.cls o) s.wb o.words then .error .stall
  else if o.role = .dst then .ok ()
  else firstErr (fun r => match s.regState r.1 r.2 with
    | .armedEmpty _ => .error (.wait (.reg r.1 r.2))
    | _ => .ok ()) (s.stateful o)

/-- The lowest poisoned entry that the instruction reads with its lane active (R346): cause 7. -/
def State.checkPoison (s : State) (os : List Opd) : Except Stop Unit :=
  let bad := s.myGroup.badRegs
  if bad.isEmpty then .ok ()
  else
    let rows := os.flatMap fun o => if o.role = .dst then [] else
      (s.stateful o).filterMap fun r => if r.1 then none else some r.2
    let hit := bad.filter fun b => rows.contains (b / 32) && (s.ctxMask s.cur).getLsbD (b % 32)
    match minNat hit with
    | none => .ok ()
    | some b => .error (.trap 7 (BitVec.ofNat 64 (b / 32)) (b % 32))

/-- The order of R78: every check, and only then the waits. -/
def State.ready (s : State) (os : List Opd) : Except Stop Unit := do
  s.checkOpds os
  firstErr s.waitOpd os
  s.waitPorts os
  s.checkPoison os

/-! ### Reading -/

/-- One value for each lane, up to 128 bits; a scalar context uses lane 0. -/
abbrev Lanes := Nat → BitVec 128

/-- A message as a read of `q4` delivers it: payload in lanes 0–15, header, sender node and core (R23). -/
def msgRow (m : QMsg) : Row :=
  ((upto 16).map fun i => m.payload.getD i 0) ++ [m.header, m.snode, m.score] ++ List.replicate 13 0

/-- A row as lane values. -/
def rowLanes (r : Row) : Lanes := fun l => (laneOf r l).setWidth 128

/-- The next 64-bit word of a queue of records, and the queue after it (R26). -/
def readRecord (q : List (BitVec 256)) (pos : Nat) : BitVec 128 × List (BitVec 256) × Nat :=
  match q with
  | [] => (0, [], 0)
  | r :: t =>
    let w := BitVec.ofNat 128 (bitsOf r.toNat (64 * pos) 64)
    if pos = 3 then (w, t, 0) else (w, r :: t, pos + 1)

/-- A host pop of `q7`: the oldest entry among the column's teams (R25). -/
def State.popMailbox (s : State) (c : Nat) : BitVec 128 × State :=
  match (s.host c).q7order with
  | [] => (0, s)
  | t :: rest =>
    let x := ((s.view t).q7up.headD 0).setWidth 128
    (x, (s.modHost c fun h => { h with q7order := rest }).modView t true fun tm => { tm with q7up := tm.q7up.drop 1 })

/-- What a latched entry of port `n` delivers: a row or record in its lanes, or a mailbox entry to every lane. -/
def latchLanes (n : Nat) (r : Row) : Lanes :=
  if n = 5 || n = 7 then fun _ => BitVec.ofNat 128 ((laneOf r 0).toNat + 2 ^ 32 * (laneOf r 1).toNat) else rowLanes r

/-- A pop of port `n` (R23, R25), from the operand latch where it holds an entry (R17). -/
def State.popPort (s : State) (n : Nat) : Lanes × State :=
  match s.cur with
  | .group t g _ =>
    let tm := s.team t
    match s.latched n with
    | r :: rest => (latchLanes n r, s.modGroup t g fun gr =>
        { gr with latch := if rest.isEmpty then tabDel n gr.latch else tabSet n rest gr.latch })
    | [] =>
    if n < 4 then
      let q := tabGet [] n tm.q0123
      (rowLanes (q.headD (rowOf 0)), s.modTeam t fun tm => { tm with q0123 := tabSet n (q.drop 1) tm.q0123 })
    else if n = 4 then
      match (s.group t g).held, tm.q4 with
      | some m, _ => (rowLanes (msgRow m), s)
      | none, [] => (fun _ => 0, s)
      | none, m :: q =>
        (rowLanes (msgRow m),
          (s.modTeam t fun tm => { tm with q4 := q }).modGroup t g fun gr => { gr with held := some m })
    else if n = 5 then
      (fun _ => (tm.q5down.headD 0).setWidth 128, s.modTeam t fun tm => { tm with q5down := tm.q5down.drop 1 })
    else if n = 6 then
      let r := (s.group t g).q6.headD 0
      (fun l => if l < 8 then BitVec.ofNat 128 (bitsOf r.toNat (32 * l) 32) else 0,
        s.modGroup t g fun gr => { gr with q6 := gr.q6.drop 1 })
    else
      (fun _ => (tm.q7down.headD 0).setWidth 128, s.modTeam t fun tm => { tm with q7down := tm.q7down.drop 1 })
  | .seq t =>
    if n = 5 then
      (fun _ => ((s.team t).q5up.headD 0).setWidth 128, s.modTeam t fun tm => { tm with q5up := tm.q5up.drop 1 })
    else
      let (w, q, p) := readRecord (s.seqr t).q6 (s.seqr t).q6pos
      (fun _ => w, s.modSeq t fun x => { x with q6 := q, q6pos := p })
  | .host c =>
    if n = 6 then
      let (w, q, p) := readRecord (s.host c).q6 (s.host c).q6pos
      (fun _ => w, s.modHost c fun h => { h with q6 := q, q6pos := p })
    else
      let (w, s) := s.popMailbox c
      (fun _ => w, s)

/-- The first read after armed-full of a register armed with acquire is that acquire (R27, R173). -/
def acquired : RegState → RegState
  | .armedFull true => .armedFull false
  | x => x

/-- The state after the registers of an operand were read. -/
def State.markRead (s : State) (o : Opd) : State :=
  (s.stateful o).foldl (fun s r =>
    match s.regState r.1 r.2 with
    | .armedFull true =>
      if r.1 then s.modK s.cur fun k => { k with states := tabSet r.2 (.armedFull false) k.states }
      else s.modMyGroup fun g => { g with states := tabSet r.2 (.armedFull false) g.states }
    | _ => s) s

/-- Tile size of a partition code (R36). -/
def tileSize (part : BitVec 3) : Nat := 2 ^ part.toNat

/-- The value of an operand in each lane, with its width (R16, R21, R85), and the state after its pop. -/
def State.readOpd (s : State) (o : Opd) : Lanes × State :=
  match s.cls o with
  | .v n =>
    let rows := (span (s.wb + n) o.words).map s.myGroup.row
    (fun l => BitVec.ofNat 128 (sumNat (rows.mapIdx fun i r => (laneOf r l).toNat * 2 ^ (32 * i))), s.markRead o)
  | .k n =>
    let x := if o.words = 4 then (s.getK s.cur n).toNat + 2 ^ 64 * (s.getK s.cur (n + 1)).toNat
             else (s.getK s.cur n).toNat
    (fun _ => BitVec.ofNat 128 x, s.markRead o)
  | .s n =>
    let x := if o.words = 4 then (s.getS s.cur n).toNat + 2 ^ 64 * (s.getS s.cur (n + 1)).toNat
             else (s.getS s.cur n).toNat
    (fun _ => BitVec.ofNat 128 x, s)
  | .q n => s.popPort n
  | .z => (fun _ => 0, s)
  | .lid => (fun l => BitVec.ofNat 128 l, s)
  | .tlid => (fun l => BitVec.ofNat 128 (l % tileSize s.myGroup.part), s)
  | .bad => (fun _ => 0, s)

/-- The operands that are read, in order, with all pops together (R17). -/
def State.readAll (s : State) : List Opd → List Lanes × State
  | [] => ([], s)
  | o :: t =>
    if o.role = .dst then s.readAll t
    else
      let (x, s) := s.readOpd o
      let (xs, s) := s.readAll t
      (x :: xs, s)

/-- Checks, waits and reads of an instruction's operands. -/
def State.operands (s : State) (os : List Opd) : Except Stop (List Lanes × State) := do
  s.ready os
  .ok (s.readAll os)

/-- Value number `i` of those read; 0 when there is none. -/
def nthLanes (xs : List Lanes) (i : Nat) : Lanes := xs.getD i (fun _ => 0)

/-! ### Writing -/

/-- A push to port `n` (R23, R25): `q0`–`q3` carry every active lane and 0 elsewhere; the mailboxes the value
of the lowest active lane. -/
def State.pushPort (s : State) (n words : Nat) (f : Lanes) : State :=
  let m := s.ctxMask s.cur
  let x : DWord := BitVec.ofNat 64 ((f s.low).toNat % 2 ^ (32 * words))
  match s.cur with
  | .group t _ _ =>
    if n < 4 then
      let row := (upto 32).map fun l => if m.getLsbD l then (f l).setWidth 32 else 0
      s.modTeam t fun tm => { tm with q0123 := tabSet n (tabGet [] n tm.q0123 ++ [row]) tm.q0123 }
    else if n = 5 then s.modTeam t fun tm => { tm with q5up := tm.q5up ++ [x] }
    else
      let c := colOfCore (homeOf t)
      (s.modTeam t fun tm => { tm with q7up := tm.q7up ++ [x] }).modHost c fun h => { h with q7order := h.q7order ++ [t] }
  | .seq t => s.modTeam t fun tm => { tm with q5down := tm.q5down ++ [x] }
  | .host c => match s.mboxTeam c with
      | none => s
      | some t => (s.modView t true fun tm => { tm with q7down := tm.q7down ++ [x] }).evalWake (s.team t).cluster

/-- A result written to an operand in the active lanes (R16, R27, R85, R86): a `k` or `s` register takes the
lowest active lane's value, and `z` discards it. -/
def State.writeOpd (s : State) (o : Opd) (f : Lanes) : State :=
  let lo := (f s.low).toNat
  match s.cls o with
  | .v n => (upto o.words).foldl (fun s i =>
      let m := s.ctxMask s.cur
      s.modMyGroup fun g => g.writeRow (s.wb + n + i) m fun l => BitVec.ofNat 32 (bitsOf (f l).toNat (32 * i) 32)) s
  | .k n =>
    let s' := s.setK s.cur n (BitVec.ofNat 64 (lo % 2 ^ (32 * o.words)))
    if o.words = 4 then s'.setK s.cur (n + 1) (BitVec.ofNat 64 (lo / 2 ^ 64)) else s'
  | .s n =>
    let s' := s.setS s.cur n (BitVec.ofNat 64 (lo % 2 ^ (32 * o.words)))
    if o.words = 4 then s'.setS s.cur (n + 1) (BitVec.ofNat 64 (lo / 2 ^ 64)) else s'
  | .q n => s.pushPort n o.words f
  | _ => s

/-- Where an outstanding load will write (R145). -/
def State.destOf (s : State) (o : Opd) : Dest :=
  match s.cls o with
  | .v n => .v (s.wb + n) o.words
  | .k n => .k n ((o.words + 1) / 2)
  | .s n => .s n ((o.words + 1) / 2)
  | _ => .none

/-! ### Operands by name -/

/-- A source of any class. -/
def srcAny (r : RegNum) (words : Nat) : Opd := { reg := r, role := .src, words := words, set := .any }

/-- A destination of any class. -/
def dstAny (r : RegNum) (words : Nat) : Opd := { reg := r, role := .dst, words := words, set := .any }

/-- A destination of any class that is read as well. -/
def bothAny (r : RegNum) (words : Nat) : Opd := { reg := r, role := .both, words := words, set := .any }

/-- A u source, 64 bits. -/
def srcU (r : RegNum) : Opd := { reg := r, role := .src, words := 2, set := .u }

/-- A u destination, 64 bits. -/
def dstU (r : RegNum) : Opd := { reg := r, role := .dst, words := 2, set := .u }

/-- An even `k` pair read as 128 bits. -/
def srcKp (r : RegNum) : Opd := { reg := r, role := .src, words := 4, set := .k }

/-- An even `k` pair written as 128 bits. -/
def dstKp (r : RegNum) : Opd := { reg := r, role := .dst, words := 4, set := .k }

/-! ### Operand width (R72, R85) -/

/-- A register that leaves a group's ALT form 64 bits wide: `k`, `q5`, `q7` or `z`. -/
def narrowFree (r : RegNum) : Bool :=
  match regClass .group r with
  | .k _ => true
  | .z => true
  | .q n => n = 5 || n = 7
  | _ => false

/-- W of an ALT form with `fn[3] = alt` over the register operands `rs`. -/
def State.width (s : State) (alt : Bool) (rs : List RegNum) : Nat :=
  match s.kind with
  | .group => if alt || rs.all narrowFree then 64 else 32
  | _ => if alt then 32 else 64

/-! ### Forms not provided here (R14, R77) -/

/-- Illegal-instruction trap of a form that the context (reason 3) or its level (reason 4) does not provide. -/
def notProvided {α : Type} (i : Instr) (reason : Nat) : Except Stop α :=
  .error (.trap 1 (illegalInfo ((encode i).getD 0) reason) 0)

/-- Reason 3 unless the issuing context is of one of the kinds. -/
def State.needKind (s : State) (i : Instr) (ks : List Kind) : Except Stop Unit :=
  if ks.contains s.kind then .ok () else notProvided i 3

/-- Reason 3 outside host context, reason 4 below level `n` (R14). -/
def State.needHost (s : State) (i : Instr) (n : Nat) : Except Stop Unit :=
  if s.kind ≠ .host then notProvided i 3
  else if s.ctxLevel s.cur < n then notProvided i 4 else .ok ()

end Sys2Proof.Machine
end

