-- ==== Sys2Proof/Machine/Flags.lean ====
section
/-! DEFINITION. The sticky status register `STAT` (R38) and every flag computation: integer division (R87),
floating point (R57), and the overwrite count (R27). -/

namespace Sys2Proof.Machine

/-- `STAT.NX`, inexact. -/
def flagNX : Word := 1
/-- `STAT.UF`, tiny and inexact. -/
def flagUF : Word := 2
/-- `STAT.OF`, overflow. -/
def flagOF : Word := 4
/-- `STAT.DZ`, division by zero. -/
def flagDZ : Word := 8
/-- `STAT.NV`, invalid operation. -/
def flagNV : Word := 16
/-- `STAT.ECCC`, a correctable register-file error was corrected. -/
def flagECCC : Word := 0x2000
/-- `STAT.EVLOST`, an event record was dropped from `q6`. -/
def flagEVLOST : Word := 0x4000
/-- `STAT.ACUNALLOC`, an unallocated accumulator bank was read. -/
def flagACUNALLOC : Word := 0x8000

/-- The W1C fields of one bit. -/
def statW1C : Word := 0xE01F

/-- Flags that accumulate in `STAT` (R38). -/
def Regs.raise (r : Regs) (f : Word) : Regs := { r with stat := r.stat ||| f }

/-- Flags of an instruction added to the issuing context's `STAT`; a host core has none (R38, log 28). -/
def State.raiseFlags (s : State) (f : Word) : State := if f = 0 then s else s.modRegs s.cur fun r => r.raise f

/-- A write of `STAT`: 1 clears a bit, and 1 in bit 24 clears OVWC (R10, R38). -/
def statWrite (old x : Word) : Word :=
  let cleared := old &&& ~~~(x &&& statW1C)
  if x.getLsbD 24 then cleared &&& 0x00FFFFFF else cleared

/-- One more overwrite received; OVWC saturates at 255 (R38). -/
def statOverwrite (old : Word) : Word := if old >>> 24 = 255 then old else old + 0x01000000

/-- Whether a result goes to the lanes of a split or is one value: a `k` or `s` destination (R86). -/
def State.oneResult (s : State) (d : RegNum) : Bool :=
  match regClass s.kind d with
  | .k _ => true
  | .s _ => true
  | _ => false

/-- The lanes whose computation an instruction with destination `d` makes (R86, R121). -/
def State.computing (s : State) (d : RegNum) : List Nat := if s.oneResult d then [s.low] else s.lanes

/-- Flags over lanes, put together. -/
def orFlags (ls : List Nat) (f : Nat → Word) : Word := ls.foldl (fun m l => m ||| f l) 0

end Sys2Proof.Machine
end

