-- ==== Sys2Proof/Machine/Float.lean ====
section
/-! DEFINITION. Floating-point formats, rounding, flags and conversions on exact values (R43 to R59), the
arithmetic of R123 to R132 as functions of bit patterns, and scaled E2M1 (R47 to R49). -/

namespace Sys2Proof.Machine

/-! ### Formats and exact values (R44 to R46) -/

/-- A floating-point format: exponent and mantissa width, bias, largest finite code, canonical NaN code, and
whether it has infinities. -/
structure Fmt where
  eb : Nat
  mb : Nat
  bias : Nat
  maxCode : Nat
  nan : Nat
  hasInf : Bool
  deriving DecidableEq, Repr

/-- FP32. -/
def fp32 : Fmt := { eb := 8, mb := 23, bias := 127, maxCode := 0x7F7FFFFF, nan := 0x7FC00000, hasInf := true }
/-- BF16. -/
def bf16 : Fmt := { eb := 8, mb := 7, bias := 127, maxCode := 0x7F7F, nan := 0x7FC0, hasInf := true }
/-- FP16. -/
def fp16 : Fmt := { eb := 5, mb := 10, bias := 15, maxCode := 0x7BFF, nan := 0x7E00, hasInf := true }
/-- FP8 E5M2. -/
def e5m2 : Fmt := { eb := 5, mb := 2, bias := 15, maxCode := 0x7B, nan := 0x7E, hasInf := true }
/-- FP8 E4M3. -/
def e4m3 : Fmt := { eb := 4, mb := 3, bias := 7, maxCode := 0x7E, nan := 0x7F, hasInf := false }
/-- FP4 E2M1, which has no NaN code. -/
def e2m1 : Fmt := { eb := 2, mb := 1, bias := 1, maxCode := 7, nan := 0, hasInf := false }

/-- An exact value: NaN, infinity, or `(-1)^neg × m × 2^e`. An exact result that no dyadic number equals is held
as an odd number of many more bits that lies between the same two neighbours in every format. -/
inductive FVal where
  | nan (signalling : Bool)
  | inf (neg : Bool)
  | fin (neg : Bool) (m : Nat) (e : Int)
  deriving DecidableEq, Repr

/-- Sign bit position of a format. -/
def Fmt.signBit (f : Fmt) : Nat := f.eb + f.mb

/-- A code with its sign. -/
def Fmt.signed (f : Fmt) (neg : Bool) (code : Nat) : Nat := code + b2n neg * 2 ^ f.signBit

/-- The exact value of a code (R45, R46). -/
def Fmt.value (f : Fmt) (bits : Nat) : FVal :=
  let neg := bitOf bits f.signBit
  let ex := bitsOf bits f.mb f.eb
  let mn := bitsOf bits 0 f.mb
  if ex = 2 ^ f.eb - 1 && f.hasInf then if mn = 0 then .inf neg else .nan (!bitOf mn (f.mb - 1))
  else if f = e4m3 && bitsOf bits 0 7 = 0x7F then .nan false
  else if ex = 0 then .fin neg mn (1 - (f.bias : Int) - f.mb)
  else .fin neg (2 ^ f.mb + mn) ((ex : Int) - f.bias - f.mb)

/-! ### Rounding (R53 to R56) -/

/-- `m × 2^e` in units of `2^q`: the integer part, the next bit, and whether anything lies below it. -/
def unitsOf (m : Nat) (e q : Int) : Nat × Bool × Bool :=
  if q ≤ e then (m <<< (e - q).toNat, false, false)
  else
    let s := (q - e).toNat
    (m >>> s, m.testBit (s - 1), m % 2 ^ (s - 1) != 0)

/-- The magnitude in whole units after rounding in a mode (R53), and whether it was inexact. -/
def roundUnits (mode : BitVec 2) (neg : Bool) (m : Nat) (e q : Int) : Nat × Bool :=
  let (n, g, st) := unitsOf m e q
  let inexact := g || st
  let up := match mode.toNat with
    | 0 => g && (st || n % 2 = 1)
    | 1 => false
    | 2 => inexact && !neg
    | _ => inexact && neg
  (if up then n + 1 else n, inexact)

/-- A NaN result: the canonical NaN, or 0 with NV in E2M1 (R55, R56). -/
def Fmt.nanResult (f : Fmt) (invalid : Bool) : Nat × Word :=
  if f = e2m1 then (0, flagNV) else (f.nan, if invalid then flagNV else 0)

/-- ±∞ where a format has it; 0x7F in E4M3; ±6 in E2M1 (R55). -/
def Fmt.infCode (f : Fmt) (neg : Bool) : Nat :=
  if f.hasInf then f.signed neg (f.maxCode + 1) else if f = e4m3 then f.nan else f.signed neg f.maxCode

/-- Finite overflow (R55). -/
def Fmt.overflow (f : Fmt) (neg : Bool) (mode : BitVec 2) (sat : Bool) : Nat × Word :=
  let toInf := match mode.toNat with
    | 0 => true
    | 1 => false
    | 2 => !neg
    | _ => neg
  (if toInf && !sat then f.infCode neg else f.signed neg f.maxCode, flagOF ||| flagNX)

/-- An infinite exact result (R55): OF and NX are not set. -/
def Fmt.infinite (f : Fmt) (neg sat : Bool) : Nat × Word :=
  (if sat then f.signed neg f.maxCode else f.infCode neg, if f.hasInf then 0 else flagNV)

/-- `round_to` of R54: the code and the flags. -/
def Fmt.round (f : Fmt) (mode : BitVec 2) (sat : Bool) : FVal → Nat × Word
  | .nan sig => f.nanResult sig
  | .inf neg => f.infinite neg sat
  | .fin neg m e =>
    if m = 0 then (f.signed neg 0, 0)
    else
      let emin : Int := 1 - f.bias
      let top : Int := (bitLen m : Int) - 1 + e
      let ex := if top < emin then emin else top
      let (n, inexact) := roundUnits mode neg m e (ex - f.mb)
      let code := (ex + f.bias - 1).toNat * 2 ^ f.mb + n
      if f.maxCode < code then f.overflow neg mode sat
      else (f.signed neg code,
        (if inexact then flagNX else 0) ||| (if inexact && top < emin then flagUF else 0))

/-! ### Exact arithmetic -/

/-- Sign of a value; of NaN false. -/
def FVal.neg : FVal → Bool
  | .nan _ => false
  | .inf n => n
  | .fin n _ _ => n

/-- The value with its sign changed. -/
def FVal.negate : FVal → FVal
  | .nan s => .nan s
  | .inf n => .inf (!n)
  | .fin n m e => .fin (!n) m e

/-- The value is zero. -/
def FVal.isZero : FVal → Bool
  | .fin _ 0 _ => true
  | _ => false

/-- The value is a NaN. -/
def FVal.isNan : FVal → Bool
  | .nan _ => true
  | _ => false

/-- The value is a signalling NaN. -/
def FVal.isSig : FVal → Bool
  | .nan s => s
  | _ => false

/-- The integer `±m`. -/
def signedInt (neg : Bool) (m : Nat) : Int := if neg then -(m : Int) else m

/-- An exact sum of two finite values; an exact zero has the sign of R53. -/
def addFin (mode : BitVec 2) (n1 : Bool) (m1 : Nat) (e1 : Int) (n2 : Bool) (m2 : Nat) (e2 : Int) : FVal :=
  let e := if e1 ≤ e2 then e1 else e2
  let x := signedInt n1 (m1 <<< (e1 - e).toNat) + signedInt n2 (m2 <<< (e2 - e).toNat)
  if x = 0 then .fin (if n1 = n2 && m1 = 0 && m2 = 0 then n1 else mode = 3) 0 e
  else .fin (x < 0) x.natAbs e

/-- An exact sum; `.nan true` stands for an invalid operation (R56). -/
def FVal.add (mode : BitVec 2) : FVal → FVal → FVal
  | .nan s, .nan t => .nan (s || t)
  | .nan s, _ => .nan s
  | _, .nan t => .nan t
  | .inf n, .inf k => if n = k then .inf n else .nan true
  | .inf n, _ => .inf n
  | _, .inf n => .inf n
  | .fin n1 m1 e1, .fin n2 m2 e2 => addFin mode n1 m1 e1 n2 m2 e2

/-- An exact product. -/
def FVal.mul (x y : FVal) : FVal :=
  let n := x.neg != y.neg
  match x, y with
  | .nan s, .nan t => .nan (s || t)
  | .nan s, _ => .nan s
  | _, .nan t => .nan t
  | .inf _, y => if y.isZero then .nan true else .inf n
  | x, .inf _ => if x.isZero then .nan true else .inf n
  | .fin _ m1 e1, .fin _ m2 e2 => .fin n (m1 * m2) (e1 + e2)

/-- `m1 / m2` with at least 64 bits, the last one set when anything lies below. -/
def divFin (n : Bool) (m1 : Nat) (e1 : Int) (m2 : Nat) (e2 : Int) : FVal :=
  let k := 64 + bitLen m2
  let a := m1 <<< k
  .fin n (2 * (a / m2) + b2n (a % m2 != 0)) (e1 - e2 - k - 1)

/-- A quotient. A finite nonzero value divided by zero is infinite; its flag is the caller's. -/
def FVal.div (x y : FVal) : FVal :=
  let n := x.neg != y.neg
  match x, y with
  | .nan s, .nan t => .nan (s || t)
  | .nan s, _ => .nan s
  | _, .nan t => .nan t
  | .inf _, .inf _ => .nan true
  | .inf _, _ => .inf n
  | .fin _ _ _, .inf _ => .fin n 0 0
  | .fin _ m1 e1, .fin _ m2 e2 =>
    if m2 = 0 then (if m1 = 0 then .nan true else .inf n) else if m1 = 0 then .fin n 0 0 else divFin n m1 e1 m2 e2

/-- Integer square root, one bit of the root at a time. -/
def rootBits : Nat → Nat → Nat → Nat
  | 0, _, r => r
  | i + 1, x, r => rootBits i x (if (r + 2 ^ i) * (r + 2 ^ i) ≤ x then r + 2 ^ i else r)

/-- The integer part of a square root. -/
def rootNat (x : Nat) : Nat := rootBits (bitLen x / 2 + 1) x 0

/-- A square root with at least 64 bits, the last one set when anything lies below. -/
def rootFin (m : Nat) (e : Int) : FVal :=
  let k : Nat := 128 + (e % 2).toNat
  let x := m <<< k
  let r := rootNat x
  .fin false (2 * r + b2n (r * r != x)) ((e - k) / 2 - 1)

/-- The square root of a value (R125). -/
def FVal.sqrt : FVal → FVal
  | .nan s => .nan s
  | .inf n => if n then .nan true else .inf false
  | .fin n m e => if m = 0 then .fin n 0 e else if n then .nan true else rootFin m e

/-! ### FP32 and packed operations as functions of bit patterns (R123 to R128) -/

/-- Addition in a format. -/
def fAdd (f : Fmt) (mode : BitVec 2) (sat : Bool) (a b : Nat) : Nat × Word :=
  f.round mode sat ((f.value a).add mode (f.value b))

/-- Subtraction in a format. -/
def fSub (f : Fmt) (mode : BitVec 2) (sat : Bool) (a b : Nat) : Nat × Word :=
  f.round mode sat ((f.value a).add mode (f.value b).negate)

/-- Multiplication in a format. -/
def fMul (f : Fmt) (mode : BitVec 2) (sat : Bool) (a b : Nat) : Nat × Word :=
  f.round mode sat ((f.value a).mul (f.value b))

/-- DZ when a finite nonzero value is divided by zero. -/
def dzOf : FVal → FVal → Word
  | .fin _ m _, .fin _ 0 _ => if m = 0 then 0 else flagDZ
  | _, _ => 0

/-- Division in FP32 (R123). -/
def fDiv (mode : BitVec 2) (sat : Bool) (a b : Nat) : Nat × Word :=
  let x := fp32.value a
  let y := fp32.value b
  let r := fp32.round mode sat (x.div y)
  (r.1, r.2 ||| dzOf x y)

/-- Fused multiply-add in a format: an invalid product counts even when D is a quiet NaN (R124). -/
def fFma (f : Fmt) (mode : BitVec 2) (sat : Bool) (a b d : Nat) : Nat × Word :=
  f.round mode sat (((f.value a).mul (f.value b)).add mode (f.value d))

/-- Square root in FP32 (R125). -/
def fSqrt (mode : BitVec 2) (sat : Bool) (a : Nat) : Nat × Word := fp32.round mode sat (fp32.value a).sqrt

/-- Reciprocal in FP32 (R125). -/
def fRcp (mode : BitVec 2) (sat : Bool) (a : Nat) : Nat × Word := fDiv mode sat 0x3F800000 a

/-- An order of FP32 codes that are not NaN, with −0 below +0. -/
def fKey (a : Nat) : Int := if bitOf a 31 then -(bitsOf a 0 31 : Int) - 1 else bitsOf a 0 31

/-- NV when either FP32 operand is a signalling NaN. -/
def nvSig (x y : FVal) : Word := if x.isSig || y.isSig then flagNV else 0

/-- `fmin` and `fmax` (R126). -/
def fMinMax (isMax : Bool) (a b : Nat) : Nat × Word :=
  let x := fp32.value a
  let y := fp32.value b
  let r := if x.isNan && y.isNan then fp32.nan
    else if x.isNan then b
    else if y.isNan then a
    else if isMax then (if fKey b ≤ fKey a then a else b)
    else if fKey a ≤ fKey b then a else b
  (r, nvSig x y)

/-- An FP32 code that is not NaN as an integer that orders like its value, the zeros equal. -/
def fCmpKey (a : Nat) : Int := if bitOf a 31 then -(bitsOf a 0 31 : Int) else bitsOf a 0 31

/-- `fcmp` (R127). -/
def fCmp (cc : BitVec 3) (a b : Nat) : Bool × Word :=
  let x := fp32.value a
  let y := fp32.value b
  let un := x.isNan || y.isNan
  let p := fCmpKey a
  let q := fCmpKey b
  let ordered := 2 ≤ cc.toNat && cc.toNat ≤ 5
  let res := match cc.toNat with
    | 0 => !un && p = q
    | 1 => un || p ≠ q
    | 2 => !un && p < q
    | 3 => !un && p ≤ q
    | 4 => !un && q < p
    | 5 => !un && q ≤ p
    | 6 => un
    | _ => !un
  (res, if un && ordered then flagNV else nvSig x y)

/-- Two halves computed on their own, with the flags of both (R58). -/
def halves (g : Nat → Nat × Word) : Nat × Word :=
  let lo := g 0
  let hi := g 1
  (lo.1 + 2 ^ 16 * hi.1, lo.2 ||| hi.2)

/-- Element `i` of a packed operand. -/
def halfOf (x i : Nat) : Nat := bitsOf x (16 * i) 16

/-- The format that PK selects (R128). -/
def packFmt (pk : Bool) : Fmt := if pk then fp16 else bf16

/-! ### Conversion (R59, R130) -/

/-- The floating-point format of a code of R50, if it is one. -/
def fmtOf (code : Nat) : Option Fmt :=
  match code with
  | 1 => some fp32
  | 2 => some bf16
  | 3 => some fp16
  | 4 => some e4m3
  | 5 => some e5m2
  | 6 => some e2m1
  | _ => none

/-- Width of an integer code of R50. -/
def intWidth (code : Nat) : Nat := if code = 8 then 8 else if code = 9 then 32 else 64

/-- Float to integer (R59). -/
def toInt (n : Nat) (mode : BitVec 2) : FVal → Int × Word
  | .nan _ => (0, flagNV)
  | .inf neg => (if neg then -(2 ^ (n - 1)) else 2 ^ (n - 1) - 1, flagNV)
  | .fin neg m e =>
    let (u, inexact) := roundUnits mode neg m e 0
    let x := signedInt neg u
    let c := clampInt (-(2 ^ (n - 1))) (2 ^ (n - 1) - 1) x
    (c, if c = x then (if inexact then flagNX else 0) else flagNV)

/-- `cvt`: the result bits, sign-extended for INT8 (R130). Between equal floating formats the operand stays as it is, but for a NaN
and, with `.sat`, an infinity, which R55 makes ±max (log 115). -/
def fCvt (dst src : Nat) (sat : Bool) (mode : BitVec 2) (a : Nat) : Nat × Word :=
  match fmtOf src, fmtOf dst with
  | some f, some g => match f.value a with
    | .nan s => g.nanResult s
    | .inf neg => if dst = src && !sat then (bitsOf a 0 (f.signBit + 1), 0) else g.round mode sat (.inf neg)
    | x => if dst = src then (bitsOf a 0 (f.signBit + 1), 0) else g.round mode sat x
  | some f, none =>
    let r := toInt (intWidth dst) mode (f.value a)
    (wrapInt (if dst = 10 then 64 else 32) r.1, r.2)
  | none, some g =>
    let x := toSigned (intWidth src) a
    g.round mode sat (.fin (x < 0) x.natAbs 0)
  | none, none =>
    let x := toSigned (intWidth src) a
    let w := intWidth dst
    let y := if intWidth src ≤ w then x
      else if sat then clampInt (-(2 ^ (w - 1))) (2 ^ (w - 1) - 1) x else toSigned w (wrapInt w x)
    (wrapInt (if dst = 10 then 64 else 32) y, 0)

/-! ### Scaled FP4 (R47 to R49, R132) -/

/-- Value of an E3M5 block scale; 0xFF is NaN. -/
def e3m5Value (bs : Nat) : FVal :=
  let e := bitsOf bs 5 3
  let m := bitsOf bs 0 5
  if bs = 0xFF then .nan false else if e = 0 then .fin false m (-7) else .fin false (32 + m) ((e : Int) - 8)

/-- Value of a band scale; exponent 255 is NaN. -/
def bandValue (band : Nat) : FVal :=
  if bitsOf band 15 8 = 255 then .nan false else fp32.value (bitsOf band 0 24 * 2 ^ 8)

/-- `decode_scaled_e2m1` (R49). -/
def scaledValue (x bs band : Nat) : FVal := ((e2m1.value x).mul (e3m5Value bs)).mul (bandValue band)

/-- Decode form of `cvts` (R132). A NaN sets no flag. -/
def fCvtsDecode (sat : Bool) (mode : BitVec 2) (a b : Nat) : Nat × Word :=
  fp32.round mode sat (scaledValue (bitsOf a 0 4) (bitsOf b 24 8) (bitsOf b 0 24))

/-- Encode form of `cvts` (R132). -/
def fCvtsEncode (sat : Bool) (mode : BitVec 2) (a b : Nat) : Nat × Word :=
  e2m1.round mode sat ((fp32.value a).div ((e3m5Value (bitsOf b 24 8)).mul (bandValue (bitsOf b 0 24))))

/-! ### Decoding by a page's codes (R50) -/

/-- The value of an element of a floating code 1 to 6, or of code 7 with its scales. -/
def elemValue (code : Nat) (x bs band : Nat) : FVal :=
  if code = 7 then scaledValue x bs band
  else match fmtOf code with
    | some f => f.value x
    | none => .fin (toSigned (intWidth code) x < 0) (toSigned (intWidth code) x).natAbs 0

/-- The decoded value of an element: with scales it is formed in FP32, where one beyond the largest number is ±∞ (R49). -/
def decodedValue (code : Nat) (x bs band : Nat) : FVal :=
  if code = 7 then fp32.value (fp32.round 0 false (scaledValue x bs band)).1 else elemValue code x bs band

/-- An element as `ldt` delivers it, up to 64 bits, with the flags of R49: exact but for an overflow of code 7. -/
def decodeElem (code : Nat) (x bs band : Nat) : Nat × Word :=
  if code = 0 then (x, 0)
  else if code ≤ 7 then
    let r := fp32.round 0 false (elemValue code x bs band)
    (r.1, if code = 7 then r.2 else 0)
  else (wrapInt (if code = 10 then 64 else 32) (toSigned (intWidth code) x), 0)

end Sys2Proof.Machine
end

