-- ==== Sys2Proof/Machine/Translate.lean ====
section
/-! DEFINITION. Addresses: the physical map, page-table walks and cached translations, permission and format
checks, and the bytes behind a physical address (R52, R141, R244 to R248, R254 to R262, R345, R357, R359). -/

namespace Sys2Proof.Machine

/-! ### The physical address map (R245) -/

/-- What a physical address holds. -/
inductive Place where
  | hbm
  | vault
  | device
  | window
  | absent
  deriving DecidableEq, Repr

/-- First address of the device registers. -/
def deviceBase : Nat := 0x18000000000

/-- First address of the vault segments. -/
def segmentBase : Nat := 0x10000000000

/-- What lies at a physical address: nothing outside the map, in range 31 of a stack with a retired channel, or in
a port window where no attached device claims the address (log 18). -/
def State.place (s : State) (pa : Nat) : Place :=
  if pa < 2 ^ 40 then
    if (s.stack (pa / 2 ^ 36)).range31gone && bitsOf pa 31 5 = 31 then .absent else .hbm
  else if segmentBase ≤ pa && pa < segmentBase + 2 ^ 31 then .vault
  else if deviceBase ≤ pa && pa < deviceBase + 2 ^ 32 then .device
  else if 2 ^ 48 ≤ pa && pa < 2 ^ 52 && (s.claims.any fun c => c.1 ≤ pa && pa < c.1 + c.2) then .window
  else .absent

/-- The Hertor mailbox (R359; log 16). -/
def inMailbox (pa : Nat) : Bool := deviceBase + 0x1000 ≤ pa && pa < deviceBase + 0x2000

/-- Granules freed by `mfree` answer reads with 0 and discard writes (R243). -/
def State.isFreed (s : State) (pa : Nat) : Bool := s.freed.contains (pa / 65536)

/-- The boot status word (R359). -/
def State.bootStatus (s : State) : Nat := s.hertor.step.toNat * 2 ^ 32 + s.hertor.failure.toNat

/-- The byte at a physical address. -/
def State.physByte (s : State) (pa : Nat) : Byte :=
  match s.place pa with
  | .device =>
    if pa < deviceBase + 8 then BitVec.ofNat 8 (s.bootStatus / 256 ^ (pa - deviceBase)) else 0
  | .hbm => if s.isFreed pa then 0 else memByte pa s.mem
  | .absent => 0
  | _ => memByte pa s.mem

/-- The bytes from a physical address. -/
def State.physRead (s : State) (pa n : Nat) : List Byte := (span pa n).map s.physByte

/-- The state with bytes stored from a physical address. Device registers ignore the write. -/
def State.physWrite (s : State) (pa : Nat) (bs : List Byte) : State :=
  match s.place pa with
  | .device => s
  | .absent => s
  | .hbm => if s.isFreed pa then s else { s with mem := memPut s.mem pa bs }
  | _ => { s with mem := memPut s.mem pa bs }

/-- The line of a physical address is poisoned (R345). -/
def State.isPoisoned (s : State) (pa : Nat) : Bool := s.poison.contains (pa / 128)

/-- The state with the line of an address poisoned. -/
def State.poisonLine (s : State) (pa : Nat) : State := { s with poison := insertNat (pa / 128) s.poison }

/-- The state with the line of an address free of poison. -/
def State.clearPoison (s : State) (pa : Nat) : State := { s with poison := s.poison.filter (· ≠ pa / 128) }

/-- The first poisoned line, as its physical address, among `n` bytes from `pa`. -/
def State.poisonIn (s : State) (pa n : Nat) : Option Nat :=
  ((span (pa / 128) ((pa + n - 1) / 128 - pa / 128 + 1)).find? fun l => s.poison.contains l).map (· * 128)

/-! ### Page tables (R254) -/

/-- Index into the node of a level: bits [56:49], [48:38], [37:27] or [26:16] of the address. -/
def walkIndex (level va : Nat) : Nat := if level = 3 then bitsOf va 49 8 else bitsOf va (16 + 11 * level) 11

/-- TYPE of an entry. -/
def entryType (e : Nat) : Nat := bitsOf e 0 3

/-- The entry is a forward entry. -/
def isForward (e : Nat) : Bool := entryType e = 4

/-- A nonzero entry that R254 does not allow at its level. -/
def entryMalformed (level e : Nat) : Bool :=
  match entryType e with
  | 0 => false
  | 1 => level = 0 || bitsOf e 56 8 ≠ 0 || bitsOf e 52 4 ≠ 0 || bitsOf e 3 11 ≠ 0
  | 2 => level ≠ 0 || bitsOf e 52 4 ≠ 0 || bitsOf e 8 4 ≠ 0 || bitOf e 3 || bitsOf e 14 2 ≠ 0
      || bitsOf e 12 2 = 3 || (bitOf e 6 && !bitOf e 5)
  | 3 => level ≠ 1 || bitsOf e 52 4 ≠ 0 || bitsOf e 8 4 ≠ 0 || bitOf e 3 || bitsOf e 14 13 ≠ 0
      || bitsOf e 12 2 = 3 || (bitOf e 6 && !bitOf e 5) || bitOf e 56
  | 4 => 1 < level || (level = 1 && bitsOf e 3 11 ≠ 0)
  | _ => true

/-- How a walk ends without a leaf: where it stopped, whether at a forward entry, and the table entries that it read from
memory, top first. -/
structure WalkStop where
  walk : WalkEnd
  forward : Bool
  reads : List Nat
  deriving DecidableEq, Repr

/-- The last bit of an address that an entry of a level does not distinguish, plus 1: 64 KiB, 2 MiB for a page with CONT,
128 MiB, and so on up (R254). -/
def entryShift (level e : Nat) : Nat :=
  match level with
  | 0 => if bitOf e 56 then 21 else 16
  | 1 => 27
  | 2 => 38
  | _ => 49

/-- A cached entry covers an address. -/
def TlbEntry.covers (t : TlbEntry) (va : Nat) : Bool :=
  let n := entryShift t.level t.entry.toNat
  va / 2 ^ n = 65536 * t.page / 2 ^ n

/-- The table entry that a base die's walk cache holds for an address at a level (R258). -/
def State.cachedTable (s : State) (die : Nat) (asid : BitVec 16) (va level : Nat) : Option Nat :=
  (s.tlb.find? fun t => t.unit = .walk die && t.asid = asid && t.level = level && t.covers va).map (·.entry.toNat)

/-- Entries of a 2 MiB run that hold pages: their numbers in the run, and the entries. -/
def State.runPages (s : State) (base : Nat) : List (Nat × Nat) :=
  ((upto 32).map fun i => (i, ofBytes (s.physRead (base + 8 * i) 8))).filter fun e =>
    entryType e.2 = 2 && !entryMalformed 0 e.2

/-- The entries keep the duty of R256: no CONT at all, or 32 pages with CONT that map one aligned run in order with equal
attributes. -/
def runSound (es : List (Nat × Nat)) : Bool :=
  let addr := fun (e : Nat) => bitsOf e 16 36
  let rest := fun (e : Nat) => e - 2 ^ 16 * addr e
  match es with
  | [] => true
  | (_, e0) :: _ => es.all (fun e => !bitOf e.2 56) ||
      (es.length = 32 && addr e0 % 32 = 0 && es.all fun e => bitOf e.2 56 && addr e.2 = addr e0 + e.1 && rest e.2 = rest e0)

/-- The leaf that a page entry at an address is: itself, or, in a run that breaks the duty of R256, any entry of the run with
CONT set (log 57). -/
def State.runLeaf (s : State) (va addr e : Nat) : Nat :=
  let es := s.runPages (addr / 256 * 256)
  if runSound es then e
  else
    let x := ((es[Sys2Proof.Config.runEntry va s.fresh % es.length]?).map (·.2)).getD e
    if bitOf x 56 then x else x + 2 ^ 56

/-- What a walk found: the leaf entry, its level, the table entries on the way (level and entry), and the addresses that were
read from memory, the leaf's among them. -/
structure WalkLeaf where
  entry : Nat
  level : Nat
  tables : List (Nat × Nat)
  reads : List Nat
  deriving DecidableEq, Repr

/-- A walk from the node at a level, with the table entries that the die's walk cache holds: what it found, or where it
stopped. -/
def State.walk (s : State) (die : Nat) (asid : BitVec 16) (va : Nat) : Nat → Nat → Except WalkStop WalkLeaf
  | level, node =>
    let addr := node + 8 * walkIndex level va
    let cached := s.cachedTable die asid va level
    let read := if cached.isSome then [] else [addr]
    let e := cached.getD (ofBytes (s.physRead addr 8))
    let stop := fun (malf fwd : Bool) =>
      (.error { walk := { entry := BitVec.ofNat 64 e, malf := malf, level := BitVec.ofNat 2 level,
                          eaddr := BitVec.ofNat 52 addr }, forward := fwd, reads := read } : Except WalkStop WalkLeaf)
    if entryMalformed level e then stop true false
    else match entryType e with
      | 0 => stop false false
      | 4 => stop false true
      | 1 => match level with
        | 0 => stop true false
        | l + 1 => match s.walk die asid va l (bitsOf e 14 38 * 2 ^ 14) with
          | .error w => .error { w with reads := read ++ w.reads }
          | .ok x => .ok { x with tables := (level, e) :: x.tables, reads := read ++ x.reads }
      | _ => .ok { entry := if level = 0 then s.runLeaf va addr e else e, level := level, tables := [], reads := read }
  termination_by structural level => level

/-- The top node of a job's tables: a multiple of 16 KiB. -/
def State.rootOf (s : State) (job : Nat) : Nat := bitsOf (s.job job).root.toNat 14 38 * 2 ^ 14

/-! ### The ways to a translation (R258) -/

/-- The translation caches that a SIMT core's accesses go through, nearest first. -/
def coreVia (core : Nat) : List TlbUnit := [.core core, .column (colOfCore core), .die (towerOfCore core)]

/-- Those of a host core. -/
def hostVia (col : Nat) : List TlbUnit := [.host col, .column col, .die (towerOfCol col)]

/-- Those of a slice and the agents beside it. -/
def colVia (col : Nat) : List TlbUnit := [.column col, .die (towerOfCol col)]

/-- Those of a fabric interface's ingress MMU. -/
def dieVia (tower : Nat) : List TlbUnit := [.die tower]

/-- The column that an access through these caches comes from; for the fabric, the column whose router its interface is
attached to (R299; log 95). -/
def viaCol : List TlbUnit → Nat
  | .core c :: _ => colOfCore c
  | .host c :: _ => c
  | .column c :: _ => c
  | .die t :: _ => firstCol t + 3
  | _ => 0

/-- Entries that a translation cache holds (R258); the walk caches' size is not stated. -/
def TlbUnit.size : TlbUnit → Option Nat
  | .core _ => some 256
  | .host _ => some 256
  | .column _ => some 4096
  | .die _ => some 32768
  | .walk _ => none

/-- The list without its first entry of a cache. -/
def dropOldest (u : TlbUnit) : List TlbEntry → List TlbEntry
  | [] => []
  | e :: t => if e.unit = u then t else e :: dropOldest u t

/-- The caches with one more entry; a full one gives up its oldest (log 94). -/
def addTlb (l : List TlbEntry) (e : TlbEntry) : List TlbEntry :=
  let full : Bool := match e.unit.size with
    | none => false
    | some n => decide (n ≤ (l.filter fun x => x.unit = e.unit).length)
  (if full then dropOldest e.unit l else l) ++ [e]

/-! ### Homing (R251, R252) -/

/-- A column that works: neither retired nor failed. -/
def Column.works (c : Column) : Bool := !(c.svc.retired || c.svc.failed)

/-- Address of a region's entry in a tower's region table. -/
def State.regionEntry (s : State) (tower pa : Nat) : Nat := (s.tower tower).rgtbase.toNat + 4 * (pa / 65536)

/-- The home slice of a line in a tower, as a global column, if the tower has one (probes never home a region). -/
def State.homeSlice (s : State) (tower pa : Nat) : Option Nat :=
  match s.place pa with
  | .hbm =>
    let e := ofBytes (s.physRead (s.regionEntry tower pa) 4)
    if bitOf e 31 then some (firstCol tower + bitsOf e 0 4) else none
  | .window => some (firstCol tower + (bitsOf pa 16 4 ^^^ bitsOf pa 20 4))
  | _ => none

/-- Column that a first touch by column `col` homes a region at: itself, else the lowest working one of its quadrant,
else of its tower. -/
def State.touchColumn (s : State) (col : Nat) : Nat :=
  if (s.col col).works then col
  else match (span (col / 4 * 4) 4).find? fun c => (s.col c).works with
    | some c => c
    | none => ((span (firstCol (towerOfCol col)) 16).find? fun c => (s.col c).works).getD col

/-- First-touch homing: the home slice of a line for a request of a column, and the state with its entry. -/
def State.homeFor (s : State) (col pa : Nat) : Option Nat × State :=
  let tower := towerOfCol col
  match s.homeSlice tower pa with
  | some h => (some h, s)
  | none =>
    if s.place pa ≠ .hbm then (none, s)
    else
      let h := s.touchColumn col
      (some h, s.physWrite (s.regionEntry tower pa) (toBytes 4 (2 ^ 31 + h % 16)))

/-- A request of a column for a normal line homes its region, if it is the first in its tower (R252). -/
def State.touch (s : State) (col pa : Nat) : State := (s.homeFor col pa).2

/-! ### Cached translations -/

/-- Reads of table entries home their regions (R252). -/
def State.touchAll (s : State) (col : Nat) (reads : List Nat) : State := reads.foldl (fun u a => u.touch col a) s

/-- So do the reads of a walk that ended in a translation fault. -/
def State.homeReads (s : State) (f : FaultAt) : State := s.touchAll f.col f.reads

/-- The leaf that translates an address: a cached one, or that of a walk, which is then cached (R255, R258, R259). The
walk's own reads home their regions. -/
def State.leaf (s : State) (job va : Nat) (via : List TlbUnit) : Except WalkStop (Nat × Nat × State) :=
  let asid := s.asid job
  let hit := via.findSome? fun u => s.tlb.find? fun t => t.unit = u && t.asid = asid && t.covers va
  let die := towerOfCol (viaCol via)
  match hit with
  | some t => .ok (t.entry.toNat, t.level, s)
  | none => match s.walk die asid va 3 (s.rootOf job) with
    | .error w => .error w
    | .ok w =>
      let entry := fun (u : TlbUnit) (e l : Nat) =>
        ({ unit := u, asid := asid, page := va / 65536, entry := BitVec.ofNat 64 e, level := l } : TlbEntry)
      let tables := (w.tables.filter fun t => (s.cachedTable die asid va t.1).isNone).map fun t => entry (.walk die) t.2 t.1
      let t := s.touchAll (viaCol via) w.reads
      .ok (w.entry, w.level, { t with tlb := (tables ++ via.map fun u => entry u w.entry w.level).foldl addTlb t.tlb })

/-- The physical address that a leaf gives (R255). -/
def leafPa (e level va : Nat) : Nat :=
  if level = 1 then bitsOf e 27 25 * 2 ^ 27 + bitsOf va 0 27
  else if bitOf e 56 then bitsOf e 21 31 * 2 ^ 21 + bitsOf va 0 21
  else bitsOf e 16 36 * 2 ^ 16 + bitsOf va 0 16

/-- FMT of a leaf. -/
def leafFmt (e : Nat) : Nat := bitsOf e 60 4
/-- GEOM of a leaf. -/
def leafGeom (e : Nat) : Nat := bitsOf e 57 3
/-- MTYPE of a leaf. -/
def leafMtype (e : Nat) : Nat := bitsOf e 12 2

/-! ### Permission (R248, R257) -/

/-- Kinds of access, numbered as in KIND of a fault record (R261). -/
inductive AccType where
  | read
  | write
  | fetch
  | atomic
  deriving DecidableEq, Repr

/-- KIND of R261. -/
def AccType.code : AccType → Nat
  | .read => 0
  | .write => 1
  | .fetch => 2
  | .atomic => 3

/-- The page permits the access; `user` when U = 1 is required. -/
def permits (e : Nat) (t : AccType) (user : Bool) : Bool :=
  (!user || bitOf e 4) && match t with
    | .read => bitOf e 5
    | .write => bitOf e 6
    | .atomic => bitOf e 5 && bitOf e 6
    | .fetch => bitOf e 7

/-- Who makes an access: the job whose tables translate it, whether U is required, whether it is a host core, and the
translation caches on its way. -/
structure Requester where
  job : Nat
  user : Bool
  host : Bool
  via : List TlbUnit
  deriving DecidableEq, Repr

/-- The requester that a context is. -/
def State.requester (s : State) (c : Ctx) : Requester :=
  { job := s.ctxJob c, user := s.ctxLevel c = 0, host := kindOf c = .host,
    via := match c with
      | .host col => hostVia col
      | c => coreVia (s.ctxCore c) }

/-- An engine, gauge, slice or fabric interface that acts for a job. -/
def engineFor (job : Nat) (via : List TlbUnit) : Requester := { job := job, user := true, host := false, via := via }

/-- An engine of a team's core that acts for the team. -/
def State.teamEngine (s : State) (team : Nat) : Requester :=
  engineFor (lrJob (s.team team).launch) (coreVia (s.team team).core)

/-- A translated address: physical address and leaf entry. -/
structure Xlat where
  pa : Nat
  entry : Nat
  deriving DecidableEq, Repr

/-- Why an address cannot be accessed: a replayable fault, or a permission fault with its SUB (R142). -/
inductive AccErr where
  | page (f : FaultAt)
  | perm (sub : Nat)
  deriving DecidableEq, Repr

/-- Step 5 of R141 for a translated address, but for formats: the page's permissions, MTYPE 2 only for a host
core and always for device registers, and an address that has contents. -/
def State.permit (s : State) (r : Requester) (t : AccType) (x : Xlat) : Except AccErr Unit :=
  let dev := leafMtype x.entry = 2
  let p := s.place x.pa
  if !permits x.entry t r.user || (dev && !r.host) || (p = .device && !dev) || p = .absent then .error (.perm 0)
  else .ok ()

/-- A host core of a job whose `JOBCTL`.VALID is 0 reaches physical addresses directly (log 7). -/
def State.untranslated (s : State) (r : Requester) : Bool := r.host && !s.jobValid r.job

/-- The leaf given to an access that is not translated: a normal or device page with every permission. -/
def flatEntry (p : Place) : Nat := 2 + 2 ^ 4 + 2 ^ 5 + 2 ^ 6 + 2 ^ 7 + (if p = .device then 2 ^ 13 else 0)

/-- Step 4 of R141: translation alone. -/
def State.translate (s : State) (r : Requester) (t : AccType) (va : Nat) : Except AccErr (Xlat × State) :=
  if s.untranslated r then .ok ({ pa := va % 2 ^ 52, entry := flatEntry (s.place (va % 2 ^ 52)) }, s)
  else match s.leaf r.job va r.via with
    | .error w => .error (.page
        { va := va, kind := BitVec.ofNat 3 (if w.forward then 4 else t.code), walk := w.walk, col := viaCol r.via,
          reads := w.reads })
    | .ok (e, l, s) => .ok ({ pa := leafPa e l va, entry := e }, s)

/-- The line of a translated address may be cached: normal memory that is no vault (R248). -/
def State.cacheable (s : State) (x : Xlat) : Bool := leafMtype x.entry = 0 && (s.place x.pa = .hbm || s.place x.pa = .window)

/-- Steps 4 and 5 of R141 for one address; the request homes the region of a normal line. -/
def State.access (s : State) (r : Requester) (t : AccType) (va : Nat) : Except AccErr (Xlat × State) := do
  let (x, s) ← s.translate r t va
  s.permit r t x
  .ok (x, if s.cacheable x then s.touch (viaCol r.via) x.pa else s)

/-! ### Element formats of a page (R50 to R52) -/

/-- A decoding access at a leaf is refused: a reserved code, a geometry that R51 does not allow, or an element at
0xC000 or above in its piece under code 7. -/
def formatBad (e pa : Nat) : Bool :=
  let f := leafFmt e
  let g := leafGeom e
  10 < f || (if f = 7 then (g ≠ 1 && g ≠ 2) || 0xC000 ≤ pa % 65536 else g ≠ 0)

/-- Bytes of one element of a code; 0 for the codes with two elements in a byte. -/
def elemSize (code raw : Nat) : Nat :=
  match code with
  | 0 => raw
  | 1 => 4
  | 2 => 2
  | 3 => 2
  | 4 => 1
  | 5 => 1
  | 6 => 0
  | 7 => 0
  | 8 => 1
  | 9 => 4
  | _ => 8

/-- Offsets in a 64 KiB piece of the block scale and the band scale of the element in byte `o` (R51). -/
def scaleOffsets (o : Nat) (nib : Bool) : Nat × Nat :=
  let unit := o / 0x1000
  let line := o % 0x1000 / 64
  let elem := 2 * (o % 64) + b2n nib
  (0xC000 + unit * 0x400 + line * 16 + elem / 8, 0xF000 + 4 * unit)

/-- The element at physical address `pa`, with its block scale and band scale. -/
def State.readElem (s : State) (code raw pa : Nat) (nib : Bool) : Nat × Nat × Nat :=
  let sz := elemSize code raw
  if sz = 0 then
    let x := (s.physByte pa).toNat
    let o := scaleOffsets (pa % 65536) nib
    let piece := pa / 65536 * 65536
    (if nib then x / 16 else x % 16, (s.physByte (piece + o.1)).toNat, ofBytes (s.physRead (piece + o.2) 3))
  else (ofBytes (s.physRead pa sz), 0, 0)

/-- Physical addresses that reading an element touches, each with its length. -/
def elemParts (code raw pa : Nat) (nib : Bool) : List (Nat × Nat) :=
  let sz := elemSize code raw
  if sz = 0 then
    if code = 7 then
      let o := scaleOffsets (pa % 65536) nib
      let piece := pa / 65536 * 65536
      [(pa, 1), (piece + o.1, 1), (piece + o.2, 4)]
    else [(pa, 1)]
  else [(pa, sz)]

/-! ### Stops of a context's own access -/

/-- The stop that an access error at an address is for the issuing context. -/
def State.stopOf (s : State) (va : Nat) : AccErr → Stop
  | .page f => .page f (s.homeReads f) none
  | .perm sub => .trap 6 (accInfo sub va) 0

end Sys2Proof.Machine
end

