-- ==== Sys2Proof/Machine/Coherence.lean ====
section
/-! DEFINITION. Homing and the states of the coherence protocol (R249 to R253). Data have one visible copy (logs 9, 22);
these states say who holds a line. -/

namespace Sys2Proof.Machine

/-! ### Where an access lands -/

/-- Physical address of a location. -/
def State.locPa (s : State) : Loc → Nat
  | .phys pa => pa
  | .vault t off => s.vaultPa t off
  | .peer _ _ => 0

/-- The memory gauge whose region holds a physical address (R186). -/
def State.gaugeAt (s : State) (pa : Nat) : Option Nat :=
  (s.mgauges.find? fun g => g.2.pages.contains (pa / 65536)).map (·.1)

/-! ### The caches (R247) -/

/-- A holder of lines: a core's L1 by the core's number, the data cache of the host core of column c as 1024 + c. -/
def hostAgent (col : Nat) : Nat := 1024 + col

/-- Column of a holder. -/
def agentCol (a : Nat) : Nat := if a < 1024 then colOfCore a else a - 1024

/-- Tower of a holder. -/
def agentTower (a : Nat) : Nat := towerOfCol (agentCol a)

/-- Lines that a holder's cache has room for: 256 KiB, or 64 KiB in a host core. -/
def agentLines (a : Nat) : Nat := if a < 1024 then 2048 else 512

/-- Lines of a set of a holder's cache. -/
def agentWays (a : Nat) : Nat := if a < 1024 then 16 else 8

/-- Lines that a slice has room for: 8 MiB. -/
def sliceLines : Nat := 65536

/-- Lines of a set of a slice. -/
def sliceWays : Nat := 16

/-- States of the lines that a holder has. -/
def State.l1Of (s : State) (a : Nat) : Tab Moesi := if a < 1024 then (s.core a).l1 else (s.host (a - 1024)).l1

/-- The state with a holder's lines changed. -/
def State.modL1 (s : State) (a : Nat) (f : Tab Moesi → Tab Moesi) : State :=
  if a < 1024 then s.modCore a fun c => { c with l1 := f c.l1 } else s.modHost (a - 1024) fun h => { h with l1 := f h.l1 }

/-! ### Line states (R249) -/

/-- A state in which the holder may write back or must answer. -/
def Moesi.owns : Moesi → Bool
  | .s => false
  | _ => true

/-- Data that memory does not have. -/
def Moesi.dirty : Moesi → Bool
  | .m => true
  | .o => true
  | _ => false

/-- A holder's state after another agent read the line. -/
def Moesi.shared : Moesi → Moesi
  | .m => .o
  | .o => .o
  | _ => .s

/-- A holder's state once memory has the data. -/
def Moesi.clean : Moesi → Moesi
  | .m => .e
  | .o => .s
  | x => x

/-- A table with the state of a line changed; none: the line is not held. -/
def lineSet (line : Nat) (st : Option Moesi) (t : Tab Moesi) : Tab Moesi :=
  match st with
  | none => tabDel line t
  | some x => tabSet line x t

/-- State of a line in a holder changed. -/
def State.setL1 (s : State) (a line : Nat) (st : Option Moesi) : State := s.modL1 a (lineSet line st)

/-- A slice's coherence state changed. -/
def State.modCoh (s : State) (col : Nat) (f : SliceCoh → SliceCoh) : State :=
  s.modCol col fun c => { c with coh := f c.coh }

/-- Snoop-filter entry of a line at its home slice. -/
def State.snoopOf (s : State) (col line : Nat) : Snoop :=
  tabGet { holders := [], owner := none } line (s.col col).coh.snoop

/-- The snoop-filter entry of a line set; an empty one is not kept. -/
def State.setSnoop (s : State) (col line : Nat) (x : Snoop) : State :=
  s.modCoh col fun c => { c with snoop := if x.holders.isEmpty then tabDel line c.snoop else tabSet line x c.snoop }

/-- The tower's state of a line set at its home slice; a line that the tower does not hold has no data there. -/
def State.setTowerLine (s : State) (col line : Nat) (st : Option Moesi) : State :=
  s.modCoh col fun c =>
    { c with lines := lineSet line st c.lines, data := if st.isNone then c.data.filter (· ≠ line) else c.data }

/-- Every copy of a line in a tower is gone. -/
def State.dropTower (s : State) (tower line : Nat) : State :=
  let core := fun (c : Nat) (k : Core) => if towerOfCore c = tower then { k with l1 := tabDel line k.l1 } else k
  let col := fun (c : Nat) (k : Column) =>
    if towerOfCol c = tower then { k with host := { k.host with l1 := tabDel line k.host.l1 } } else k
  let s := { s with cores := tabMap core s.cores, cols := tabMap col s.cols }
  match s.homeSlice tower (128 * line) with
  | none => s
  | some h => (s.setTowerLine h line none).setSnoop h line { holders := [], owner := none }

/-- The host gives up a line of HBM that it holds (CXL.mem back-invalidation, R325). -/
def State.backInvalidate (s : State) (line : Nat) : State :=
  { s with pcie := tabMap (fun _ (p : PciePort) =>
      if p.held.contains line then { p with held := p.held.filter (· ≠ line), backInval := p.backInval ++ [line] } else p) s.pcie }

/-- Every cached copy of a line in the package is gone, and the host's. -/
def State.dropLine (s : State) (line : Nat) : State :=
  let s := (upto 8).foldl (fun s t => s.dropTower t line) s
  { s with directory := tabDel line s.directory }.backInvalidate line

/-- The owner of a line in a tower, read by another agent, keeps it shared. -/
def State.shareTower (s : State) (tower line : Nat) : State :=
  match s.homeSlice tower (128 * line) with
  | none => s
  | some h =>
    let sn := s.snoopOf h line
    let s := match sn.owner with
      | none => s
      | some o =>
        let st := ((tabFind line (s.l1Of o)).getD .s).shared
        (s.setL1 o line (some st)).setSnoop h line { sn with owner := if st.owns then some o else none }
    match tabFind line (s.col h).coh.lines with
    | none => s
    | some st => s.setTowerLine h line (some st.shared)

/-- Bit of a tower in a presence vector. -/
def presenceBit (tower : Nat) : Byte := (1 : Byte) <<< tower

/-- What is left of a tower in a line's directory entry after its dirty data reached the home agent. -/
def DirLine.written (d : DirLine) (tower : Nat) (keeps : Bool) : Option DirLine :=
  let p := if keeps then d.presence else d.presence &&& ~~~(presenceBit tower)
  if p = 0 then none else some { state := .s, presence := p, owner := none }

/-- Dirty data of a line go from a slice to the home agent; the tower keeps shared copies if L1s hold any. -/
def State.writeBackLine (s : State) (col line : Nat) : State :=
  match tabFind line (s.col col).coh.lines with
  | none => s
  | some st =>
    let sn := s.snoopOf col line
    if !st.dirty || sn.owner.isSome then s
    else
      let keeps := !sn.holders.isEmpty
      let s := s.setTowerLine col line (if keeps then some .s else none)
      match tabFind line s.directory with
      | none => s
      | some d => { s with directory := match d.written (towerOfCol col) keeps with
          | none => tabDel line s.directory
          | some x => tabSet line x s.directory }

/-- A line leaves a slice: dirty data are written back first, and a line that no L1 holds is then held nowhere in the
tower. -/
def State.leaveSlice (s : State) (col line : Nat) : State :=
  let s := s.writeBackLine col line
  let s := s.modCoh col fun c => { c with data := c.data.filter (· ≠ line) }
  if !(s.snoopOf col line).holders.isEmpty then s
  else
    let s := s.setTowerLine col line none
    match tabFind line s.directory with
    | none => s
    | some d =>
      let p := d.presence &&& ~~~(presenceBit (towerOfCol col))
      let d := { d with presence := p, owner := if d.owner = some (towerOfCol col) then none else d.owner }
      { s with directory := if p = 0 then tabDel line s.directory else tabSet line d s.directory }

/-- A slice holds a line's data; a full set gives up another line (log 94). -/
def State.keepData (s : State) (col line : Nat) : State :=
  let s := s.modCoh col fun c => { c with data := insertNat line c.data }
  match setVictim (sliceLines / sliceWays) sliceWays (Sys2Proof.Config.victim s.fresh) line (s.col col).coh.data with
  | none => s
  | some l => s.leaveSlice col l

/-- A line leaves a holder; dirty data go to the home slice. -/
def State.leaveL1 (s : State) (a line : Nat) : State :=
  let dirty := ((tabFind line (s.l1Of a)).map Moesi.dirty).getD false
  let s' := s.setL1 a line none
  match s.homeSlice (agentTower a) (128 * line) with
  | none => s'
  | some h =>
    let sn := s.snoopOf h line
    let s' := s'.setSnoop h line
      { holders := sn.holders.filter (· ≠ a), owner := if sn.owner = some a then none else sn.owner }
    if dirty then s'.keepData h line else s'

/-- A holder whose set has more lines than ways, after `line` came in, gives another of the set up (log 94). -/
def State.trimL1 (s : State) (a line : Nat) : State :=
  match setVictim (agentLines a / agentWays a) (agentWays a) (Sys2Proof.Config.victim s.fresh) line
      ((s.l1Of a).map (·.1)) with
  | none => s
  | some l => s.leaveL1 a l

/-- A line is read by an agent that keeps no copy: its owner, if any, keeps it shared. -/
def State.shareLine (s : State) (line : Nat) : State :=
  match tabFind line s.directory with
  | none => s
  | some d => match d.owner with
    | none => s
    | some u =>
      let d := { d with state := d.state.shared, owner := if d.state.dirty then d.owner else none }
      { s.shareTower u line with directory := tabSet line d s.directory }

/-- A tower obtains a line that it does not hold, for reading: from the tower that owns it, or from the home agent. -/
def State.fetchLine (s : State) (tower h line : Nat) : State :=
  match tabFind line s.directory with
  | none =>
    let d : DirLine := { state := .e, presence := presenceBit tower, owner := some tower }
    { s with directory := tabSet line d s.directory }.setTowerLine h line (some .e)
  | some d =>
    let s := match d.owner with
      | none => s
      | some u => s.shareTower u line
    let d := { d with state := d.state.shared, presence := d.presence ||| presenceBit tower,
                      owner := if d.state.dirty then d.owner else none }
    { s with directory := tabSet line d s.directory }.setTowerLine h line (some .s)

/-- A read of a line by a holder: the owner, the home slice or the home agent answers. -/
def State.cohRead (s : State) (a h line : Nat) : State :=
  let tower := agentTower a
  let sn := s.snoopOf h line
  let join := fun (s : State) (x : Moesi) =>
    let sn := s.snoopOf h line
    ((s.setL1 a line (some x)).setSnoop h line
      { holders := insertNat a sn.holders, owner := if x.owns then some a else sn.owner }).trimL1 a line
  if sn.holders.contains a then s
  else if sn.owner.isSome then join (s.shareTower tower line) .s
  else match tabFind line (s.col h).coh.lines with
    | some _ => join s .s
    | none =>
      let s := (s.fetchLine tower h line).keepData h line
      join s (match tabFind line (s.col h).coh.lines with
        | some .e => .e
        | _ => .s)

/-- A line into its home slice only (R157). -/
def State.cohSlice (s : State) (col h line : Nat) : State :=
  match tabFind line (s.col h).coh.lines with
  | some _ => if (s.snoopOf h line).owner.isSome then s else s.keepData h line
  | none => (s.fetchLine (towerOfCol col) h line).keepData h line

/-- A line goes to a holder alone in a state that lets it write: every other copy goes. -/
def State.cohOwn (s : State) (a h line : Nat) (st : Moesi) : State :=
  let tower := agentTower a
  let s := s.dropLine line
  let d : DirLine := { state := st, presence := presenceBit tower, owner := if st.owns then some tower else none }
  let s := { s with directory := tabSet line d s.directory }
  (((s.setL1 a line (some st)).setTowerLine h line (some st)).setSnoop h line
    { holders := [a], owner := if st.owns then some a else none }).trimL1 a line

/-- A line into a holder's cache in a writable state (R157): dirty data that it takes over stay dirty. -/
def State.cohClaim (s : State) (a h line : Nat) : State :=
  let st := tabFind line (s.l1Of a)
  let dirty := ((tabFind line s.directory).map fun d => d.state.dirty).getD false
  if st = some .m || st = some .e then s else s.cohOwn a h line (if dirty then .m else .e)

/-- A write of a line by a holder, which then has it M; in a region counted by a memory gauge no dirty copy stays (R248). -/
def State.cohWrite (s : State) (a h line : Nat) : State :=
  let st : Moesi := if (s.gaugeAt (128 * line)).isSome then .s else .m
  if tabFind line (s.l1Of a) = some .m && st = .m then s else s.cohOwn a h line st

/-- An atomic on a line: in the holder's cache when it has the line writable, else at the home slice, which then holds the
line's only copy (R155). -/
def State.cohAtomic (s : State) (a h line : Nat) : State :=
  let st := tabFind line (s.l1Of a)
  if st = some .m || st = some .e then s.cohWrite a h line
  else
    let tower := agentTower a
    let counted := (s.gaugeAt (128 * line)).isSome
    let s := s.dropLine line
    let d : DirLine := { state := .m, presence := presenceBit tower, owner := some tower }
    if counted then s else ({ s with directory := tabSet line d s.directory }.setTowerLine h line (some .m)).keepData h line

/-- A holder's access of a kind to the line of an address: the region is homed first, then the line obtained (R249, R250,
R252). -/
def State.obtain (s : State) (a pa : Nat) (kind : AccKind) : State :=
  match s.homeFor (agentCol a) pa with
  | (none, _) => s
  | (some h, t) =>
    let line := pa / 128
    match kind with
    | .load => t.cohRead a h line
    | .store => t.cohWrite a h line
    | .atomic => t.cohAtomic a h line
    | .maint => t

/-- An outstanding access of a context on a core wants a line of normal memory, for a write or at all. -/
def State.wantsLine (s : State) (core line : Nat) (write : Bool) : Bool :=
  let wants := fun (r : Regs) => r.outs.any fun a => (!write || a.kind = .store || a.kind = .atomic) &&
    a.lanes.any fun l => l.ro && s.locPa l.loc / 128 = line
  s.teams.any fun e => e.2.core = core && e.2.state != .saved &&
    (e.2.groups.any (fun g => wants g.regs) || e.2.seq.any fun q => wants q.regs)

/-- R249, R252: a core's request for a line of normal memory that one of its accesses wants. -/
def execHomeRequest (core line : Nat) (write : Bool) (s : State) : Host.Outcome State Fault Refusal :=
  .next (if s.wantsLine core line write then s.obtain core (128 * line) (if write then .store else .load) else s)

/-- R253: a slice's write-back is always accepted. -/
def execWriteBack (col line : Nat) (s : State) : Host.Outcome State Fault Refusal := .next (s.writeBackLine col line)

/-- The copies that a snoop-filter entry covers are invalidated; dirty data go to the slice first. -/
def State.evictSnoop (s : State) (col line : Nat) : State :=
  let sn := s.snoopOf col line
  let s := sn.holders.foldl (fun s c => s.leaveL1 c line) s
  s.setSnoop col line { holders := [], owner := none }

/-- R249. -/
def execSnoopFilterEviction (col line : Nat) (s : State) : Host.Outcome State Fault Refusal := .next (s.evictSnoop col line)

/-! ### `cctl` (R158) and whole caches -/

/-- Dirty data of a line in every cache is in memory; copies stay, and none that is shared owns the line. -/
def State.cleanLine (s : State) (line : Nat) : State :=
  let fix := fun (t : Tab Moesi) => tabMap (fun n x => if n = line then x.clean else x) t
  let own := fun (col : Column) => tabMap (fun n (sn : Snoop) =>
    if n = line && (tabFind line (fix col.coh.lines)) = some .s then { sn with owner := none } else sn) col.coh.snoop
  { s with
    cores := tabMap (fun _ (c : Core) => { c with l1 := fix c.l1 }) s.cores
    cols := tabMap (fun _ (c : Column) =>
      { c with host := { c.host with l1 := fix c.host.l1 }, coh := { c.coh with lines := fix c.coh.lines, snoop := own c } }) s.cols
    directory := tabMap (fun n (d : DirLine) =>
      if n = line then { d with state := d.state.clean, owner := if d.state.clean.owns then d.owner else none } else d) s.directory }

/-- A `cctl` operation performed on a line by a holder. -/
def State.cctlLine (s : State) (a op line : Nat) : State :=
  if op = 0 then s.cleanLine line else if op = 1 then s.leaveL1 a line else (s.cleanLine line).dropLine line

end Sys2Proof.Machine
end

