-- ==== Sys2Proof/Machine/Access.lean ====
section
/-! DEFINITION. Memory accesses: effective addresses and their checks, accesses that are outstanding, how one
lane is performed, and the values that reach a destination (R139 to R148, R151 to R159, R183). -/

namespace Sys2Proof.Machine

/-! ### Sizes, addresses and checks (R76, R139 to R142) -/

/-- Bytes that a size code moves. -/
def sizeBytes (z : BitVec 3) : Nat :=
  match z.toNat with
  | 0 => 1
  | 1 => 1
  | 2 => 2
  | 3 => 2
  | 4 => 4
  | 5 => 8
  | _ => 16

/-- The size code sign-extends. -/
def sizeSigned (z : BitVec 3) : Bool := z = 1 || z = 3

/-- 32-bit words of a data operand of `n` bytes (R140). -/
def sizeWords (n : Nat) : Nat := if n ≤ 4 then 1 else n / 4

/-- The address operand of a global form: a `v` pair or a u register. -/
def globalAddr (a : RegNum) : Opd := { reg := a, role := .src, words := 2, set := .vu }

/-- The address operand of a vault form: a `v` or a u register. -/
def vaultAddr (a : RegNum) : Opd := { reg := a, role := .src, words := 1, set := .vu }

/-- A data operand that is read. -/
def dataSrc (d : RegNum) (words : Nat) : Opd := { reg := d, role := .src, words := words, set := .data }

/-- A data operand that is written. -/
def dataDst (d : RegNum) (words : Nat) : Opd := { reg := d, role := .dst, words := words, set := .data }

/-- Base plus offset in units of the size, modulo 2^64 (R139). -/
def effective (base : BitVec 128) (off : BitVec 8) (bytes : Nat) : Nat :=
  wrapInt 64 ((base.toNat % 2 ^ 64 : Nat) + off.toInt * bytes)

/-- A vault address: 32 bits of base plus offset. -/
def effectiveVault (base : BitVec 128) (off : BitVec 8) (bytes : Nat) : Nat :=
  wrapInt 64 ((base.toNat % 2 ^ 32 : Nat) + off.toInt * bytes)

/-- Step 2 of R141: address bits that must be 0. -/
def checkAddr (limit : Nat) (eas : List (Nat × Nat)) : Except Stop Unit :=
  match eas.find? fun e => limit ≤ e.2 with
  | some e => .error (.trap 6 (accInfo 1 e.2) 0)
  | none => .ok ()

/-- Step 3 of R141: alignment to `n` bytes. -/
def checkAlign (n : Nat) (eas : List (Nat × Nat)) : Except Stop Unit :=
  match eas.find? fun e => e.2 % n ≠ 0 with
  | some e => .error (.trap 4 (accInfo 0 e.2) 0)
  | none => .ok ()

/-- Step 4 over the lanes in order: their translations. -/
def State.xlateLanes (s : State) (r : Requester) (t : AccType) : List (Nat × Nat) → Except Stop (List (Nat × Nat × Xlat) × State)
  | [] => .ok ([], s)
  | (l, va) :: rest =>
    match s.translate r t va with
    | .error e => .error (s.stopOf va e)
    | .ok (x, s) => do
      let (xs, s) ← s.xlateLanes r t rest
      .ok ((l, va, x) :: xs, s)

/-- Step 5 over the lanes: the page's permission. -/
def State.permitLanes (s : State) (r : Requester) (t : AccType) (xs : List (Nat × Nat × Xlat)) : Except Stop Unit :=
  firstErr (fun x => match s.permit r t x.2.2 with
    | .error e => .error (s.stopOf x.2.1 e)
    | .ok _ => if inMailbox x.2.2.pa then .error (.fault (.hertorMailbox x.2.2.pa)) else .ok ()) xs

/-- Steps 2 to 5 of R141 for a global access of `n` aligned bytes in each lane. -/
def State.globalLanes (s : State) (t : AccType) (n : Nat) (eas : List (Nat × Nat)) :
    Except Stop (List (Nat × Nat × Xlat) × State) := do
  checkAddr (2 ^ 57) eas
  checkAlign n eas
  let (xs, s) ← s.xlateLanes (s.requester s.cur) t eas
  s.permitLanes (s.requester s.cur) t xs
  .ok (xs, s)

/-- Steps 2 to 5 for vault accesses: a team at or beyond the cluster, or an offset beyond its bytes, is VBOUND. -/
def State.vaultLanes (s : State) (n : Nat) (eas : List (Nat × Nat)) : Except Stop (List (Nat × Nat × Nat × Nat)) := do
  let eas := eas.map fun e => (e.1, e.2 % 2 ^ 32)
  checkAddr (2 ^ 25) eas
  checkAlign n eas
  let t := ctxTeam s.cur
  match eas.find? fun e => (s.vaultLoc t e.2 n).isNone with
  | some e => .error (.trap 6 (accInfo 4 e.2) 0)
  | none => .ok (eas.filterMap fun e => (s.vaultLoc t e.2 n).map fun v => (e.1, e.2, v.1, v.2))

/-! ### Outstanding accesses (R32, R145, R148) -/

/-- A lane of an access before it is performed. -/
def LaneAcc.at (lane va : Nat) (loc : Loc) : LaneAcc :=
  { lane := lane, va := va, loc := loc, data := 0, cmp := 0, fmt := 0, nib := false, ro := false, gauge := none,
    result := .pending, value := 0 }

/-- An access of the issuing context with no lanes. -/
def State.newAccess (s : State) (kind : AccKind) (bytes : Nat) : Access :=
  { id := s.fresh, kind := kind, pc := s.ctxPc s.cur, split := ctxSplit s.cur, mask := s.ctxMask s.cur, acq := false,
    rel := false, sc := false, scope := 0, size := bytes, signed := false, ro := false, wide := false, typed := false,
    op := 0, peer := false, dst := .none, lanes := [], reissue := false, fault := none, fenced := 0 }

/-- An issued access counts from now on. -/
def State.addAccess (s : State) (a : Access) : State :=
  { s.modRegs s.cur (fun r => { r with outs := r.outs ++ [{ a with id := s.fresh }] }) with fresh := s.fresh + 1 }

/-- `LDC` or `STC` has room for one more (R32); one that waits for room waits as for a resource (log 92). -/
def State.countRoom (s : State) (load : Bool) : Except Stop Unit :=
  let r := s.ctxRegs s.cur
  if (if load then r.ldc else r.stc) < 63 then .ok () else .error (.wait (.resource (.counts load)))

/-- Memory forms of a split do not issue while an acquire load or an `sc` store that some lane of it issued is
outstanding, whatever split the lane was in (R148, R266). -/
def State.memGate (s : State) : Except Stop Unit :=
  if (s.ctxRegs s.cur).outs.any fun a => a.acq && a.mask &&& s.ctxMask s.cur ≠ 0 then .error .stall else .ok ()

/-- A write that is sent at issue waits for the loads that an earlier `fence.rel` of its lanes orders before it (R265,
R268). -/
def State.fenceGate (s : State) : Except Stop Unit :=
  if (s.ctxRegs s.cur).outs.any fun a => a.fenced &&& s.ctxMask s.cur ≠ 0 then .error .stall else .ok ()

/-! ### Ordering (R148, R264, R268) -/

/-- The physical pieces that a lane of an access covers: for an element, its byte and its scales too. -/
def State.lanePieces (s : State) (a : Access) (l : LaneAcc) : List (Nat × Nat) :=
  if a.typed then elemParts l.fmt.toNat a.size (s.locPa l.loc) l.nib else [(s.locPa l.loc, a.size)]

/-- Bytes of a lane's access, as the space they lie in (0: this package; else 1 plus the node), address and length. A
request to the own node lies in this package, where the job's tables lead. -/
def State.laneSpans (s : State) (job : Nat) (a : Access) (l : LaneAcc) : List (Nat × Nat × Nat) :=
  match l.loc with
  | .peer node va =>
    let own := if node = s.node.toNat then s.translate (engineFor job (dieVia 0)) .read va else .error (.perm 0)
    match own with
    | .ok (x, _) => [(0, x.pa, a.size)]
    | .error _ => [(node + 1, va, a.size)]
  | _ => (s.lanePieces a l).map fun p => (0, p.1, p.2)

/-- Two spans share a byte. -/
def spansMeet (x y : Nat × Nat × Nat) : Bool := x.1 = y.1 && x.2.1 < y.2.1 + y.2.2 && y.2.1 < x.2.1 + x.2.2

/-- A lane of an earlier access of the same lane number shares a byte with a later one (R264). -/
def State.conflicts (s : State) (job : Nat) (earlier later : Access) : Bool :=
  earlier.lanes.any fun x => later.lanes.any fun y =>
    x.lane = y.lane && (s.laneSpans job earlier x).any fun p => (s.laneSpans job later y).any fun q => spansMeet p q

/-- The access writes. -/
def Access.writes (a : Access) : Bool := a.kind = .store || a.kind = .atomic

/-- Nothing that was issued before holds the access back: same-lane accesses to one location, everything for a release or
an `sc` operation, and loads that a `fence.rel` of one of its lanes orders before its writes (R148, R264, R267, R268). -/
def State.mayPerform (s : State) (job : Nat) (before : List Access) (a : Access) : Bool :=
  !(before.any fun e => a.rel || a.sc || (a.writes && e.fenced &&& a.mask ≠ 0) || s.conflicts job e a)

/-! ### Performing one lane -/

/-- A write of `n` bytes at an address is to be counted by the memory gauge there, if any (R183). -/
def State.countWrite (s : State) (pa n : Nat) : State :=
  match s.gaugeAt pa with
  | none => s
  | some k => { s with counts := s.counts ++ [.mem (k / 256) (k % 256) n] }

/-- Lines that a run of bytes touches. -/
def linesOf (pa n : Nat) : List Nat := span (pa / 128) ((pa % 128 + n + 127) / 128)

/-- Bytes written by an agent without a cache of its own: no cache keeps a copy of their lines, and they are counted
(R249). -/
def State.agentWrite (s : State) (pa : Nat) (bs : List Byte) : State :=
  let drop := fun (s : State) (l : Nat) => if (tabFind l s.directory).isSome then s.dropLine l else s.backInvalidate l
  (((linesOf pa bs.length).foldl drop s).physWrite pa bs).countWrite pa bs.length

/-- Bytes read by such an agent: the owners of their lines keep them shared. -/
def State.agentRead (s : State) (pa n : Nat) : State := (linesOf pa n).foldl State.shareLine s

/-- The holder of lines that a context's accesses go through. -/
def State.agent (s : State) : Ctx → Nat
  | .host c => hostAgent c
  | c => s.ctxCore c

/-- The lines of a lane are obtained for it, where caches of the package may hold them; the host gives up those that an uncached
write is for. -/
def State.obtainLane (s : State) (agent : Nat) (a : Access) (l : LaneAcc) : State :=
  if !l.ro && a.writes then (s.lanePieces a l).foldl (fun s p => s.backInvalidate (p.1 / 128)) s
  else if !l.ro || (a.ro && a.kind = .load) then s else (s.lanePieces a l).foldl (fun s p => s.obtain agent p.1 a.kind) s

/-- A store of bytes at a location, performed and counted. -/
def State.storeLoc (s : State) (loc : Loc) (bs : List Byte) : State :=
  let pa := s.locPa loc
  (s.physWrite pa bs).countWrite pa bs.length

/-- A lane's write, and its bytes' count toward the vault gauge it names (R153). -/
def State.storeLane (s : State) (size : Nat) (l : LaneAcc) : State :=
  let s := s.storeLoc l.loc (toBytes size l.data.toNat)
  match l.gauge with
  | none => s
  | some (t, off) => { s with counts := s.counts ++ [.vault t off size] }

/-- A store performed, lane after lane (R143): each lane's line is obtained and its bytes written. -/
def State.storeLanes (s : State) (agent : Nat) (a : Access) : State :=
  a.lanes.foldl (fun s l => (s.obtainLane agent a l).storeLane a.size l) s

/-- A `cctl` performed on its lanes' lines (R158). -/
def State.maintLanes (s : State) (agent : Nat) (a : Access) : State :=
  a.lanes.foldl (fun s l => s.cctlLine agent a.op.toNat (s.locPa l.loc / 128)) s

/-- The number `n` bytes at a location spell. -/
def State.loadLoc (s : State) (loc : Loc) (n : Nat) : Nat := ofBytes (s.physRead (s.locPa loc) n)

/-- The new value of an atomic and whether it is written (R155). `n` is the width in bits. -/
def atomicValue (n op : Nat) (old b d : Nat) : Nat × Bool :=
  let x := BitVec.ofNat n old
  let y := BitVec.ofNat n b
  match op with
  | 0 => ((x + y).toNat, true)
  | 1 => ((if x.toInt ≤ y.toInt then x else y).toNat, true)
  | 2 => ((if y.toInt ≤ x.toInt then x else y).toNat, true)
  | 3 => ((if x.toNat ≤ y.toNat then x else y).toNat, true)
  | 4 => ((if y.toNat ≤ x.toNat then x else y).toNat, true)
  | 5 => ((x &&& y).toNat, true)
  | 6 => ((x ||| y).toNat, true)
  | 7 => ((x ^^^ y).toNat, true)
  | 8 => (y.toNat, true)
  | 9 => (y.toNat, old % 2 ^ n = d % 2 ^ n)
  | _ => ((fAdd fp32 0 false old b).1, true)

/-- One lane of an atomic: the old value, and the state after it. -/
def State.atomicLane (s : State) (size op : Nat) (a : LaneAcc) : Nat × State :=
  let old := s.loadLoc a.loc size
  let r := atomicValue (8 * size) op old a.data.toNat a.cmp.toNat
  (old, if r.2 then s.storeLoc a.loc (toBytes size r.1) else s)

/-- The atomics of an instruction, lane after lane (R143); lanes on poisoned lines are not performed (R159). -/
def State.atomicLanes (s : State) (agent : Nat) (a : Access) : List LaneAcc → List (Nat × Nat) × State
  | [] => ([], s)
  | l :: rest =>
    if s.isPoisoned (s.locPa l.loc) then s.atomicLanes agent a rest
    else
      let (old, t) := (s.obtainLane agent a l).atomicLane a.size a.op.toNat l
      let (xs, t) := t.atomicLanes agent a rest
      ((l.lane, old) :: xs, t)

/-- What an access reads in a lane: raw bytes, or a decoded element with its flags (R49, R140, R154). -/
def State.loadLane (s : State) (a : Access) (l : LaneAcc) : Nat × Word :=
  if a.typed then
    let pa := s.locPa l.loc
    let (x, bs, band) := s.readElem l.fmt.toNat a.size pa l.nib
    let r := decodeElem l.fmt.toNat x bs band
    (if a.size ≠ 8 then r.1 % 2 ^ 32 else if l.fmt = 8 || l.fmt = 9 then wrapInt 64 (toSigned 32 r.1) else r.1, r.2)
  else
    let x := s.loadLoc l.loc a.size
    (if a.signed then wrapInt (if a.wide then 64 else 32) (toSigned (8 * a.size) x) else x, 0)

/-- The first poisoned line that a lane reads. -/
def State.lanePoison (s : State) (a : Access) (l : LaneAcc) : Option Nat :=
  (s.lanePieces a l).findSome? fun p => s.poisonIn p.1 p.2

/-! ### Delivering values -/

/-- 32-bit words that a destination's row run or register run takes for each value. -/
def Dest.words : Dest → Nat
  | .none => 0
  | .v _ n => n
  | .k _ n => 2 * n
  | .s _ n => 2 * n

/-- Values written to a destination of a context as local writes (R27, R140). `f` gives a lane's value. -/
def State.deliver (s : State) (c : Ctx) (d : Dest) (mask : Word) (f : Nat → Nat) : State :=
  match d with
  | .none => s
  | .v row n => match c with
    | .group t g _ => (upto n).foldl (fun s i =>
        s.modView t false fun tm => { tm with groups := modAt g (fun gr =>
          gr.writeRow (row + i) mask fun l => BitVec.ofNat 32 (bitsOf (f l) (32 * i) 32)) tm.groups }) s
    | _ => s
  | .k reg n =>
    let write := fun (k : KFile) => (upto n).foldl (fun (k : KFile) i =>
      { vals := tabSet (reg + i) (BitVec.ofNat 64 (bitsOf (f (lowLane mask)) (64 * i) 64)) k.vals,
        states := tabDel (reg + i) k.states }) k
    match c with
    | .group t g _ => s.modView t false fun tm =>
        { tm with groups := modAt g (fun gr => { gr with k := write gr.k }) tm.groups }
    | .seq t => s.modView t false fun tm => { tm with seq := tm.seq.map fun q => { q with k := write q.k } }
    | .host c => s.modHost c fun h => { h with k := write h.k }
  | .s reg n =>
    let write := fun (r : Tab DWord) => (upto n).foldl (fun (r : Tab DWord) i =>
      tabSet (reg + i) (BitVec.ofNat 64 (bitsOf (f (lowLane mask)) (64 * i) 64)) r) r
    match c with
    | .group _ _ _ => s
    | .seq t => s.modView t false fun tm => { tm with seq := tm.seq.map fun q => { q with s := write q.s } }
    | .host c => s.modHost c fun h => { h with s := write h.s }

/-- The lookup of a lane's value. -/
def valueAt (xs : List (Nat × Nat)) (l : Nat) : Nat := ((xs.find? fun e => e.1 = l).map (·.2)).getD 0

/-- The outstanding access `id` of a context leaves the list (R145). -/
def State.dropAccess (s : State) (c : Ctx) (id : Nat) : State :=
  s.modRegs c fun r => { r with outs := r.outs.filter fun a => a.id ≠ id }

/-- Poison or a refusal of an access of a context becomes a due trap of its group, or is taken at once by a
sequencer (R159, R170). -/
def State.postTrap (s : State) (c : Ctx) (a : Access) (cause : BitVec 8) (info : DWord) : State :=
  match c with
  | .group t g _ => s.modGroup t g fun gr =>
      { gr with posts := gr.posts ++
        [{ cause := cause, pc := a.pc, mask := a.mask, split := a.split, info := info, accessId := a.id }] }
  | .seq _ => (s.dropAccess c a.id).takeRecoverable c cause.toNat info a.pc (s.ctxPc c) a.mask
  | .host _ => s

/-! ### A host core's accesses, which complete at once (R146, R239) -/

/-- A load of the issuing host core: poison is cause 8 at the load itself. -/
def State.hostLoad (s : State) (a : Access) : Res :=
  match a.lanes.head? with
  | none => .ok s.advance
  | some l => match s.lanePoison a l with
    | some line => .error (.trap 8 (BitVec.ofNat 64 line) 0)
    | none =>
      let t := s.obtainLane (s.agent s.cur) a l
      .ok (t.deliver t.cur a.dst 1 fun _ => (t.loadLane a l).1).advance

/-- A store of the issuing host core. -/
def State.hostStore (s : State) (a : Access) : Res := .ok (s.storeLanes (s.agent s.cur) a).advance

/-- An atomic of the issuing host core. -/
def State.hostAtomic (s : State) (a : Access) : Res :=
  match a.lanes.head? with
  | none => .ok s.advance
  | some l => match s.lanePoison a l with
    | some line => .error (.trap 8 (BitVec.ofNat 64 line) 0)
    | none =>
      let r := (s.obtainLane (s.agent s.cur) a l).atomicLane a.size a.op.toNat l
      .ok (r.2.deliver s.cur a.dst 1 fun _ => r.1).advance

/-- The issue of an access: performed at once for a host core, else outstanding from now on. -/
def State.issueAccess (s : State) (a : Access) : Res :=
  match s.cur with
  | .host _ => match a.kind with
    | .load => s.hostLoad a
    | .store => s.hostStore a
    | .atomic => s.hostAtomic a
    | .maint => .ok (s.maintLanes (s.agent s.cur) a).advance
  | _ => .ok (s.addAccess a).advance

/-- Lanes that access: the lowest active one when the destination takes one value, else all (R86, R140). -/
def State.accessLanes (s : State) (d : RegNum) : List Nat := s.computing d

end Sys2Proof.Machine
end

