-- ==== Sys2Proof/Machine/Cmac.lean ====
section
/-! DEFINITION. Capabilities and their tags: the fields of R160 and R161, and AES-128 CMAC of NIST SP 800-38B (R162). -/

namespace Sys2Proof.Machine

/-! ### AES-128 -/

/-- Multiplication by x in GF(2^8). -/
def xtime (a : Nat) : Nat := if a < 128 then 2 * a else (2 * a - 256) ^^^ 0x1B

/-- Rows of the S-box of FIPS 197, 32 entries each, entry 0 in the lowest byte of the first. -/
def sboxRows : List Nat :=
  [0xc072a49cafa2d4adf04759fa7dc982ca76abd7fe2b670130c56f6bf27b777c63,
   0x75b227ebe28012079a059618c323c7041531d871f1e5a534ccf73f362693fdb7,
   0xcf584c4a39becb6a5bb1fc20ed00d153842fe329b3d63b52a05a6e1b1a2c8309,
   0xd2f3ff1021dab6bcf5389d928f40a351a89f3c507f02f94585334d43fbaaefd0,
   0xdb0b5ede14b8ee4688902a22dc4f816073195d643d7ea7c41744975fec130ccd,
   0x08ae7a65eaf4566ca94ed58d6d37c8e779e4959162acd3c25c2406490a3a32e0,
   0x9e1dc186b95735610ef6034866b53e708a8bbd4b1f74dde8c6b4a61c2e2578ba,
   0x16bb54b00f2d99416842e6bf0d89a18cdf2855cee9871e9b948ed9691198f8e1]

/-- The S-box. -/
def sbox (a : Nat) : Nat := sboxRows.getD (a / 32) 0 / 256 ^ (a % 32) % 256

/-- Byte `i` of a list. -/
def byteAt (bs : List Nat) (i : Nat) : Nat := bs.getD i 0

/-- Two byte strings added. -/
def xorBytes (a b : List Nat) : List Nat := List.zipWith (fun x y => x ^^^ y) a b

/-- SubBytes and ShiftRows of a 16-byte state held column by column. -/
def subShift (s : List Nat) : List Nat := (upto 16).map fun i => sbox (byteAt s ((i + 4 * (i % 4)) % 16))

/-- MixColumns. -/
def mixColumns (s : List Nat) : List Nat :=
  (upto 16).map fun i =>
    let c := i / 4 * 4
    let g := fun k => byteAt s (c + (i + k) % 4)
    xtime (g 0) ^^^ xtime (g 1) ^^^ g 1 ^^^ g 2 ^^^ g 3

/-- The next round key, with round constant `rc`. -/
def nextKey (rc : Nat) (k : List Nat) : List Nat :=
  let t := (upto 4).map fun i => sbox (byteAt k (12 + (i + 1) % 4)) ^^^ (if i = 0 then rc else 0)
  let w0 := xorBytes (k.take 4) t
  let w1 := xorBytes ((k.drop 4).take 4) w0
  let w2 := xorBytes ((k.drop 8).take 4) w1
  let w3 := xorBytes ((k.drop 12).take 4) w2
  w0 ++ w1 ++ w2 ++ w3

/-- Rounds that are left, from a state, its round key and the next round constant. -/
def aesRounds : Nat → Nat → List Nat → List Nat → List Nat
  | 0, rc, k, s => xorBytes (subShift s) (nextKey rc k)
  | n + 1, rc, k, s =>
    let k' := nextKey rc k
    aesRounds n (xtime rc) k' (xorBytes (mixColumns (subShift s)) k')

/-- AES-128 of one block. -/
def aes128 (key block : List Nat) : List Nat := aesRounds 9 1 key (xorBytes block key)

/-! ### CMAC -/

/-- The `n` bytes of a number, most significant first. -/
def bigEndian (n x : Nat) : List Nat := (upto n).map fun i => x / 256 ^ (n - 1 - i) % 256

/-- The number that bytes spell, most significant first. -/
def fromBig (bs : List Nat) : Nat := bs.foldl (fun x b => 256 * x + b) 0

/-- Doubling in GF(2^128). -/
def dbl128 (x : Nat) : Nat := if x < 2 ^ 127 then 2 * x else (2 * x - 2 ^ 128) ^^^ 0x87

/-- CMAC of a message of fewer than 16 bytes. -/
def cmacShort (key msg : List Nat) : List Nat :=
  let k2 := dbl128 (dbl128 (fromBig (aes128 key (bigEndian 16 0))))
  let padded := msg ++ [0x80] ++ List.replicate (15 - msg.length) 0
  aes128 key (xorBytes padded (bigEndian 16 k2))

/-- TAG of the upper 96 bits of a capability under a 128-bit key (R162). -/
def capTag (key body : Nat) : Nat := fromBig ((cmacShort (bigEndian 16 key) (bigEndian 12 body)).take 4)

/-! ### Capability fields (R160, R161) -/

/-- A capability, by its 128 bits. -/
abbrev Cap := BitVec 128

/-- TYPE. -/
def capType (c : Cap) : Nat := bitsOf c.toNat 124 4
/-- NODE. -/
def capNode (c : Cap) : Nat := bitsOf c.toNat 104 20
/-- CORE, a global core number. -/
def capCore (c : Cap) : Nat := bitsOf c.toNat 94 10
/-- Target tower. -/
def capTower (c : Cap) : Nat := bitsOf c.toNat 101 3
/-- HANDLE. -/
def capHandle (c : Cap) : Nat := bitsOf c.toNat 78 16
/-- BASE. -/
def capBase (c : Cap) : Nat := bitsOf c.toNat 68 10
/-- COUNT: registers minus 1. -/
def capCount (c : Cap) : Nat := bitsOf c.toNat 63 5
/-- Target group of LMODE. -/
def capGroup (c : Cap) : Nat := bitsOf c.toNat 58 5
/-- Scope of LMODE. -/
def capScope (c : Cap) : Nat := bitsOf c.toNat 55 3
/-- USE. -/
def capUse (c : Cap) : Bool := bitOf c.toNat 54
/-- TOVW. -/
def capTovw (c : Cap) : Bool := bitOf c.toNat 53
/-- BCAST. -/
def capBcast (c : Cap) : Bool := bitOf c.toNat 52
/-- WIDE. -/
def capWide (c : Cap) : Bool := bitOf c.toNat 51
/-- JOB. -/
def capJob (c : Cap) : Nat := bitsOf c.toNat 43 8
/-- TAG. -/
def capTagOf (c : Cap) : Nat := bitsOf c.toNat 0 32
/-- Vault offset of a gauge's 256-byte block. -/
def capBlock (c : Cap) : Nat := 256 * bitsOf c.toNat 65 13

/-- The key of a job as the fabric interfaces hold it (R162, R234). -/
def State.jobKey (s : State) (j : Nat) : Nat := (s.job j).key0.toNat + 2 ^ 64 * (s.job j).key1.toNat

/-- The tag verifies under the key of job `j`. -/
def State.tagGood (s : State) (j : Nat) (c : Cap) : Bool := capTagOf c = capTag (s.jobKey j) (c.toNat / 2 ^ 32)

end Sys2Proof.Machine
end

