-- ==== Sys2Proof/Machine/Fabric.lean ====
section
/-! DEFINITION. Tokens, sending of messages and remote requests, capabilities, armed registers, active messages
and `waitq` (R33, R160 to R177, R308, R315). -/

namespace Sys2Proof.Machine

/-! ### Status codes and tokens (R33, R34) -/

/-- OK. -/
def stOK : BitVec 4 := 0
/-- OVERWRITE. -/
def stOVERWRITE : BitVec 4 := 1
/-- NOTARMED. -/
def stNOTARMED : BitVec 4 := 2
/-- STALE. -/
def stSTALE : BitVec 4 := 3
/-- UE. -/
def stUE : BitVec 4 := 4
/-- FLOOR. -/
def stFLOOR : BitVec 4 := 5
/-- BUSY. -/
def stBUSY : BitVec 4 := 6
/-- QUIET. -/
def stQUIET : BitVec 4 := 7
/-- QUIET_WITH_LOSS. -/
def stLOSSY : BitVec 4 := 8
/-- DISCARD. -/
def stDISCARD : BitVec 4 := 9
/-- DENIED. -/
def stDENIED : BitVec 4 := 10
/-- LOST. -/
def stLOST : BitVec 4 := 11

/-- One more operation on a token. -/
def Token.attach (t : Token) : Token :=
  if t.count = 0 then { count := 1, status := stOK, info := 0 } else { t with count := t.count + 1 }

/-- One operation of a token completes: the first failure stays. -/
def Token.complete (t : Token) (status : BitVec 4) (info : Word) : Token :=
  let t := if t.status = stOK && status ≠ stOK then { t with status := status, info := info } else t
  { t with count := t.count - 1 }

/-- Token `n` of a set of registers changed. -/
def Regs.modTok (r : Regs) (n : Nat) (f : Token → Token) : Regs := { r with tok := tabMod Token.zero n f r.tok }

/-- The issuing context attaches an operation to a token; at COUNT 255 it waits. -/
def State.attach (s : State) (n : Nat) : Except Stop State :=
  if (tabGet Token.zero n (s.ctxRegs s.cur).tok).count = 255 then .error (.wait (.resource (.token n)))
  else .ok (s.modRegs s.cur fun r => r.modTok n Token.attach)

/-- The registers of a group or sequencer changed wherever they are held; an event for a saved team, whose wake
condition is then evaluated again (R297). A context whose team is gone is left alone. -/
def State.modViewRegs (s : State) (c : Ctx) (f : Regs → Regs) : State :=
  let t := ctxTeam c
  match c with
  | .group _ g _ =>
    (s.modView t true fun tm =>
      { tm with groups := modAt g (fun gr => { gr with regs := f gr.regs }) tm.groups }).evalWake (s.team t).cluster
  | .seq _ =>
    (s.modView t true fun tm =>
      { tm with seq := tm.seq.map fun q => { q with regs := f q.regs } }).evalWake (s.team t).cluster
  | .host _ => s.modRegs c f

/-- A token of a context completes. -/
def State.completeToken (s : State) (c : Ctx) (n : Nat) (status : BitVec 4) (info : Word) : State :=
  s.modViewRegs c fun r => r.modTok n fun t => t.complete status info

/-- A team is being saved or restored: what arrives for it is held (R28). -/
def State.inTransit (s : State) (t : Nat) : Bool :=
  match tabFind t s.teams with
  | none => false
  | some tm => tm.state = .saving || tm.state = .restoring

/-- The context's team is being saved or restored. -/
def State.ctxTransit (s : State) (c : Ctx) : Bool :=
  match c with
  | .host _ => false
  | c => s.inTransit (ctxTeam c)

/-- A value written to a register of a context that is not issuing (R297). -/
def State.deliverReg (s : State) (c : Ctx) (r : RegNum) (mask : Word) (x : Nat) : State :=
  match regClass (kindOf c) r with
  | .k n => s.deliver c (.k n 1) mask fun _ => x
  | .s n => s.deliver c (.s n 1) mask fun _ => x
  | _ => s

/-! ### Sending (R166, R308, R309, R320) -/

/-- Number of a stream at its sender: sending tower, destination node and tower. -/
def sendStream (m : Msg) : Nat := (m.stwr.toNat * 2 ^ 20 + m.dnode.toNat) * 8 + m.dtwr.toNat

/-- Number of a stream at its destination: sending node and tower, destination tower. -/
def recvStream (m : Msg) : Nat := (m.snode.toNat * 8 + m.stwr.toNat) * 8 + m.dtwr.toNat

/-- Every class but `ldp` is a message that INJ and CON count (R166). -/
def MsgClass.counted : MsgClass → Bool
  | .ldp => false
  | _ => true

/-- INJ, CON and LOST count the message: not a part of a copy chunk that stayed where it was sent when another part of it was
redirected (R166; log 111). -/
def Msg.counted (m : Msg) : Bool := m.cls.counted && !m.part

/-- A message of the issuing context's job with nothing in it yet; its sender is the interface of the tower. -/
def State.newMsg (s : State) (c : Ctx) (cls : MsgClass) : Msg :=
  { id := 0, cls := cls, snode := s.node, stwr := BitVec.ofNat 3 (towerOfCore (s.ctxCore c)),
    score := BitVec.ofNat 10 (s.ctxCore c), dnode := s.node, dtwr := 0, seqNo := 0, tag := 0,
    job := BitVec.ofNat 8 (s.ctxJob c), pri := BitVec.ofNat 3 (s.ctxPri c), cap := 0, reg := 0, wide := false,
    bcast := false, rel := false, toGauge := false, mask := 0, lanes := [], header := 0, addr := 0, phys := false, kept := false, pool := false, onode := s.node, ova := 0,
    size := 0, op := 0, cmp := 0, bytes := [], bad := false, redirects := 0, fault := none, writeoff := false }

/-! ### Ports (R304, R309, R316, R317, R322, R323) -/

/-- A plane or Ethernet port is up and not taken out of service. -/
def State.linkUp (s : State) (n : Nat) : Bool := s.links.getLsbD n && !s.lnkdrain.getLsbD n

/-- A node is of this package's pod. -/
def State.samePod (s : State) (n : BitVec 20) : Bool := n.toNat / 512 = s.node.toNat / 512

/-- Ports that a message of a tower's interface to another package may leave by, but for one: the tower's own planes, those of
the other towers if none of its own works, or the Ethernet ports toward another pod. -/
def State.portsFor (s : State) (tower : Nat) (dst : BitVec 20) (avoid : Option Nat) : List Nat :=
  let ok := fun (p : Nat) => s.linkUp p && some p ≠ avoid
  if s.samePod dst then
    let own := (span (4 * tower) 4).filter ok
    if own.isEmpty then (upto 32).filter ok else own
  else (span 32 4).filter ok

/-- The port of a message: by a hash of stream and number among the planes, of the stream among the Ethernet ports. A
message with no port but the one to avoid uses that one. -/
def State.pickPort (s : State) (m : Msg) (avoid : Option Nat) : Option Nat :=
  if m.dnode = s.node then none
  else
    let ps := match s.portsFor m.stwr.toNat m.dnode avoid with
      | [] => s.portsFor m.stwr.toNat m.dnode none
      | ps => ps
    let h := Sys2Proof.Config.planeHash (sendStream m) (if s.samePod m.dnode then m.seqNo.toNat else 0)
    ps[h % ps.length]?

/-- A UALinkSec plane changed. -/
def State.modPlane (s : State) (n : Nat) (f : Plane → Plane) : State := { s with planes := tabMod Plane.reset n f s.planes }

/-- IPv6 address of a node (R323). -/
def State.nodeAddr (s : State) (n : BitVec 20) : BitVec 128 :=
  BitVec.ofNat 128 ((tabGet 0 (n.toNat / 512) s.shlpfx).toNat * 2 ^ 64 + s.shliid.toNat / 512 * 512 + n.toNat % 512)

/-- CLASS of R312. -/
def MsgClass.code : MsgClass → Nat
  | .rput => 0
  | .barRarv => 1
  | .msgs => 2
  | .stp => 3
  | .atomp => 4
  | .gauge => 5
  | .chunk => 6
  | .ldp => 7

/-- What a datagram's header says beside its two ends (R322). -/
structure WireHead where
  type : Nat
  job : Nat
  ord : Nat
  cls : Nat
  seq : Nat
  pri : Nat
  status : Nat
  deriving DecidableEq, Repr

/-- Payload of something that leaves now: at most 4,096 bytes (R322). -/
def State.wireBody (s : State) : List Byte := (Sys2Proof.Config.wirePayload s.fresh).take 4096

/-- The 32-byte header of what this package sends to a tower of another node (R322, R323). -/
def State.wireHeader (s : State) (stwr dtwr : BitVec 3) (dst : BitVec 20) (h : WireHead) : BitVec 256 :=
  let back := (dst.toNat * 8 + dtwr.toNat) * 8 + stwr.toNat
  BitVec.ofNat 256 (2 ^ 252 + h.type % 16 * 2 ^ 248 + h.job % 256 * 2 ^ 240 + h.ord % 64 * 2 ^ 234 + stwr.toNat * 2 ^ 231
    + dtwr.toNat * 2 ^ 228 + h.cls % 16 * 2 ^ 224 + h.seq % 2 ^ 32 * 2 ^ 192 + s.node.toNat * 2 ^ 172 + dst.toNat * 2 ^ 152
    + h.pri % 8 * 2 ^ 149 + h.status % 32 * 2 ^ 144 + s.wireBody.length * 2 ^ 128 + (tabGet 0 back s.undecided).toNat * 2 ^ 96)

/-- A datagram of this package to a tower of another pod's node, for a port: its payload is encrypted, and header and payload are
authenticated, under the key of the pair of pods (R322, R323). -/
def State.datagram (s : State) (port : Nat) (stwr dtwr : BitVec 3) (dst : BitVec 20) (h : WireHead) : Wire :=
  let key := (tabGet ShlKey.reset (dst.toNat / 512) s.shlkeys).key
  let head := s.wireHeader stwr dtwr dst h
  let sealed := s.wireBody.mapIdx fun i b => b ^^^ Sys2Proof.Config.gcmStream key head i
  { port := port, dest := s.nodeAddr dst, udp := s.shlport.setWidth 16, header := head, payload := sealed,
    tag := Sys2Proof.Config.gcmTag key head sealed }

/-- What something is on a plane: the request of an `ldp`, `stp` or `atomp`, the response that answers one, or a write that the
header leads (R316). -/
def upliOf (type cls : Nat) (header : BitVec 256) : UpliKind :=
  let request := cls = 3 || cls = 4 || cls = 7
  if type = 0 && cls = 7 then .read
  else if type = 0 && cls = 3 then .write
  else if type = 0 && cls = 4 then .atomic
  else if type = 1 && request then .response
  else .headed header

/-- A flit that a plane sends and keeps for replay, as it is encrypted under the current key (R316, R318). -/
def Plane.sendFlit (id : Nat) (k : UpliKind) (x : Plane) : Plane :=
  { x with replay := x.replay ++ [(id, x.keyId)], upli := x.upli ++ [(id, k)] }

/-- The partner has taken a flit. -/
def Plane.taken (id : Nat) (x : Plane) : Plane :=
  { x with replay := x.replay.filter fun f => f.1 ≠ id, upli := x.upli.filter fun f => f.1 ≠ id }

/-- Something leaves by a port: as a flit on a plane, or as a datagram. -/
def State.leaveBy (s : State) (port : Option Nat) (id : Nat) (stwr dtwr : BitVec 3) (dst : BitVec 20) (h : WireHead) : State :=
  { s with
    planes := match port with
      | none => s.planes
      | some p =>
        if p < 32 then tabMod Plane.reset p (Plane.sendFlit id (upliOf h.type h.cls (s.wireHeader stwr dtwr dst h))) s.planes
        else s.planes
    shltx := match port with
      | none => s.shltx
      | some p => if p < 32 then s.shltx else s.shltx ++ [s.datagram p stwr dtwr dst h] }

/-- Order tag as 6 bits (R308; log 103). -/
def Msg.ord (m : Msg) : Nat :=
  if 3 ≤ m.cls.code && m.cls.code ≠ 5 then m.tag % 64 else (Sys2Proof.Config.orderTag m.tag).toNat

/-- A message, its retransmission (type 0) or its WRITEOFF (type 2) leaves by a port: a flit under the plane's current key
(R318), or a datagram. -/
def State.transmit (s : State) (port : Option Nat) (type : Nat) (m : Msg) : State :=
  s.leaveBy port m.id m.stwr m.dtwr m.dnode
    { type := type, job := m.job.toNat, ord := m.ord, cls := m.cls.code, seq := m.seqNo.toNat, pri := m.pri.toNat, status := 0 }

/-- A message leaves: it takes its stream's next number, counts in INJ, and waits to be acknowledged. A message to
this node is then at its destination interface; another leaves by a port. -/
def State.send (s : State) (m : Msg) (comp : Completion) : State :=
  let k := sendStream m
  let m := { m with id := s.fresh, seqNo := tabGet 0 k s.streams }
  let port := s.pickPort m none
  let t : State := { s with
    fresh := s.fresh + 1
    streams := tabSet k (m.seqNo + 1) s.streams
    sent := s.sent ++
      [{ msg := m, port := port, comp := comp, first := s.now, resent := false, writeoffs := 0, lastWriteoff := 0 }]
    inbound := if m.dnode = s.node then s.inbound ++ [m] else s.inbound }
  let u := t.transmit port 0 m
  if m.cls.counted then u.modTowerJob m.stwr.toNat m.job.toNat fun c => { c with inj := c.inj + 1 } else u

/-- Order tag of a capability message: issuing core, group slot and target handle (R308). -/
def State.capMsgTag (s : State) (c : Ctx) (cap : Cap) : Nat :=
  let slot := match c with
    | .group t g _ => (s.group t g).slot
    | _ => 0
  (s.ctxCore c * 32 + slot) * 65536 + capHandle cap

/-- A message through a capability. -/
def State.capMsg (s : State) (c : Ctx) (cls : MsgClass) (cap : Cap) : Msg :=
  { s.newMsg c cls with
    dnode := BitVec.ofNat 20 (capNode cap), dtwr := BitVec.ofNat 3 (capTower cap), tag := s.capMsgTag c cap, cap := cap }

/-- A kept translation or forwarding of the sending interface for a page (R320, R321). -/
def State.keptEntry (s : State) (tower node job va : Nat) : Option XEntry :=
  s.xlate.find? fun x => x.tower = tower && x.node = node && x.job = job && x.page = va / 65536

/-- A remote request for one address, sent by virtual address or through a kept entry (R308, R320, R321). -/
def State.remoteMsg (s : State) (c : Ctx) (cls : MsgClass) (node va : Nat) : Msg :=
  let m := { s.newMsg c cls with
    dnode := BitVec.ofNat 20 node, dtwr := BitVec.ofNat 3 (bitsOf va 16 3), tag := bitsOf va 7 6, addr := va,
    onode := BitVec.ofNat 20 node, ova := va }
  match s.keptEntry m.stwr.toNat node m.job.toNat va with
  | none => m
  | some x =>
    { m with dnode := BitVec.ofNat 20 x.fwdNode, addr := x.target * 65536 + va % 65536, phys := x.phys, pool := x.pool,
             kept := true, dtwr := x.dtwr }

/-! ### Capabilities (R163 to R165) -/

/-- Sender checks that every form makes: the type suits, USE is 1, JOB is the context's (R165). -/
def State.capUsable (s : State) (cap : Cap) (types : List Nat) : Bool :=
  types.contains (capType cap) && capUse cap && capJob cap = s.ctxJob s.cur

/-- An operation against token `t`: it attaches; one whose sender checks fail completes DENIED at once and sends
nothing; another is sent. -/
def State.tokenSend (s : State) (t : Nat) (ok : Bool) (m : Msg) : Res := do
  s.fenceGate
  let u ← s.attach t
  if ok then .ok (u.send m (.token s.cur t)).advance else .ok (u.completeToken s.cur t stDENIED 0).advance

/-- The condition of R163 for minting a type. -/
def State.mintable (s : State) (cap : Cap) : Bool :=
  let l := (s.team (ctxTeam s.cur)).launch
  match capType cap with
  | 1 => capGroup cap < lrGroups l && capBase cap + capCount cap + 1 ≤ lrRegs l
  | 2 => capGroup cap < lrGroups l && capBase cap + capCount cap + 1 ≤ 16
  | 3 => capBase cap % 256 < lrBars l
  | 4 => capBlock cap + 4352 ≤ lrVault l
  | 5 => true
  | 6 => true
  | _ => false

/-- The complete capability of R163 from the fields in `a`. DESIGN CHOICE (log 98): bits [77:51] are taken from `a` as they
are, for types 3 to 6 too, whose unused ones R161 gives as 0. -/
def State.mint (s : State) (a : Cap) : Cap :=
  let t := ctxTeam s.cur
  let line := capType a = 5
  let core := if line then 8 * s.ctxCol s.cur else homeOf t
  let handle := if line then 0 else s.handle t
  let body := capType a * 2 ^ 92 + s.node.toNat * 2 ^ 72 + core * 2 ^ 62 + handle * 2 ^ 46
    + bitsOf a.toNat 51 27 * 2 ^ 19 + s.ctxJob s.cur % 256 * 2 ^ 11
  BitVec.ofNat 128 (body * 2 ^ 32 + capTag (s.jobKey (s.ctxJob s.cur)) body)

/-- R163. -/
def execCapmk (d a : RegNum) (s : State) :=
  conclude s (do
    if s.kind = .host then s.needHost (.capmk d a) 1
    let (xs, t) ← s.operands [srcKp a, dstKp d]
    let c := nthLanes xs 0 t.low
    let ok := if t.kind = .host then capType c = 5 else t.mintable c
    .ok (t.writeOpd (dstKp d) fun _ => if ok then t.mint c else 0).advance)

/-- R164: a local check. -/
def execCapck (d a : RegNum) (s : State) :=
  conclude s (do
    let (xs, t) ← s.operands [srcKp a, dstU d]
    let c := nthLanes xs 0 t.low
    let j := t.ctxJob t.cur
    let ok := t.tagGood j c && capJob c = j && 1 ≤ capType c && capType c ≤ 6
    .ok (t.writeOpd (dstU d) fun _ => if ok then 0 else 10).advance)

/-! ### Puts (R174 to R176) -/

/-- A release waits until every earlier access of the issuing group is performed (R175, R181; log 9). -/
def State.releaseGate (s : State) : Except Stop Unit := if (s.ctxRegs s.cur).outs.isEmpty then .ok () else .error .stall

/-- Form checks of R174 at the sender. -/
def putOk (cap : Cap) (n : Nat) (wide bcast : Bool) : Bool :=
  n ≤ capCount cap && (!bcast || capBcast cap) &&
    (!wide || (capWide cap && (capType cap ≠ 1 || ((capBase cap + n) % 2 = 0 && n + 1 ≤ capCount cap))))

/-- A put's message: what it carries (R174, R176). -/
def State.putMsg (s : State) (cap : Cap) (n : BitVec 4) (f : Lanes) (wide bcast rel gauge : Bool) : Msg :=
  let one := bcast || capType cap = 2
  let v := fun l => BitVec.ofNat 64 ((f l).toNat % 2 ^ (if wide then 64 else 32))
  { s.capMsg s.cur .rput cap with
    reg := n, wide := wide, bcast := bcast, rel := rel, toGauge := gauge,
    mask := if one then BitVec.allOnes 32 else s.ctxMask s.cur,
    lanes := (upto 32).map fun l => if one then v s.low else v l }

/-- A put: `.rel`, `.b` and `.d` as given. From a sequencer to type 1 it acts as `.b`. -/
def putForm (i : Instr) (n : BitVec 4) (tok : BitVec 3) (a b : RegNum) (gauge rel bcast wide : Bool) (s : State) : Res := do
  s.needKind i [.group, .seq]
  let (xs, t) ← s.operands [srcKp a, srcAny b (if wide then 2 else 1)]
  if rel then t.releaseGate
  let cap := nthLanes xs 0 t.low
  let bc := bcast || (t.kind = .seq && !gauge && capType cap = 1)
  let form := if gauge then (!bcast || capBcast cap) && (!wide || capWide cap) else putOk cap n.toNat wide bc
  let ok := t.capUsable cap (if gauge then [4] else [1, 2]) && form
  t.tokenSend tok.toNat ok (t.putMsg cap n (nthLanes xs 1) wide bc rel gauge)

/-- R174: `x` is `.rel`, `y` is `.b`, `z` is `.d`. -/
def execRput (n : BitVec 4) (t : BitVec 3) (a b : RegNum) (x y z : Bool) (s : State) :=
  conclude s (putForm (.rput n t a b x y z) n t a b false x y z s)
/-- R176. -/
def execRputG (n : BitVec 4) (t : BitVec 3) (a b : RegNum) (x y z : Bool) (s : State) :=
  conclude s (putForm (.rputG n t a b x y z) n t a b true x y z s)

/-! ### Armed registers (R173) -/

/-- A run of `n` registers named by `d`: whether `k`, and physical numbers, after the checks of R173. -/
def State.armRun (s : State) (d : RegNum) (n : Nat) : Except Stop (Bool × List Nat) :=
  match regClass s.kind d with
  | .v r =>
    let p := s.wb + r
    if s.regsA ≤ p then .error (.trap 3 (BitVec.ofNat 64 (p % 1024)) 0)
    else if s.regsA < p + n then illegalOperand 0 else .ok (false, span p n)
  | .k r => if 16 < r + n then illegalOperand 0 else .ok (true, span r n)
  | _ => illegalOperand 0

/-- Registers of a run that an outstanding access will write make the instruction wait (R145). -/
def State.runFree (s : State) (isK : Bool) (rs : List Nat) : Except Stop Unit :=
  let c : RegClass := if isK then .k (rs.headD 0) else .v (rs.headD 0)
  if (s.ctxRegs s.cur).outs.any fun a => a.dst.overlaps c 0 (if isK then 2 * rs.length else rs.length) then .error .stall
  else .ok ()

/-- The state of a run of registers changed. -/
def State.setStates (s : State) (isK : Bool) (rs : List Nat) (f : Nat → Tab RegState → Tab RegState) : State :=
  s.modMyGroup fun g =>
    if isK then { g with k := { g.k with states := rs.foldl (fun t r => f r t) g.k.states } }
    else { g with states := rs.foldl (fun t r => f r t) g.states }

/-- R173. -/
def execArm (d : RegNum) (q : Bool) (n : BitVec 5) (s : State) :=
  conclude s (do
    s.needKind (.arm d q n) [.group]
    let (isK, rs) ← s.armRun d (n.toNat + 1)
    s.runFree isK rs
    .ok (s.setStates isK rs fun r t => tabSet r (.armedEmpty q) t).advance)

/-- R173. -/
def execDisarm (d : RegNum) (n : BitVec 5) (s : State) :=
  conclude s (do
    s.needKind (.disarm d n) [.group]
    let (isK, rs) ← s.armRun d (n.toNat + 1)
    s.runFree isK rs
    .ok (s.setStates isK rs fun r t => tabDel r t).advance)

/-! ### Active messages (R171, R172) -/

/-- Payload words of a message of `len` bytes, zero beyond its bytes. -/
def payloadWords (len : Nat) (f : Lanes) : List DWord :=
  (upto 16).map fun i =>
    let keep := min 4 (len - 4 * i)
    BitVec.ofNat 64 ((f i).toNat % 2 ^ (8 * keep))

/-- R171. -/
def execMsgs (d a b : RegNum) (tok : BitVec 3) (s : State) :=
  conclude s (do
    s.needKind (.msgs d a b tok) [.group]
    let (xs, t) ← s.operands [srcKp a, { reg := b, role := .src, words := 1, set := .v }, srcU d]
    let cap := nthLanes xs 0 t.low
    let h := (nthLanes xs 2 t.low).toNat
    let len := bitsOf h 16 7
    let ok := t.capUsable cap [6] && 1 ≤ len && len ≤ 64
    t.tokenSend tok.toNat ok { t.capMsg t.cur .msgs cap with
      header := BitVec.ofNat 64 (h % 2 ^ 23), lanes := payloadWords len (nthLanes xs 1) })

/-- One message more is counted in CON at a tower's interface (R166). -/
def State.countCon (s : State) (tower job : Nat) : State := s.modTowerJob tower job fun c => { c with con := c.con + 1 }

/-- R172: the held message is retired and counted where its receiver's interface is. -/
def execMsgd (s : State) :=
  conclude s (do
    s.needKind .msgd [.group]
    if s.myGroup.held.isNone then .ok s.advance
    else
      let t := ctxTeam s.cur
      .ok ((s.modMyGroup fun g => { g with held := none }).countCon (towerOfCore (homeOf t))
        (lrJob (s.team t).launch)).advance)

/-! ### The slack wave (R177) -/

/-- `WVCTL`.EN of a job. -/
def State.waveOn (s : State) (j : Nat) : Bool := (s.job j).wvctl.getLsbD 63

/-! ### Remote access (R168 to R170) -/

/-- The address operand of a remote form: a `v` quad or an even `k` pair. -/
def peerAddr (a : RegNum) : Opd := { reg := a, role := .src, words := 4, set := .vk }

/-- A peer address: node, virtual address after the offset, and whether its reserved bits and bits [63:57] of the effective
address are 0. -/
def peerParts (x : BitVec 128) (off : BitVec 8) (bytes : Nat) : Nat × Nat × Bool :=
  let ea := wrapInt 64 ((bitsOf x.toNat 0 57 : Nat) + off.toInt * bytes)
  (bitsOf x.toNat 64 20, ea, bitsOf x.toNat 57 7 = 0 && bitsOf x.toNat 84 44 = 0 && ea < 2 ^ 57)

/-- Steps 2 and 3 of R141 at the issuing core. -/
def checkPeer (bytes : Nat) (ls : List (Nat × Nat × Nat × Bool)) : Except Stop Unit := do
  match ls.find? fun e => !e.2.2.2 with
  | some e => .error (.trap 6 (accInfo 1 e.2.2.1) 0)
  | none => .ok ()
  checkAlign bytes (ls.map fun e => (e.1, e.2.2.1))

/-- The request that one lane of a remote access sends. -/
def State.peerMsg (s : State) (a : Access) (l : LaneAcc) : Msg :=
  let cls := match a.kind with
    | .store => MsgClass.stp
    | .atomic => MsgClass.atomp
    | _ => MsgClass.ldp
  match l.loc with
  | .peer node va =>
    { s.remoteMsg s.cur cls node va with
      size := a.size, op := a.op, cmp := l.cmp, bytes := toBytes a.size l.data.toNat }
  | _ => s.newMsg s.cur cls

/-- Node that a lane names. -/
def LaneAcc.node (l : LaneAcc) : Nat :=
  match l.loc with
  | .peer n _ => n
  | _ => 0

/-- Lanes in the order in which their requests leave: a part for each node, by the lowest lane that names it (R169). -/
def partLanes (ls : List LaneAcc) : List LaneAcc :=
  (ls.map LaneAcc.node).eraseDups.flatMap fun n => ls.filter fun l => l.node = n

/-- An unacknowledged request of a lane for the line that a request of it first names went by another stream, whose order against
it nothing gives (R167). The lane's requests count whatever split it issued them in. -/
def State.otherStream (s : State) (lane : Nat) (m : Msg) : Bool :=
  s.sent.any fun x => x.msg.onode = m.onode && x.msg.ova / 128 = m.ova / 128 && sendStream x.msg ≠ sendStream m &&
    match x.comp with
    | .access c _ l => l = lane && engCtx c = engCtx s.cur
    | _ => false

/-- A remote access issues: one request for each lane, part after part, and the access is outstanding. It waits for an earlier
access of a lane to the same place that is no remote one (R264). A host core waits for the answer. -/
def State.issuePeer (s : State) (a : Access) : Res :=
  let id := s.fresh
  let near := (s.ctxRegs s.cur).outs.any fun e => !e.peer && s.conflicts (s.ctxJob s.cur) e a
  if near || a.lanes.any fun l => s.otherStream l.lane (s.peerMsg a l) then .error .stall
  else
    let t := s.addAccess { a with peer := true }
    let t := (partLanes a.lanes).foldl (fun u l => u.send (u.peerMsg a l) (.access s.cur id l.lane)) t
    match s.cur with
    | .host _ => .ok (t.setWait s.cur .answer)
    | _ => .ok t.advance

/-- The lanes of a remote form with their addresses. -/
def peerLanes (ls : List Nat) (f : Lanes) (off : BitVec 8) (n : Nat) : List (Nat × Nat × Nat × Bool) :=
  ls.map fun l => (l, peerParts (f l) off n)

/-- R168. -/
def execLdp (d a : RegNum) (z : BitVec 3) (o : BitVec 8) (s : State) :=
  conclude s (do
    let n := sizeBytes z
    let (xs, t) ← s.operands [peerAddr a, dataDst d (sizeWords n)]
    t.memGate
    t.countRoom true
    let ls := peerLanes (t.accessLanes d) (nthLanes xs 0) o n
    checkPeer n ls
    t.issuePeer { t.newAccess .load n with
      signed := sizeSigned z, wide := t.oneResult d, dst := t.destOf (dataDst d (sizeWords n)),
      lanes := ls.map fun e => LaneAcc.at e.1 e.2.2.1 (.peer e.2.1 e.2.2.1) })

/-- R168. -/
def execStp (d a : RegNum) (z : BitVec 3) (o : BitVec 8) (s : State) :=
  conclude s (do
    let n := sizeBytes z
    let (xs, t) ← s.operands [peerAddr a, dataSrc d (sizeWords n)]
    t.memGate
    t.fenceGate
    t.countRoom false
    let ls := peerLanes t.lanes (nthLanes xs 0) o n
    checkPeer n ls
    t.issuePeer { t.newAccess .store n with
      lanes := ls.map fun e => { LaneAcc.at e.1 e.2.2.1 (.peer e.2.1 e.2.2.1) with data := nthLanes xs 1 e.1 } })

/-- A remote atomic of `n` bytes. -/
def peerAtomic (d a b : RegNum) (n : Nat) (op : BitVec 4) (s : State) : Res := do
  let w := sizeWords n
  let dst : Opd := { reg := d, role := if op = 9 then .both else .dst, words := w, set := .atomDst }
  let (xs, t) ← s.operands [peerAddr a, dataSrc b w, dst]
  t.memGate
  t.fenceGate
  t.countRoom true
  let ls := peerLanes t.lanes (nthLanes xs 0) 0 n
  checkPeer n ls
  t.issuePeer { t.newAccess .atomic n with
    op := op, wide := t.oneResult d, dst := t.destOf dst,
    lanes := ls.map fun e =>
      { LaneAcc.at e.1 e.2.2.1 (.peer e.2.1 e.2.2.1) with
        data := BitVec.ofNat 128 ((nthLanes xs 1 e.1).toNat % 2 ^ (8 * n)), cmp := (nthLanes xs 2 e.1).setWidth 64 } }

/-- R168. -/
def execAtomp (d a b : RegNum) (o : BitVec 4) (s : State) := conclude s (peerAtomic d a b 4 o s)
/-- R168. -/
def execAtompD (d a b : RegNum) (o : BitVec 4) (s : State) := conclude s (peerAtomic d a b 8 o s)

end Sys2Proof.Machine
end

