-- ==== Sys2Proof/Machine/Sync.lean ====
section
/-! DEFINITION. Barriers, gauges and waits on tokens (R37, R178 to R188). -/

namespace Sys2Proof.Machine

/-! ### Barriers -/

/-- The barrier that `bN` names, or the illegal-operand trap of R178. -/
def State.needBarrier (s : State) (n : Nat) : Except Stop (Nat × Nat) :=
  match s.barrierOf (ctxTeam s.cur) n with
  | none => illegalOperand 0
  | some b => .ok b

/-- Barrier `n` of a team, wherever it is held. -/
def State.barrier (s : State) (t n : Nat) : Barrier := tabGet Barrier.zero n (s.view t).barriers

/-- Splits of a group that wait for a barrier's phase pass when it has come. -/
def Group.passBarrier (hit : Nat → Bool) (phase : Bool) (g : Group) : Group :=
  { g with splits := g.splits.map fun p => match p.wait with
      | .barrier n arv => if p.valid && hit n && phase != arv then p.next else p
      | _ => p }

/-- Every resident split that waits for barrier `n` of team `t` passes when its phase has come (R180). -/
def State.passBarrier (s : State) (t n : Nat) : State :=
  let phase := (s.barrier t n).phase.getLsbD 0
  (s.clusterTeams (s.team t).cluster).foldl (fun s u =>
    if (s.team u).state = .resident then
      let hit := fun m => s.barrierOf u m = some (t, n)
      s.modTeam u fun tm => { tm with groups := tm.groups.map (Group.passBarrier hit phase) }
    else s) s

/-- One arrival at a barrier, wherever it is held (R37, R180, R181). -/
def State.arriveAt (s : State) (t n : Nat) : State :=
  let set := fun (tm : Team) => { tm with barriers := tabMod Barrier.zero n Barrier.arrive tm.barriers }
  ((s.modView t true set).passBarrier t n).evalWake (s.team t).cluster

/-- R179. DESIGN CHOICE (log 116): the barrier number (R178) is checked before the registers (R19). -/
def execBarInit (a : RegNum) (n : BitVec 8) (s : State) :=
  conclude s (do
    s.needKind (.barInit a n) [.group]
    let (bt, bn) ← s.needBarrier n.toNat
    let (xs, t) ← s.operands [{ reg := a, role := .src, words := 1, set := .vu }]
    let x : BitVec 16 := (nthLanes xs 0 t.low).setWidth 16
    if x = 0 then illegalOperand 0
    else
      let set := fun (tm : Team) =>
        { tm with barriers := tabMod Barrier.zero bn (fun b => { b with expected := x, arrivals := 0 }) tm.barriers }
      .ok (t.modView bt false set).advance)

/-- The arrival bit of the issuing group for `bN`. -/
def State.arvBit (s : State) (n : Nat) : Bool := s.myGroup.arv.getLsbD n

/-- Bit `n` of a 256-bit word set to `b`. -/
def setBit256 (x : BitVec 256) (n : Nat) (b : Bool) : BitVec 256 :=
  if b then x ||| ((1 : BitVec 256) <<< n) else x &&& ~~~((1 : BitVec 256) <<< n)

/-- R180: a release, so earlier accesses of the group are performed first (R175). -/
def execBarArv (n : BitVec 8) (s : State) :=
  conclude s (do
    s.needKind (.barArv n) [.group]
    let (bt, bn) ← s.needBarrier n.toNat
    s.releaseGate
    let phase := (s.barrier bt bn).phase.getLsbD 0
    let t := s.modMyGroup fun g => { g with arv := setBit256 g.arv n.toNat phase }
    .ok (t.advance.arriveAt bt bn))

/-- R180. -/
def execBarWait (n : BitVec 8) (s : State) :=
  conclude s (do
    s.needKind (.barWait n) [.group]
    let (bt, bn) ← s.needBarrier n.toNat
    if (s.barrier bt bn).phase.getLsbD 0 = s.arvBit n.toNat then .error (.wait (.barrier n.toNat (s.arvBit n.toNat)))
    else .ok s.advance)

/-- R181. -/
def execBarRarv (a : RegNum) (tok : BitVec 3) (s : State) :=
  conclude s (do
    s.needKind (.barRarv a tok) [.group, .seq]
    let (xs, t) ← s.operands [srcKp a]
    t.releaseGate
    let cap := nthLanes xs 0 t.low
    t.tokenSend tok.toNat (t.capUsable cap [3]) (t.capMsg t.cur .barRarv cap))

/-! ### Memory gauges (R186) -/

/-- The home agent of a physical address that has contents. -/
def State.homeAgent (s : State) (pa : Nat) : Option Nat :=
  match s.place pa with
  | .hbm => some (pa / 2 ^ 36)
  | .window => some (if pa < 2 ^ 51 then 0 else 15)
  | _ => none

/-- The physical pages of `n` virtual pages from an address, with translation alone. -/
def State.gaugePages (s : State) (r : Requester) (va : Nat) : Nat → Except Stop (List Nat × State)
  | 0 => .ok ([], s)
  | n + 1 =>
    match s.translate r .read va with
    | .error e => .error (s.stopOf va e)
    | .ok (x, s) => do
      let (ps, s) ← s.gaugePages r (va + 65536) n
      .ok (x.pa / 65536 :: ps, s)

/-- The one home agent of all the pages, if there is one. -/
def State.oneAgent (s : State) (pages : List Nat) : Option Nat :=
  match pages with
  | [] => none
  | p :: ps =>
    match s.homeAgent (p * 65536) with
    | none => none
    | some h => if ps.all fun q => s.homeAgent (q * 65536) = some h then some h else none

/-- A free entry of a home agent, of 256. -/
def State.freeGauge (s : State) (agent : Nat) : Option Nat :=
  (upto 256).find? fun e => (tabFind (gaugeKey agent e) s.mgauges).isNone

/-- The 128 bytes of a parameter block, read under the issuing context's tables. -/
def State.readBlock (s : State) (va : Nat) : Except Stop (List Byte × State) := do
  let r := s.requester s.cur
  checkAddr (2 ^ 57) [(0, va), (0, va + 127)]
  let (xs, s) ← s.xlateLanes r .read [(0, va), (0, va + 127)]
  s.permitLanes r .read xs
  let first := ((xs.head?).map fun x => x.2.2.pa).getD 0
  let last := ((xs.getLast?).map fun x => x.2.2.pa).getD 0
  let n := min 128 (65536 - va % 65536)
  match (s.poisonIn first n).or (s.poisonIn last 1) with
  | some line => .error (.trap 8 (BitVec.ofNat 64 line) 0)
  | none => .ok (s.physRead first n ++ s.physRead (last / 65536 * 65536) (128 - n), s)

/-- Result of `gset`: status, entry and home agent. -/
def gsetWord (status : BitVec 4) (entry agent : Nat) : Nat := status.toNat + 256 * entry + 65536 * agent

/-- A gauge is attached, or the status that says why not. -/
def State.attachGauge (s : State) (block : List Byte) (pages : List Nat) : Nat × State :=
  let total := BitVec.ofNat 32 (ofBytes (block.take 4))
  let taken := pages.any fun p => s.mgauges.any fun g => g.2.pages.contains p
  match s.oneAgent pages with
  | none => (gsetWord stDENIED 0 0, s)
  | some h =>
    if total = 0 || taken then (gsetWord stDENIED 0 0, s)
    else match s.freeGauge h with
      | none => (gsetWord stBUSY 0 0, s)
      | some e =>
        let g : MGauge :=
          { pages := pages, job := BitVec.ofNat 8 (s.ctxJob s.cur), limit := BitVec.ofNat 3 (s.ctxPri s.cur),
            total := total, count := 0, gen := 0, action := BitVec.ofNat 4 (bitsOf (ofBytes ((block.drop 4).take 4)) 28 4),
            params := block }
        (gsetWord stOK e h, { s with mgauges := tabSet (gaugeKey h e) g s.mgauges })

/-- Splits of a group that wait on a detached gauge end their `gwait.m`. -/
def State.endGaugeWaits (s : State) (handle : Nat) : State :=
  let hit := fun (w : Wait) => match w with
    | .gauge true loc _ d => if loc.toNat = handle then some d else none
    | _ => none
  let ctxs := s.teams.flatMap fun e =>
    if e.2.state ≠ .resident then [] else
    (e.2.groups.mapIdx fun g gr => gr.splits.mapIdx fun p sp =>
      if sp.valid then (hit sp.wait).map fun d => (Ctx.group e.1 g p, d) else none).flatten.filterMap id
    ++ (match e.2.seq with
        | none => []
        | some q => ((hit q.wait).map fun d => (Ctx.seq e.1, d)).toList)
  ctxs.foldl (fun s c => (s.deliverReg c.1 c.2 1 (2 ^ 64 - 1)).advanceOf c.1) s

/-- A grid's part that waits on a gauge never starts (R186 step 1). -/
def GridPart.detach (agent entry gen : Nat) (p : GridPart) : GridPart :=
  if lrDep p.launch && lrDha p.launch = agent && lrDent p.launch = entry && !p.met then
    if genReached gen (lrDgen p.launch) then { p with met := true } else { p with denied := true }
  else p

/-- The gauge a handle names is detached (R186). -/
def State.detachGauge (s : State) (handle : Nat) : State :=
  match s.gaugeOf handle with
  | none => s
  | some g =>
    let agent := bitsOf handle 16 4
    let entry := bitsOf handle 8 8
    let cut := fun (q : Grid) => { q with parts := q.parts.map (GridPart.detach agent entry g.gen.toNat) }
    let cols := tabMap (fun _ (col : Column) => { col with grids := col.grids.map cut }) s.cols
    let s := { s with mgauges := tabDel (gaugeKey agent entry) s.mgauges, cols := cols }
    (s.settle.endGaugeWaits handle).evalWakes

/-- A gauge whose counts are all made: none is still to be counted. -/
def State.gaugeBusy (s : State) (handle : Nat) : Bool :=
  s.counts.any fun i => match i with
    | .mem a e _ => a = bitsOf handle 16 4 && e = bitsOf handle 8 8
    | _ => false

/-- R186: the parameter block is copied, then the region is translated. A detach waits for counts in progress. -/
def execGset (d a b : RegNum) (s : State) :=
  conclude s (do
    let (xs, t) ← s.operands [srcU a, srcKp b, dstU d]
    let addr := (nthLanes xs 0 t.low).toNat % 2 ^ 64
    let region := (nthLanes xs 1 t.low).toNat
    let base := bitsOf region 0 64
    let len := bitsOf region 64 64
    let finish := fun (x : Nat) (u : State) => (u.writeOpd (dstU d) fun _ => BitVec.ofNat 128 x).advance
    if len = 0 then
      if t.gaugeBusy addr then .error .stall else .ok (finish 0 (t.detachGauge addr))
    else
      let (block, t) ← t.readBlock addr
      if base % 65536 ≠ 0 || len % 65536 ≠ 0 || 2 ^ 32 < len || 2 ^ 57 < base + len then
        .ok (finish (gsetWord stDENIED 0 0) t)
      else
        let (pages, t) ← t.gaugePages (t.requester t.cur) base (len / 65536)
        let (x, t) := t.attachGauge block pages
        .ok (finish x t))

/-- R187. DESIGN CHOICE (log 119): all 64 bits of a vault address count, so that a bit above the vault range is VBOUND. -/
def execGwait (d a b : RegNum) (mem acq : Bool) (s : State) :=
  conclude s (do
    s.needKind (.gwait d a b mem acq) [.group, .seq]
    let (xs, t) ← s.operands [srcU a, srcU b, dstU d]
    let loc := (nthLanes xs 0 t.low).toNat % 2 ^ 64
    let g : Word := (nthLanes xs 1 t.low).setWidth 32
    let gen ← (if mem then .ok ((t.gaugeOf loc).map fun q => q.gen.toNat)
      else if loc % 16 ≠ 0 then .error (.trap 4 (accInfo 0 loc) 0)
      else match (if loc < 2 ^ 25 then t.vaultLoc (ctxTeam t.cur) loc 16 else none) with
        | none => .error (.trap 6 (accInfo 4 loc) 0)
        | some (r, o) => .ok (some (t.vaultNat r (o + 8) 4)) : Except Stop (Option Nat))
    match gen with
    | none => .ok (t.writeOpd (dstU d) fun _ => BitVec.ofNat 128 (2 ^ 64 - 1)).advance
    | some n =>
      if genReached n g.toNat then .ok (t.writeOpd (dstU d) fun _ => BitVec.ofNat 128 n).advance
      else .error (.wait (.gauge mem (BitVec.ofNat 64 loc) g d)))

/-- R188. -/
def execWaitk (m : BitVec 8) (s : State) :=
  conclude s (do
    s.needKind (.waitk m) [.group, .seq]
    if tokensDone (s.ctxRegs s.cur) m then .ok s.advance else .error (.wait (.token m)))

end Sys2Proof.Machine
end

