-- ==== Sys2Proof/Machine/Matrix.lean ====
section
/-! DEFINITION. The matrix engine: queued commands, operand tiles, k-steps, chains and audit records (R62 to R69,
R189 to R205, R347). -/

namespace Sys2Proof.Machine

/-! ### Formats of the engine (R62, R200) -/

/-- Class of a format code: {2, 3}, {4, 5}, {8}, {6, 7}. -/
def fmtClass (code : Nat) : Option Nat :=
  match code with
  | 2 => some 0
  | 3 => some 0
  | 4 => some 1
  | 5 => some 1
  | 8 => some 2
  | 6 => some 3
  | 7 => some 3
  | _ => none

/-- K of an `mma` of a class. -/
def classK (cls : Nat) : Nat := if cls = 0 then 32 else if cls = 3 then 128 else 64

/-- Byte and nibble of element `k` of a line (R197). -/
def elemPos (cls k : Nat) : Nat × Bool := if cls = 0 then (2 * k, false) else if cls = 3 then (k / 2, k % 2 = 1) else (k, false)

/-- An operand as the engine has read it: 32 lines of 64 bytes, 16 block scales a line, a band scale a line, and the
format codes of a line before and from an offset. -/
structure Tile where
  bytes : List Byte
  scales : List Byte
  bands : List Nat
  codes : List (Nat × Nat × Nat)
  deriving DecidableEq, Repr

/-- The band scale 1 (R48, R200). -/
def bandOne : Nat := 0x3F8000

/-- A tile of one format with band scale 1. -/
def Tile.plain (code : Nat) (bytes scales : List Byte) : Tile :=
  { bytes := bytes, scales := scales, bands := List.replicate 32 bandOne, codes := List.replicate 32 (code, 64, code) }

/-- Format code of the byte at an offset of a line. -/
def Tile.code (t : Tile) (line off : Nat) : Nat :=
  let c := t.codes.getD line (0, 0, 0)
  if off < c.2.1 then c.1 else c.2.2

/-- Element `k` of a line, decoded. -/
def Tile.elem (t : Tile) (cls line k : Nat) : FVal :=
  let o := elemPos cls k
  let raw := ofBytes ((t.bytes.drop (64 * line + o.1)).take (if cls = 0 then 2 else 1))
  let x := if cls = 3 then (if o.2 then raw / 16 else raw % 16) else raw
  decodedValue (t.code line o.1) x (t.scales.getD (16 * line + k / 8) 0).toNat (t.bands.getD line 0)

/-- Every code of the tile is of a class. -/
def Tile.inClass (t : Tile) (cls : Nat) : Bool := t.codes.all fun c => fmtClass c.1 = some cls && fmtClass c.2.2 = some cls

/-! ### Reading operands (R199, R205) -/

/-- Why the engine cannot read an operand: a replayed fault, a cause of DENIED, or poison. -/
inductive EngErr where
  | page (f : FaultAt)
  | denied
  | ue
  deriving DecidableEq, Repr

/-- An access error as an engine meets it. -/
def engErr : AccErr → EngErr
  | .page f => .page f
  | .perm _ => .denied

/-- The pieces of `n` bytes from a virtual address that lie in one 64 KiB page each. -/
def pagePieces (va n : Nat) : List (Nat × Nat) :=
  let k := 65536 - va % 65536
  if n ≤ k then [(va, n)] else [(va, k), (va + k, n - k)]

/-- Translated pieces: physical address, length, leaf entry. -/
def State.engPieces (s : State) (r : Requester) (t : AccType) : List (Nat × Nat) →
    Except EngErr (List (Nat × Nat × Nat) × State)
  | [] => .ok ([], s)
  | (va, n) :: rest =>
    if 2 ^ 57 < va + n then .error .denied
    else match s.access r t va with
      | .error e => .error (engErr e)
      | .ok (x, s) => do
        let (xs, s) ← (if t = .read then s.agentRead x.pa n else s).engPieces r t rest
        .ok ((x.pa, n, x.entry) :: xs, s)

/-- Some line that the pieces touch is poisoned. -/
def State.anyPoison (s : State) (ps : List (Nat × Nat)) : Bool := ps.any fun p => (s.poisonIn p.1 p.2).isSome

/-- One line of a global operand: bytes, block scales, band scale, codes. -/
def State.globalLine (s : State) (r : Requester) (geom va : Nat) :
    Except EngErr ((List Byte × List Byte × Nat × (Nat × Nat × Nat)) × State) := do
  let (ps, s) ← s.engPieces r .read (pagePieces va 64)
  let pa := (ps.headD (0, 0, 0)).1
  let code := fun (p : Nat × Nat × Nat) => leafFmt p.2.2
  if ps.any fun p => formatBad p.2.2 p.1 || (code p = 7 && (leafGeom p.2.2 ≠ geom || pa % 64 ≠ 0)) then .error .denied
  else
    let so := scaleOffsets (pa % 65536) false
    let piece := pa / 65536 * 65536
    let seven := ps.any fun p => code p = 7
    let extra := if seven then [(piece + so.1, 16), (piece + so.2, 4)] else []
    if s.anyPoison (ps.map (fun p => (p.1, p.2.1)) ++ extra) then .error .ue
    else
      .ok ((ps.flatMap fun p => s.physRead p.1 p.2.1, s.physRead (piece + so.1) 16,
        ofBytes (s.physRead (piece + so.2) 3),
        (code (ps.headD (0, 0, 0)), (ps.headD (0, 0, 0)).2.1, code (ps.getLastD (0, 0, 0)))), s)

/-- The lines of a global operand. -/
def State.globalLines (s : State) (r : Requester) (geom : Nat) : List Nat → Except EngErr (Tile × State)
  | [] => .ok ({ bytes := [], scales := [], bands := [], codes := [] }, s)
  | va :: rest => do
    let (l, s) ← s.globalLine r geom va
    let (t, s) ← s.globalLines r geom rest
    .ok ({ bytes := l.1 ++ t.bytes, scales := l.2.1 ++ t.scales, bands := l.2.2.1 :: t.bands, codes := l.2.2.2 :: t.codes }, s)

/-! Fields of a descriptor (R199). -/
/-- SPACE. -/
def dGlobal (d : BitVec 128) : Bool := bitOf d.toNat 127
/-- GADDR. -/
def dGaddr (d : BitVec 128) : Nat := bitsOf d.toNat 64 57
/-- FMT. -/
def dFmt (d : BitVec 128) : Nat := bitsOf d.toNat 60 4
/-- TPITCH. -/
def dTpitch (d : BitVec 128) : Nat := bitsOf d.toNat 40 16
/-- RPITCH. -/
def dRpitch (d : BitVec 128) : Nat := bitsOf d.toNat 28 12
/-- BASE. -/
def dBase (d : BitVec 128) : Nat := bitsOf d.toNat 0 21

/-- Vault addresses of the lines, and for code 7 of their block scales, with lengths. -/
def descVault (d : BitVec 128) (code : Nat) : List (Nat × Nat) :=
  (upto 32).map (fun i => (16 * (dBase d + i * dRpitch d), 64)) ++
    (if code = 7 then (upto 32).map fun i => (16 * (dBase d + dTpitch d + i), 16) else [])

/-- An operand in the vault. -/
def State.vaultTile (s : State) (t : Nat) (d : BitVec 128) (code : Nat) : Except EngErr Tile :=
  let locs := (descVault d code).map fun e => (s.vaultLoc t e.1 e.2).map fun v => (s.vaultPa v.1 v.2, e.2)
  if locs.any Option.isNone then .error .denied
  else
    let ps := locs.filterMap id
    if s.anyPoison ps then .error .ue
    else .ok (Tile.plain code ((ps.take 32).flatMap fun p => s.physRead p.1 p.2)
      ((ps.drop 32).flatMap fun p => s.physRead p.1 p.2))

/-- A global operand: its lines lie by RPITCH, or follow one another in a unit for code 7. -/
def State.globalTile (s : State) (r : Requester) (d : BitVec 128) (isB : Bool) : Except EngErr (Tile × State) :=
  match s.access r .read (dGaddr d) with
  | .error e => .error (engErr e)
  | .ok (x, s) =>
    let seven := leafFmt x.entry = 7
    if seven && dGaddr d % 0x800 ≠ 0 then .error .denied
    else s.globalLines r (if isB then 2 else 1)
      ((upto 32).map fun i => dGaddr d + (if seven then 64 * i else 16 * i * dRpitch d))

/-- An operand as it is read for a k-step; a register tile of format 15 gets its format from the other one later. -/
def State.readTile (s : State) (team : Nat) (op : MOperand) (fmt : Nat) (isB : Bool) : Except EngErr (Tile × State) :=
  match op with
  | .tile bytes scales => .ok (Tile.plain fmt bytes scales, s)
  | .desc d =>
    if dGlobal d then s.globalTile (s.teamEngine team) d isB
    else (s.vaultTile team d fmt).map fun t => (t, s)

/-- A register tile of format 15 takes the other operand's format (R200). DESIGN CHOICE (log 120): of an operand over pages of
several codes, the code of the first byte of its line 0. -/
def Tile.follow (t o : Tile) : Tile :=
  if t.code 0 0 = 15 then { t with codes := List.replicate 32 (o.code 0 0, 64, o.code 0 0) } else t

/-- Both operands and their class; page codes that R200 does not allow are refused. -/
def State.readTiles (s : State) (team : Nat) (a b : MOperand) (fa fb : BitVec 4) :
    Except EngErr (Tile × Tile × Nat × State) := do
  let (x, s) ← s.readTile team a fa.toNat false
  let (y, s) ← s.readTile team b fb.toNat true
  let x' := x.follow y
  let y' := y.follow x
  match fmtClass (x'.code 0 0) with
  | none => .error .denied
  | some c => if x'.inClass c && y'.inClass c then .ok (x', y', c, s) else .error .denied

/-! ### Arithmetic of a k-step (R63 to R65) -/

/-- Exact sum of the products of a segment for line `i` of A and line `j` of B. DESIGN CHOICE (log 100): the sign of an exact
zero sum, which R63 does not give, is negative only when every product is a negative zero. -/
def segSum (x y : Tile) (cls q i j : Nat) : FVal :=
  let n := classK cls / 4
  (span (q * n) n).foldl (fun acc k => acc.add 0 ((x.elem cls i k).mul (y.elem cls j k))) (.fin true 0 0)

/-- The integer an exact finite value is; 0 for any other. -/
def FVal.toInteger : FVal → Int
  | .fin n m e => signedInt n (m <<< e.toNat)
  | _ => 0

/-- A word after one segment: wrapping for class 2, else one rounding into FP32 of the scaled sum. -/
def stepWord (x y : Tile) (cls q i j : Nat) (sa sb old : Word) : Word :=
  let sum := segSum x y cls q i j
  if cls = 2 then BitVec.ofInt 32 (toSigned 32 old.toNat + sum.toInteger)
  else
    let scaled := (sum.mul (fp32.value sa.toNat)).mul (fp32.value sb.toNat)
    BitVec.ofNat 32 (fp32.round 0 false ((fp32.value old.toNat).add 0 scaled)).1

/-- A bank after one k-step. -/
def Bank.kstep (b : Bank) (x y : Tile) (cls q : Nat) (sa sb : Word) : Bank :=
  { b with
    words := (upto 1024).map fun w => (w, stepWord x y cls q (w / 32) (w % 32) sa sb (tabGet 0 w b.words))
    steps := b.steps + 1 }

/-! ### Audit (R67, R68) -/

/-- What the checker has found so far. -/
structure Audit where
  rel : Option Nat
  abs : Nat
  row : Nat
  col : Nat
  nanref : Bool
  engnan : Bool
  zref : Bool
  deriving DecidableEq, Repr

/-- The checker's `ref` for an element, floating. -/
def auditRef (x y : Tile) (cls i j : Nat) (sa sb : Word) : Nat :=
  (upto (classK cls)).foldl (fun r k =>
    let p := ((x.elem cls i k).mul (fp32.value sa.toNat)).mul ((y.elem cls j k).mul (fp32.value sb.toNat))
    (fp32.round 0 false (p.add 0 (fp32.value r))).1) 0

/-- The checker's `eng` for an element. -/
def auditEng (x y : Tile) (cls i j : Nat) (sa sb : Word) : Word :=
  [0, 1, 2, 3].foldl (fun e q => stepWord x y cls q i j sa sb e) 0

/-- A value is finite. -/
def FVal.isFin : FVal → Bool
  | .fin _ _ _ => true
  | _ => false

/-- One element compared. DESIGN CHOICE (log 100): where `eng` and `ref` are both NaN or the same infinity, the element that R67
leaves out of the comparison sets none of the bits of R68 either. -/
def Audit.element (u : Audit) (i j eng ref : Nat) : Audit :=
  let e := fp32.value eng
  let r := fp32.value ref
  if (e.isNan && r.isNan) || (!e.isNan && !e.isFin && eng = ref) then u
  else if !r.isFin then { u with nanref := true }
  else if !e.isFin then { u with engnan := true }
  else
    let dev := (fp32.round 0 false (e.add 0 r.negate)).1 % 2 ^ 31
    if r.isZero then { u with abs := max u.abs dev, zref := true }
    else
      let rel := (fDiv 0 false dev (ref % 2 ^ 31)).1
      match u.rel with
      | none => { u with rel := some rel, row := i, col := j }
      | some m => if m < rel then { u with rel := some rel, row := i, col := j } else u

/-- One element of an INT8 tile: `eng` and `ref` are equal. -/
def Audit.intElement (u : Audit) (i j ref : Nat) : Audit :=
  if ref = 0 then { u with zref := true }
  else match u.rel with
    | none => { u with rel := some 0, row := i, col := j }
    | some _ => u

/-- The comparison of a tile, element after element in row-major order. -/
def auditTile (x y : Tile) (cls : Nat) (sa sb : Word) : Audit :=
  (upto 1024).foldl (fun u w =>
    let i := w / 32
    let j := w % 32
    let eng := (auditEng x y cls i j sa sb).toNat
    if cls = 2 then u.intElement i j eng else u.element i j eng (auditRef x y cls i j sa sb))
    { rel := none, abs := 0, row := 0, col := 0, nanref := false, engnan := false, zref := false }

/-- The audit record (R68). -/
def auditRec (u : Audit) (cyc tile seqNo job core fa fb : Nat) : BitVec 256 :=
  BitVec.ofNat 256 (cyc % 2 ^ 64 * 2 ^ 192 + u.rel.getD 0 * 2 ^ 160 + u.abs * 2 ^ 128 + tile % 2 ^ 32 * 2 ^ 96
    + seqNo % 65536 * 2 ^ 80 + job % 256 * 2 ^ 72 + core % 1024 * 2 ^ 62 + fa % 16 * 2 ^ 58 + fb % 16 * 2 ^ 54
    + u.row * 2 ^ 49 + u.col * 2 ^ 44 + b2n u.nanref * 2 ^ 43 + b2n u.engnan * 2 ^ 42 + b2n u.zref * 2 ^ 41
    + 2 ^ 32 + 4 * 65536)

/-! ### The queue and chains (R190, R196, R203) -/

/-- Logical banks that a command acts on. -/
def MCmd.banks (m : MCmd) : List Nat :=
  match m.kind with
  | .mma b _ _ _ _ _ _ _ _ _ => [b]
  | .acz bs => bs
  | .acwr r _ _ => [r / 32]
  | .acfr _ => []

/-- Chain of an `mma`. -/
def MCmd.chain (m : MCmd) : Option Nat :=
  match m.kind with
  | .mma _ _ c _ _ _ _ _ _ _ => some c
  | _ => Option.none

/-- Tile number of an `mma`. -/
def MCmd.tile (m : MCmd) : Nat :=
  match m.kind with
  | .mma _ t _ _ _ _ _ _ _ _ => t.toNat
  | _ => 0

/-- Two commands act on a bank in common. -/
def MCmd.meets (a b : MCmd) : Bool := a.team = b.team && a.banks.any fun x => x < 128 && b.banks.contains x

/-- Follow-ons of a core that are still to enter the matrix queue, at their place of preparation (R215). -/
def Core.pending (c : Core) : List MCmd :=
  (c.followOn.toList ++ c.cq.filterMap (·.follow) ++ c.released).filter fun m => !m.dead

/-- Every unfinished `mma` of a core: queued, prepared, or taken by a copy. -/
def Core.mmas (c : Core) : List MCmd := c.mq ++ c.pending

/-- A queued command inserted by its number: a follow-on enters at its place of preparation. -/
def insertCmd (m : MCmd) : List MCmd → List MCmd
  | [] => [m]
  | x :: t => if m.id < x.id then m :: x :: t else x :: insertCmd m t

/-- The engines of a core have room for an image's work (R190, R215). -/
def Core.roomFor (c : Core) (w : SavedWork) : Bool :=
  !(w.followOn.isSome && c.followOn.isSome) && c.mq.length + c.pending.length + w.mq.length ≤ 16 && c.cq.length + w.cq.length ≤ 16

/-- Follow-ons handed to the engine enter its queue while it has room (R190). -/
def Core.takeIn (c : Core) : Core :=
  let n := 16 - c.mq.length
  { c with mq := (c.released.take n).foldl (fun q m => insertCmd m q) c.mq, released := c.released.drop n }

/-- Row `r` of a bank's words with the lanes of a mask written; their poison is cleared (R347). -/
def Bank.writeRow (b : Bank) (r : Nat) (mask : Word) (words : Row) : Bank :=
  { b with
    words := (lanesOf mask).foldl (fun t l => tabSet (32 * r + l) (laneOf words l) t) b.words
    bad := b.bad.filter fun w => !(w / 32 = r && mask.getLsbD (w % 32)) }

/-- A team's bank changed, if it is allocated. -/
def State.modBank (s : State) (t b : Nat) (f : Bank → Bank) : State :=
  s.modTeam t fun tm => match tabFind b tm.acc with
    | none => tm
    | some k => { tm with acc := tabSet b (f k) tm.acc }

/-- A bank zeroed (R194). -/
def Bank.zero (b : Bank) : Bank := { b with words := [], steps := 0, bad := [] }

/-- Whether the engine works for a team: resident and not halted (R220). -/
def State.engineRuns (s : State) (t : Nat) : Bool :=
  match tabFind t s.teams with
  | none => false
  | some tm => tm.state = .resident && !tm.halted

/-- An `acz` or `acwr` performed. -/
def State.applyCmd (s : State) (m : MCmd) : State :=
  match m.kind with
  | .acz bs => bs.foldl (fun s b => s.modBank m.team b Bank.zero) s
  | .acwr r mask words => s.modBank m.team (r / 32) fun b => b.writeRow (r % 32) mask words
  | _ => s

/-- A pass over a queue: each `acz` and `acwr` that no earlier command on its banks precedes, in the queue or prepared before
it, is performed and leaves the queue (R196, R215). `kept` holds what stays, the latest first. -/
def State.settleCmds (s : State) (pend kept : List MCmd) : List MCmd → State × List MCmd
  | [] => (s, kept.reverse)
  | m :: rest =>
    let free := s.engineRuns m.team && !(kept.any fun k => k.meets m) && !(pend.any fun k => k.id < m.id && k.meets m)
    match m.kind with
    | .acz _ => if free then (s.applyCmd m).settleCmds pend kept rest else s.settleCmds pend (m :: kept) rest
    | .acwr _ _ _ => if free then (s.applyCmd m).settleCmds pend kept rest else s.settleCmds pend (m :: kept) rest
    | _ => s.settleCmds pend (m :: kept) rest

/-- A chain has nothing left to do (R203). -/
def Core.chainDone (c : Core) (ch : Chain) : Bool :=
  !ch.open_ && ch.audits.isEmpty && !(c.mmas.any fun m => m.chain = some ch.id)

/-- Tokens of finished chains of a core complete. -/
def State.settleChains (s : State) (core : Nat) : State :=
  let c := s.core core
  let gone := c.chains.filter c.chainDone
  let s := s.modCore core fun k => { k with chains := k.chains.filter fun ch => !c.chainDone ch }
  gone.foldl (fun s ch =>
    let r := ch.failed.getD (stOK, 0)
    s.completeToken ch.ctx ch.token r.1 r.2) s

/-- The matrix queue and the chains of a core after a change. -/
def State.settleMatrix (s : State) (core : Nat) : State :=
  let (s, q) := s.settleCmds (s.core core).pending [] (s.core core).mq
  (s.modCore core fun k => { k with mq := q }.takeIn).settleChains core

/-- A chain of a core changed. -/
def State.modChain (s : State) (core id : Nat) (f : Chain → Chain) : State :=
  s.modCore core fun k => { k with chains := k.chains.map fun ch => if ch.id = id then f ch else ch }

/-- A chain's first failure stays. -/
def Chain.fail (ch : Chain) (status : BitVec 4) (info : Word) : Chain :=
  if ch.failed.isSome then ch else { ch with failed := some (status, info) }

/-- Commands taken out of the queue; a follow-on among them is held on, to perform nothing (R205, R215). -/
def Core.drop (c : Core) (p : MCmd → Bool) : Core :=
  let kill := fun (m : MCmd) => if p m then { m with dead := true } else m
  { c with
    mq := c.mq.filter fun m => !p m
    followOn := c.followOn.map kill
    cq := c.cq.map fun q => { q with follow := q.follow.map kill }
    released := c.released.filter fun m => !p m }

/-- R205: an `mma` fails; it and every later one of its chain perform no k-step. -/
def State.abortMma (s : State) (core : Nat) (m : MCmd) (status : BitVec 4) : State :=
  match m.chain with
  | none => s
  | some id =>
    let s := s.modChain core id fun ch => { ch.fail status (BitVec.ofNat 32 m.tile) with aborted := true }
    (s.modCore core fun k => k.drop fun x => x.chain = some id && m.tile ≤ x.tile).settleMatrix core

/-! ### KSTEP (R202) -/

/-- A prior chain of the same context still has k-steps to perform (R203). -/
def Core.chainHeld (c : Core) (ch : Chain) : Bool :=
  c.chains.any fun d => d.ctx = ch.ctx && d.id < ch.id && c.mmas.any fun m => m.chain = some d.id

/-- The queue before a command. -/
def cmdsBefore (id : Nat) (q : List MCmd) : List MCmd := q.takeWhile fun m => m.id ≠ id

/-- An earlier `acz` or `acwr` on the bank is still to be performed. -/
def MCmd.heldBy (m : MCmd) (before : List MCmd) : Bool :=
  before.any fun k => k.meets m && k.chain.isNone

/-- The last k-step of an `mma`: its audit record is formed, and it leaves the queue. DESIGN CHOICE (log 100): AFMT and BFMT of
an operand whose lines lie in pages of several codes of its class name the code of line 0's first byte. -/
def State.finishMma (s : State) (core : Nat) (m : MCmd) (ch : Chain) (x y : Tile) (cls : Nat) (sa sb : Word) : State :=
  let col := colOfCore core
  let recd := auditRec (auditTile x y cls sa sb) (s.cyc col).toNat m.tile ch.seqNo.toNat (lrJob (s.team m.team).launch)
    core (x.code 0 0) (y.code 0 0)
  let s := if m.audited then s.modChain core ch.id fun c => { c with audits := c.audits ++ [recd] } else s
  (s.modCore core fun k => k.drop fun z => z.id = m.id).settleMatrix core

/-- One k-step performed on a bank: poisoned words stay so, and the chain fails with UE (R347). -/
def State.performStep (s : State) (core : Nat) (m : MCmd) (ch : Chain) (bank q : Nat) (x y : Tile) (cls : Nat) (sa sb : Word) :
    State :=
  let s := if ((tabFind bank (s.team m.team).acc).map fun b => b.bad.isEmpty).getD true then s
           else s.modChain core ch.id fun c => c.fail stUE (BitVec.ofNat 32 m.tile)
  s.modBank m.team bank fun b => b.kstep x y cls q sa sb

/-- A command of a core changed. -/
def State.modCmd (s : State) (core id : Nat) (f : MCmd → MCmd) : State :=
  s.modCore core fun k => { k with mq := k.mq.map fun m => if m.id = id then f m else m }

/-- The engine waits on a fault record (AGENT 2), or tries again when there is none free (R205). -/
def State.engineFault (s : State) (core team agent : Nat) (f : FaultAt) (mark : Nat × Nat → State → State) : State :=
  let col := colOfCore core
  let job := lrJob (s.team team).launch
  match (s.homeReads f).fileFault col (s.asid job) job agent core f with
  | none => s
  | some (i, t) => mark (col, i) t

/-- R202: k-step `q` of the queued `mma` number `n`. -/
def execKstep (core n q : Nat) (s : State) : Host.Outcome State Fault Refusal :=
  .next (
    let c := s.core core
    match c.mq.find? fun m => m.id = n with
    | none => s
    | some m =>
      match m.kind with
      | .mma bank tile chain a b fa fb sa sb done =>
        match c.chains.find? fun ch => ch.id = chain with
        | none => s
        | some ch =>
          if 4 ≤ q || done.getLsbD q || m.fault.isSome || !s.engineRuns m.team || c.chainHeld ch
              || m.heldBy (cmdsBefore n c.mq) then s
          else match s.readTiles m.team a b fa fb with
            | .error (.page f) => s.engineFault core m.team 2 f fun w t => t.modCmd core n fun x => { x with fault := some w }
            | .error .denied => s.abortMma core m stDENIED
            | .error .ue => s.abortMma core m stUE
            | .ok (x, y, cls, t) =>
              let t := t.performStep core m ch bank q x y cls sa sb
              let done' := done ||| ((1 : BitVec 4) <<< q)
              if done' = 15 then t.finishMma core m ch x y cls sa sb
              else t.modCmd core n fun z => { z with kind := .mma bank tile chain a b fa fb sa sb done' }
      | _ => s)

/-- R193: a queued `acfr` at the head of the queue frees its physical banks. -/
def execAcfrBanksFree (core n : Nat) (s : State) : Host.Outcome State Fault Refusal :=
  .next (match (s.core core).mq with
    | [] => s
    | m :: rest => match m.kind with
      | .acfr phys =>
        if m.id = n && s.engineRuns m.team then
          (s.modCore core fun k => { k with mq := rest, phys := k.phys.filter fun p => !phys.contains p }).settleMatrix core
        else s
      | _ => s)

/-! ### Audit records in the ring (R69, R234) -/

/-- One more record dropped; the count saturates. -/
def State.ringDrop (s : State) (job : Nat) : State := s.modJob job fun j => { j with trdrop := if j.trdrop = BitVec.allOnes 32 then j.trdrop else j.trdrop + 1 }

/-- The first audit record of a chain is written, or dropped. -/
def State.writeAudit (s : State) (core : Nat) (ch : Chain) : State :=
  let job := lrJob (s.team ch.team).launch
  let j := s.job job
  let gone := fun (t : State) =>
    (t.modChain core ch.id fun c => { c with audits := c.audits.drop 1, auditFault := none }).settleChains core
  match ch.audits with
  | [] => s
  | recd :: _ =>
    let size := 2 ^ (j.trsize.toNat % 64)
    if j.trbase = 0 || (j.trhead - j.trtail).toNat = size then gone (s.ringDrop job)
    else
      let va := j.trbase.toNat + 32 * (j.trhead.toNat % size)
      match s.access (engineFor job (coreVia core)) .write va with
      | .error (.page f) => s.engineFault core ch.team 2 f fun w t => t.modChain core ch.id fun c => { c with auditFault := some w }
      | .error (.perm _) => gone (s.ringDrop job)
      | .ok (x, t) =>
        let t := (t.agentWrite x.pa (toBytes 32 recd.toNat)).useBudget (colOfCore core) 3 1
        gone (t.modJob job fun j => { j with trhead := j.trhead + 1 })

/-- R69, R342: the next audit record of chain `n`; a ring record waits for the telemetry budget of its column. -/
def execAuditRecordWrite (core n : Nat) (s : State) : Host.Outcome State Fault Refusal :=
  .next (match (s.core core).chains.find? fun ch => ch.id = n with
    | none => s
    | some ch =>
      if ch.auditFault.isSome || (s.team ch.team).state ≠ .resident || !s.budgetLeft (colOfCore core) 3 then s
      else s.writeAudit core ch)

/-! ### Checks of the accumulator forms (R195) -/

/-- Illegal operand with a code of R201. -/
def engineTrap {α : Type} (code : Nat) : Except Stop α := .error (.trap 2 (BitVec.ofNat 64 code) 0)

/-- Accumulator window violation. -/
def windowTrap {α : Type} (row : Nat) (unallocated : Bool) : Except Stop α :=
  .error (.trap 10 (BitVec.ofNat 64 (row + 65536 * b2n unallocated)) 0)

/-- Step 1: every row from `lo` to `hi` lies in the window of a group in window mode. -/
def State.checkWindow (s : State) (lo hi : Nat) : Except Stop Unit :=
  let g := s.myGroup
  if s.kind ≠ .group || !lrWindow (s.team (ctxTeam s.cur)).launch then .ok ()
  else if lo < g.awb.toNat || g.awl.toNat < lo then windowTrap lo false
  else if g.awl.toNat < hi then windowTrap (g.awl.toNat + 1) false
  else .ok ()

/-- Banks of a list that the issuing team has not allocated. -/
def State.missingBanks (s : State) (bs : List Nat) : List Nat :=
  bs.filter fun b => (tabFind b (s.team (ctxTeam s.cur)).acc).isNone

/-- Step 2: with the accumulator-trap flag, the first unallocated row traps; else its flag is set. -/
def State.checkAllocated (s : State) (missing : List Nat) (row : Nat) : Except Stop State :=
  if missing.isEmpty then .ok s
  else if lrActrap (s.team (ctxTeam s.cur)).launch then windowTrap row true
  else .ok (s.raiseFlags flagACUNALLOC)

/-- The issuing core's matrix queue has room (R190). DESIGN CHOICE (log 106): a place is kept for each prepared follow-on. -/
def State.queueRoom (s : State) : Except Stop Unit :=
  let c := s.core (s.ctxCore s.cur)
  if c.mq.length + c.pending.length < 16 then .ok () else .error (.wait (.resource .matrix))

/-- A command enters the matrix queue. -/
def State.queueCmd (s : State) (kind : MKind) (audited : Bool) : State :=
  let m : MCmd := { id := s.fresh, team := ctxTeam s.cur, ctx := engCtx s.cur, kind := kind, fault := none, audited := audited, dead := false }
  let core := s.ctxCore s.cur
  ({ s with fresh := s.fresh + 1 }.modCore core fun k => { k with mq := k.mq ++ [m] }).settleMatrix core

/-! ### Allocation (R192, R193) -/

/-- The lowest run of `n` free logical banks. -/
def Team.freeRun (tm : Team) (n : Nat) : Option Nat :=
  (upto (129 - n)).find? fun b => (span b n).all fun i => (tabFind i tm.acc).isNone

/-- `n` of the free physical banks, as the engine picks them (log 33). -/
def pickBanks (seed : Nat) : Nat → List Nat → List Nat
  | 0, _ => []
  | n + 1, free =>
    let p := free.getD (Sys2Proof.Config.pickBank (seed + n) % free.length) 0
    p :: pickBanks seed n (free.filter (· ≠ p))

/-- Banks that queued `acfr` commands of a core will free. -/
def Core.queuedFree (c : Core) : Nat := sumNat (c.mq.map fun m => match m.kind with
  | .acfr phys => phys.length
  | _ => 0)

/-- Windows after an `acal` with WIN (R192). -/
def winGroups (tr tc b : Nat) (gs : List Group) : List Group :=
  gs.mapIdx fun g gr =>
    if g < tr then { gr with awb := BitVec.ofNat 12 (32 * (b + g * tc)), awl := BitVec.ofNat 12 (32 * (b + (g + 1) * tc) - 1) }
    else { gr with awb := 1, awl := 0 }

/-- A rectangle allocated at logical bank `b` on the given physical banks. -/
def Team.allocate (tm : Team) (tr tc b : Nat) (phys : List Nat) (win : Bool) : Team :=
  let add := fun (t : Tab Bank) (i : Nat) =>
    tabSet (b + i) { phys := phys.getD i 0, steps := 0, words := [], bad := [], rect := (b, tr, tc) } t
  { tm with
    acc := (upto (tr * tc)).foldl add tm.acc
    groups := if win then winGroups tr tc b tm.groups else tm.groups }

/-- R192. -/
def execAcal (d a : RegNum) (s : State) :=
  conclude s (do
    s.needKind (.acal d a) [.group, .seq]
    let (xs, t) ← s.operands [srcU a, dstU d]
    let x := (nthLanes xs 0 t.low).toNat % 2 ^ 64
    let tr := bitsOf x 0 8
    let tc := bitsOf x 8 8
    let win := bitOf x 16
    let team := ctxTeam t.cur
    let core := t.ctxCore t.cur
    let first := match t.cur with
      | .group _ g _ => g = 0
      | _ => false
    if tr = 0 || tc = 0 || 128 < tr * tc || 2 ^ 17 ≤ x then engineTrap 6
    else if win && !(lrWindow (t.team team).launch && first) then engineTrap 11
    else
      let free := (upto 128).filter fun p => !(t.core core).phys.contains p
      let n := tr * tc
      let finish := fun (w : Nat) (u : State) => (u.writeOpd (dstU d) fun _ => BitVec.ofNat 128 w).advance
      match (t.team team).freeRun n with
      | none => .ok (finish stBUSY.toNat t)
      | some b =>
        if free.length < n then
          if n ≤ free.length + (t.core core).queuedFree then .error (.wait (.resource (.banks n))) else .ok (finish stBUSY.toNat t)
        else
          let phys := pickBanks t.fresh n free
          let u := { t with fresh := t.fresh + n }
          let u := u.modCore core fun k => { k with phys := phys.foldl (fun l p => insertNat p l) k.phys }
          let u := u.modTeam team fun tm => tm.allocate tr tc b phys win
          .ok (finish (tc * 2 ^ 24 + tr * 2 ^ 16 + b * 256) u))

/-- A queued command whose bank is freed acts on a bank that no team reads again (R193). -/
def MCmd.lose (team : Nat) (bs : List Nat) (m : MCmd) : MCmd :=
  if m.team ≠ team then m
  else match m.kind with
    | .mma b t c x y fa fb sa sb d => if bs.contains b then { m with kind := .mma 128 t c x y fa fb sa sb d } else m
    | .acz zs => { m with kind := .acz (zs.filter fun z => !bs.contains z) }
    | .acwr r k w => if bs.contains (r / 32) then { m with kind := .acwr 4096 k w } else m
    | .acfr _ => m

/-- R193: the logical banks are free at issue, the physical ones by a queued command. DESIGN CHOICE (log 120): the reserved and
STATUS bits of the handle are not looked at. -/
def execAcfr (a : RegNum) (s : State) :=
  conclude s (do
    s.needKind (.acfr a) [.group, .seq]
    let (xs, t) ← s.operands [srcU a]
    let x := (nthLanes xs 0 t.low).toNat
    let b := bitsOf x 8 7
    let tr := bitsOf x 16 8
    let tc := bitsOf x 24 8
    let team := ctxTeam t.cur
    let banks := span b (tr * tc)
    let good := tr * tc ≠ 0 && banks.all fun i =>
      ((tabFind i (t.team team).acc).map fun k => decide (k.rect = (b, tr, tc))).getD false
    if !good then engineTrap 7
    else
      t.queueRoom
      let phys := banks.map fun i => ((tabFind i (t.team team).acc).map (·.phys)).getD 0
      let lose := MCmd.lose team banks
      let u := t.modTeam team fun tm => { tm with acc := tm.acc.filter fun e => !banks.contains e.1 }
      let u := u.modCore (t.ctxCore t.cur) fun k =>
        { k with mq := k.mq.map lose, followOn := k.followOn.map lose, released := k.released.map lose,
                 cq := k.cq.map fun q => { q with follow := q.follow.map lose } }
      .ok (u.queueCmd (.acfr phys) false).advance)

/-! ### Rows (R194, R196) -/

/-- Row operand in bits [11:0]; others must be 0. -/
def rowOperand (x : Nat) : Except Stop Nat := if x < 4096 then .ok x else engineTrap 5

/-- A command of the team on a bank is queued. -/
def State.bankBusy (s : State) (bank : Nat) : Bool :=
  (s.core (s.ctxCore s.cur)).mmas.any fun m => m.team = ctxTeam s.cur && m.banks.contains bank

/-- R194: the row and its bank's step count; in window mode after the commands on that bank that came before. -/
def execAcrd (d a b : RegNum) (s : State) :=
  conclude s (do
    s.needKind (.acrd d a b) [.group]
    let row : Opd := { reg := d, role := .dst, words := 1, set := .v }
    let cnt : Opd := { reg := b, role := .dst, words := 2, set := .uz }
    let (xs, t) ← s.operands [row, srcU a, cnt]
    let r ← rowOperand ((nthLanes xs 0 t.low).toNat % 2 ^ 64)
    t.checkWindow r r
    let team := ctxTeam t.cur
    let t ← t.checkAllocated (t.missingBanks [r / 32]) r
    let finish := fun (w : Nat → Word) (n : Word) =>
      ((t.writeOpd cnt fun _ => n.setWidth 128).writeOpd row fun l => (w l).setWidth 128).advance
    match tabFind (r / 32) (t.team team).acc with
    | none => .ok (finish (fun _ => 0) 0)
    | some k =>
      if lrWindow (t.team team).launch && t.bankBusy (r / 32) then .error (.wait (.resource (.bank (r / 32))))
      else if t.lanes.any fun l => k.bad.contains (32 * (r % 32) + l) then .error (.trap 8 (BitVec.ofNat 64 (2 ^ 62 + r)) 0)
      else .ok (finish (fun l => tabGet 0 (32 * (r % 32) + l) k.words) k.steps))

/-- R194. -/
def execAcwr (a b : RegNum) (s : State) :=
  conclude s (do
    s.needKind (.acwr a b) [.group]
    let (xs, t) ← s.operands [srcU a, { reg := b, role := .src, words := 1, set := .v }]
    let r ← rowOperand ((nthLanes xs 0 t.low).toNat % 2 ^ 64)
    t.checkWindow r r
    t.queueRoom
    let missing := t.missingBanks [r / 32]
    let u ← t.checkAllocated missing r
    let words := (upto 32).map fun l => (nthLanes xs 1 l).setWidth 32
    .ok (u.queueCmd (.acwr (if missing.isEmpty then r else 4096) (t.ctxMask t.cur) words) false).advance)

/-- R194. -/
def execAcz (a : RegNum) (s : State) :=
  conclude s (do
    s.needKind (.acz a) [.group, .seq]
    let (xs, t) ← s.operands [srcU a]
    let x := (nthLanes xs 0 t.low).toNat % 2 ^ 64
    let z := bitsOf x 0 7
    let n := bitsOf x 8 7 + 1
    if x ≠ z + 256 * (n - 1) || 128 < z + n then engineTrap 5
    else
      t.checkWindow (32 * z) (32 * (z + n) - 1)
      t.queueRoom
      let missing := t.missingBanks (span z n)
      let u ← t.checkAllocated missing (32 * missing.headD 0)
      .ok (u.queueCmd (.acz ((span z n).filter fun b => !missing.contains b)) false).advance)

/-! ### Chains, scales, audit interval (R203, R206, R207) -/

/-- R203. -/
def execChb (tok : BitVec 3) (s : State) :=
  conclude s (do
    s.needKind (.chb tok) [.group, .seq]
    let r := s.ctxRegs s.cur
    if r.chain.isSome then engineTrap 2
    else
      let t ← s.attach tok.toNat
      let ch : Chain :=
        { id := t.fresh, team := ctxTeam t.cur, ctx := engCtx t.cur, token := tok.toNat, audit := r.aud.toNat,
          seqNo := r.chainSeq, tiles := 0, open_ := true, failed := none, aborted := false, audits := [], auditFault := none }
      let u := { t with fresh := t.fresh + 1 }.modCore (t.ctxCore t.cur) fun k => { k with chains := k.chains ++ [ch] }
      .ok (u.modRegs u.cur fun r => { r with chain := some ch.id, chainSeq := r.chainSeq + 1 }).advance)

/-- The issuing context's open chain, or the trap of code 1. -/
def State.openChain (s : State) : Except Stop Chain :=
  let found := match (s.ctxRegs s.cur).chain with
    | none => none
    | some id => (s.core (s.ctxCore s.cur)).chains.find? fun ch => ch.id = id
  match found with
  | none => engineTrap 1
  | some ch => .ok ch

/-- R203. -/
def execChe (tok : BitVec 3) (s : State) :=
  conclude s (do
    s.needKind (.che tok) [.group, .seq]
    let ch ← s.openChain
    if ch.token ≠ tok.toNat then engineTrap 3
    else
      let core := s.ctxCore s.cur
      let t := (s.modRegs s.cur fun r => { r with chain := none }).modChain core ch.id fun c => { c with open_ := false }
      .ok (t.advance.settleChains core))

/-- R206. -/
def execScs (n : BitVec 3) (a : RegNum) (s : State) :=
  conclude s (do
    s.needKind (.scs n a) [.group, .seq]
    let (xs, t) ← s.operands [{ reg := a, role := .src, words := 1, set := .vu }]
    .ok (t.modRegs t.cur fun r => { r with sc := tabSet n.toNat ((nthLanes xs 0 t.low).setWidth 32) r.sc }).advance)

/-- R207. -/
def execAud (a : RegNum) (s : State) :=
  conclude s (do
    s.needKind (.aud a) [.group, .seq]
    let (xs, t) ← s.operands [srcU a]
    let x := (nthLanes xs 0 t.low).toNat % 2 ^ 64
    if 65536 ≤ x then engineTrap 10 else .ok (t.modRegs t.cur fun r => { r with aud := BitVec.ofNat 16 x }).advance)

/-! ### `mma` (R197 to R202, R215) -/

/-- Format of fn[2:0] below 7; 7 for `.e2m1s` (R200). -/
def mmaFmt (f : BitVec 3) : Nat :=
  match f.toNat with
  | 0 => 2
  | 1 => 3
  | 2 => 4
  | 3 => 5
  | 4 => 8
  | 5 => 6
  | _ => 7

/-- The operand is a register tile. -/
def State.isTile (s : State) (r : RegNum) : Bool :=
  match regClass s.kind r with
  | .v _ => true
  | _ => false

/-- Register operand of a tile or descriptor: 16 registers, 20 with block scales, or a `k` pair. -/
def State.tileOpds (s : State) (r : RegNum) (scaled : Bool) : List Opd :=
  [{ reg := r, role := .src, words := if s.isTile r then (if scaled then 20 else 16) else 4, set := .vk }]

/-- Bytes of a run of rows, lane after lane. -/
def State.laneBytes (s : State) (row n : Nat) : List Byte :=
  (upto 32).flatMap fun l => (span row n).flatMap fun r => toBytes 4 (laneOf (s.myGroup.row r) l).toNat

/-- A register tile captured whole, with the rows that may hold block scales (log 34). -/
def State.captureTile (s : State) (r : RegNum) : MOperand :=
  let row := s.wb + r.toNat
  .tile (s.laneBytes row 16) (s.laneBytes (row + 16) 4)

/-- Code 4 of R201 for one operand. -/
def descFormat (d : BitVec 128) (pg : Bool) : Except Stop Unit :=
  if dGlobal d && !pg then engineTrap 4
  else if !dGlobal d && pg && (dFmt d ≤ 1 || dFmt d = 9 || dFmt d = 10) then engineTrap 4
  else .ok ()

/-- Code 5 of R201 for one descriptor. -/
def descFields (d : BitVec 128) (pg : Bool) : Except Stop Unit :=
  if bitsOf d.toNat 121 6 ≠ 0 || bitsOf d.toNat 21 7 ≠ 0 || dRpitch d < 4 || (dFmt d ≠ 0 && !pg)
      || (if dGlobal d then dBase d ≠ 0 else dGaddr d ≠ 0 || 10 < dFmt d) then engineTrap 5
  else .ok ()

/-- Every line of a vault descriptor lies inside the cluster (R151, R199). -/
def State.descInside (s : State) (d : BitVec 128) (code : Nat) : Except Stop Unit :=
  if dGlobal d then .ok ()
  else match (descVault d code).find? fun e => (s.vaultLoc (ctxTeam s.cur) e.1 e.2).isNone with
    | some e => .error (.trap 6 (accInfo 4 e.1) 0)
    | none => .ok ()

/-- The format that is known at issue: of the form, of FMT, 0 by page, 15 as the other operand. -/
def operandFmt (f : BitVec 3) (op : MOperand) : Nat :=
  if f ≠ 7 then mmaFmt f
  else match op with
    | .tile _ _ => 15
    | .desc d => if dGlobal d then 0 else dFmt d

/-- Descriptor of an operand. -/
def MOperand.descs : MOperand → List (BitVec 128)
  | .tile _ _ => []
  | .desc d => [d]

/-- Formats known at issue are of one class (R200). -/
def classesAgree (fa fb : Nat) : Bool :=
  let known := [fa, fb].filter fun f => f ≠ 0 && f ≠ 15
  match known with
  | [x, y] => fmtClass x = fmtClass y
  | _ => true

/-- Checks of R198 to R200 and R215 on a position word and operands, by rising code (log 45). -/
def State.checkMma (s : State) (pos : Nat) (f : BitVec 3) (a b : MOperand) : Except Stop Unit := do
  let pg := f = 7
  let prep := bitOf pos 63
  let ds := a.descs ++ b.descs
  if pg && ds.isEmpty then engineTrap 4
  firstErr (fun d => descFormat d pg) ds
  if !classesAgree (operandFmt f a) (operandFmt f b) then engineTrap 4
  if bitsOf pos 16 47 ≠ 0 || bitOf pos 7 then engineTrap 5
  firstErr (fun d => descFields d pg) ds
  if prep && (s.kind = .group || (s.core (s.ctxCore s.cur)).followOn.isSome) then engineTrap 9
  firstErr (fun d => s.descInside d (operandFmt f (.desc d))) ds

/-- A scale factor as FP32 bits (R198). -/
def State.scaleOf (s : State) (on : Bool) (n : Nat) : Word :=
  if on then tabGet 0 n (s.ctxRegs s.cur).sc else 0x3F800000

/-- The other operand under `.pg` is a vault descriptor of FMT 7, so a tile's block scales are checked too. DESIGN CHOICE (log 120):
beside a global descriptor, whose page code is not known at issue, the form checks and waits for the 16 registers alone. -/
def State.scaledTile (s : State) (f : BitVec 3) (other : RegNum) : Bool :=
  f = 6 || (f = 7 && !s.isTile other && match regClass s.kind other with
    | .k n => n % 2 = 0 && !bitOf (s.getK s.cur (n + 1)).toNat 63 && bitsOf (s.getK s.cur n).toNat 60 4 = 7
    | _ => false)

/-- R202: the `mma` joins the open chain and enters the queue, or is prepared (R215). -/
def execMma (d a b : RegNum) (f : BitVec 3) (s : State) :=
  conclude s (do
    s.needKind (.mma d a b f) [.group, .seq]
    let oa := s.tileOpds a (s.scaledTile f b)
    let ob := s.tileOpds b (s.scaledTile f a)
    let (xs, t) ← s.operands (oa ++ ob ++ [srcU d])
    let opA := if s.isTile a then s.captureTile a else .desc (nthLanes xs 0 t.low)
    let opB := if s.isTile b then s.captureTile b else .desc (nthLanes xs oa.length t.low)
    let pos := (nthLanes xs (oa.length + ob.length) t.low).toNat % 2 ^ 64
    let ch ← t.openChain
    t.checkMma pos f opA opB
    let bank := bitsOf pos 0 7
    t.checkWindow (32 * bank) (32 * bank + 31)
    if !(t.missingBanks [bank]).isEmpty then windowTrap (32 * bank) true
    let prep := bitOf pos 63
    if !prep then t.queueRoom
    let core := t.ctxCore t.cur
    let kind : MKind := .mma bank ch.tiles ch.id opA opB (BitVec.ofNat 4 (operandFmt f opA)) (BitVec.ofNat 4 (operandFmt f opB))
      (t.scaleOf (bitOf pos 11) (bitsOf pos 8 3)) (t.scaleOf (bitOf pos 15) (bitsOf pos 12 3)) 0
    let audited := ch.audit ≠ 0 && ch.tiles.toNat % ch.audit = 0
    let u := t.modChain core ch.id fun c => { c with tiles := c.tiles + 1 }
    if prep then
      let m : MCmd :=
        { id := u.fresh, team := ctxTeam u.cur, ctx := engCtx u.cur, kind := kind, fault := none, audited := audited,
          dead := ch.aborted }
      .ok ({ u with fresh := u.fresh + 1 }.modCore core fun k => { k with followOn := some m }).advance
    else if ch.aborted then .ok u.advance
    else .ok (u.queueCmd kind audited).advance)

end Sys2Proof.Machine
end

