-- ==== Sys2Proof/Machine/Copy.lean ====
section
/-! DEFINITION. The copy engine: commands, chunks, pipeline depth (R208 to R216). -/

namespace Sys2Proof.Machine

/-! ### Fields of a command (R208) -/

/-- RBYTES + 1. -/
def CCmd.rowBytes (c : CCmd) : Nat := bitsOf c.k11.toNat 44 20 + 1
/-- SLI. -/
def CCmd.slice (c : CCmd) : Nat := bitsOf c.k11.toNat 40 4
/-- SLN + 1. -/
def CCmd.slices (c : CCmd) : Nat := bitsOf c.k11.toNat 36 4 + 1
/-- FOLLOW. -/
def CCmd.follows (c : CCmd) : Bool := bitOf c.k11.toNat 35
/-- GEN. -/
def CCmd.gen (c : CCmd) : Bool := bitOf c.k11.toNat 34
/-- Vault address of the gauge quad. -/
def CCmd.gauge (c : CCmd) : Nat := 16 * bitsOf c.k11.toNat 13 21
/-- REM. -/
def CCmd.rem (c : CCmd) : Bool := bitOf c.k11.toNat 12
/-- NODEHI. -/
def CCmd.nodehi (c : CCmd) : Nat := bitsOf c.k11.toNat 8 4
/-- SPITCH in bytes. -/
def CCmd.spitch (c : CCmd) : Nat := 16 * bitsOf c.k10.toNat 48 16
/-- DPITCH in bytes. -/
def CCmd.dpitch (c : CCmd) : Nat := 16 * bitsOf c.k10.toNat 32 16
/-- ROWS + 1. -/
def CCmd.rows (c : CCmd) : Nat := bitsOf c.k10.toNat 16 16 + 1
/-- MCAST. -/
def CCmd.mcast (c : CCmd) : Nat := bitsOf c.k10.toNat 0 16
/-- DVLT. -/
def CCmd.dvlt (c : CCmd) : Bool := bitOf c.k9.toNat 63
/-- TOKEN. -/
def CCmd.token (c : CCmd) : Nat := bitsOf c.k9.toNat 60 3
/-- DST. -/
def CCmd.dst (c : CCmd) : Nat := bitsOf c.k9.toNat 0 57
/-- SVLT. -/
def CCmd.svlt (c : CCmd) : Bool := bitOf c.k8.toNat 63
/-- MODE. -/
def CCmd.mode (c : CCmd) : Nat := bitsOf c.k8.toNat 59 4
/-- SRC. -/
def CCmd.src (c : CCmd) : Nat := bitsOf c.k8.toNat 0 57
/-- Target node of a remote copy. -/
def CCmd.node (c : CCmd) : Nat := 65536 * c.nodehi + c.mcast

/-- First row of this core's part, and how many rows (R210). -/
def CCmd.part (c : CCmd) : Nat × Nat :=
  let lo := c.slice * c.rows / c.slices
  (lo, (c.slice + 1) * c.rows / c.slices - lo)

/-! ### Geometry (R209, R211) -/

/-- Bytes of `n` elements of a format code. -/
def codeBytes (code n : Nat) : Nat := if elemSize code 4 = 0 then n / 2 else n * elemSize code 4

/-- A code that CONVERT encodes. -/
def encodable (code : Nat) : Bool := (2 ≤ code && code ≤ 6) || code = 8

/-- A run of destination bytes in one row: row, offset in it, length. -/
abbrev Piece := Nat × Nat × Nat

/-- Bytes `o` to `o + n - 1` of rows of the given lengths, the first of which has number `row`. -/
def piecesFrom (row : Nat) : List Nat → Nat → Nat → List Piece
  | [], _, _ => []
  | len :: rest, o, n =>
    if n = 0 then []
    else if len ≤ o then piecesFrom (row + 1) rest (o - len) n
    else (row, o, min n (len - o)) :: piecesFrom (row + 1) rest 0 (n - min n (len - o))

/-- Pieces of chunk `k` of rows of the given lengths. -/
def chunkPiecesOf (lens : List Nat) (k : Nat) : List Piece := piecesFrom 0 lens (4096 * k) 4096

/-- Number of chunks of rows of the given lengths. -/
def chunkCount (lens : List Nat) : Nat := (sumNat lens + 4095) / 4096

/-- Lengths of the destination rows of a part in which a row is as long as its source row. -/
def CCmd.evenRows (c : CCmd) : List Nat := List.replicate c.part.2 c.rowBytes

/-- A run of a destination row that lies in pages of one code: offset, bytes, code, first element. -/
abbrev Span := Nat × Nat × Nat × Nat

/-- The runs of a CONVERT row of `m` more elements from an address, an offset and an element on, up to a page that gives no
code, and what is the matter there. -/
def rowSpans (codeAt : Nat → Except EngErr Nat) : Nat → Nat → Nat → Nat → Nat → List Span × Option EngErr
  | 0, _, _, _, _ => ([], none)
  | fuel + 1, va, off, el, m =>
    if m = 0 then ([], none)
    else match codeAt va with
      | .error e => ([], some e)
      | .ok f =>
        let room := 65536 - va % 65536
        let k := min m (if f = 6 then 2 * room else room / elemSize f 4)
        let (more, stop) := rowSpans codeAt fuel (va + codeBytes f k) (off + codeBytes f k) (el + k) (m - k)
        ((off, codeBytes f k, f, el) :: more, stop)

/-- Lengths of rows in their order, up to the first whose length is not known yet: what is known of it stands last. -/
def rowLengths (spans : Nat → List Span × Option EngErr) : List Nat → List Nat × Option EngErr
  | [] => ([], none)
  | r :: rest =>
    let (row, stop) := spans r
    let n := sumNat (row.map (·.2.1))
    if stop.isSome then ([n], stop)
    else
      let (more, stop) := rowLengths spans rest
      (n :: more, stop)

/-- Number of chunks of rows as far as their lengths are known: what is not known yet begins in one more. -/
def shapeChunks (x : List Nat × Option EngErr) : Nat := if x.2.isSome then sumNat x.1 / 4096 + 1 else chunkCount x.1

/-- Address of a byte of a source or destination row. -/
def CCmd.srcAt (c : CCmd) (row off : Nat) : Nat := c.src + (c.part.1 + row) * c.spitch + off
/-- Address of a byte of a destination row. -/
def CCmd.dstAt (c : CCmd) (row off : Nat) : Nat := c.dst + (c.part.1 + row) * c.dpitch + off

/-! ### Vault addresses of a command -/

/-- Vault bytes at an offset of the team of a rank. -/
def State.rankLoc (s : State) (t rank off n : Nat) : Option (Nat × Nat) :=
  match s.rankTeam t rank with
  | none => none
  | some r => if off + n ≤ lrVault (s.team r).launch then some (r, off) else none

/-- Ranks that a vault destination names: those of MCAST, or the one in the address. -/
def CCmd.ranks (c : CCmd) : List Nat :=
  if c.mcast = 0 then [bitsOf c.dst 21 4] else (upto 16).filter fun t => bitOf c.mcast t

/-- Destinations in the vault of bytes at a row. -/
def State.vaultDsts (s : State) (c : CCmd) (row off n : Nat) : List (Option (Nat × Nat)) :=
  if c.mcast = 0 then
    let a := c.dstAt row off
    [if a < 2 ^ 25 then s.vaultLoc c.team a n else none]
  else c.ranks.map fun k => s.rankLoc c.team k (c.dstAt row off - c.dst + c.dst % 2 ^ 21) n

/-- The gauge quads that a chunk's bytes count toward, one for each destination (R211). -/
def State.copyGauges (s : State) (c : CCmd) : List (Option (Nat × Nat)) :=
  if !c.gen then []
  else if c.mcast = 0 then [s.vaultLoc c.team c.gauge 16]
  else c.ranks.map fun k => s.rankLoc c.team k (c.gauge % 2 ^ 21) 16

/-! ### Starting chunks (R211, R216) -/

/-- Format code of the destination page at an address, for CONVERT. A page that does not translate has none yet, and one of a
code that CONVERT does not encode never has. -/
def State.codeAt (s : State) (c : CCmd) (va : Nat) : Except EngErr Nat :=
  match s.access (s.teamEngine c.team) .write va with
  | .error w => .error (engErr w)
  | .ok (x, _) => if encodable (leafFmt x.entry) && leafGeom x.entry = 0 then .ok (leafFmt x.entry) else .error .denied

/-- The runs of a destination row of CONVERT: its elements follow one another, each in the code of the page it lies in (R52,
R209). -/
def State.copySpans (s : State) (c : CCmd) (row : Nat) : List Span × Option EngErr :=
  rowSpans (s.codeAt c) (c.rowBytes / 4) (c.dstAt row 0) 0 0 (c.rowBytes / 4)

/-- Lengths of the destination rows of this core's part, as far as the destination's pages tell them. -/
def State.copyRows (s : State) (c : CCmd) : List Nat × Option EngErr :=
  if c.mode = 2 then rowLengths (s.copySpans c) (upto c.part.2) else (c.evenRows, none)

/-- Chunks of a team that are started and not done. -/
def inFlight (t : Nat) (q : List CCmd) : Nat :=
  sumNat (q.map fun c => if c.team = t then c.started.length - c.done.length else 0)

/-- A bound on the number of chunks that needs no translation. -/
def CCmd.most (c : CCmd) : Nat := (c.part.2 * c.rowBytes + 4095) / 4096

/-- Chunks started in order while fewer than the depth are in flight. -/
def startIn (now t depth : Nat) : Nat → List CCmd → List CCmd
  | _, [] => []
  | used, c :: rest =>
    if c.team ≠ t then c :: startIn now t depth used rest
    else
      let n := min (depth - used) (c.most - c.started.length)
      { c with started := c.started ++ List.replicate n now } :: startIn now t depth (used + n) rest

/-- New chunks of a team start on its core, unless it is halted (R220). -/
def State.startChunks (s : State) (core t : Nat) : State :=
  if (s.team t).halted then s
  else s.modCore core fun k => { k with cq := startIn s.now t (s.team t).depth (inFlight t k.cq) k.cq }

/-! ### Reading a chunk's source -/

/-- Raw source bytes, and whether a line of them is poisoned. -/
def State.copyRaw (s : State) (c : CCmd) (va n : Nat) : Except EngErr ((List Byte × Bool) × State) :=
  if c.svlt then
    match (if va < 2 ^ 25 then s.vaultLoc c.team va n else none) with
    | none => .error .denied
    | some (t, off) =>
      let pa := s.vaultPa t off
      .ok ((s.physRead pa n, (s.poisonIn pa n).isSome), s)
  else do
    let (ps, s) ← s.engPieces (s.teamEngine c.team) .read (pagePieces va n)
    .ok ((ps.flatMap fun p => s.physRead p.1 p.2.1, s.anyPoison (ps.map fun p => (p.1, p.2.1))), s)

/-- One decoded source element from the byte and half byte it starts at (R209): its value's bytes, whether it is poisoned, and
where the next one starts. Each element has the code of the page it lies in (R52). A page of code 0 has no elements, and its
words pass raw; with `use` off the element is passed over. -/
def State.decodeOne (s : State) (r : Requester) (va : Nat) (half use : Bool) :
    Except EngErr ((List Byte × Bool × Nat × Bool) × State) :=
  match s.access r .read va with
  | .error w => .error (engErr w)
  | .ok (x, s) =>
    let f := leafFmt x.entry
    let size := elemSize (min f 10) 4
    if formatBad x.entry x.pa then .error .denied
    else
      let wide := if f = 10 then 8 else 4
      let next := if size = 0 then (if half then va + 1 else va, !half) else (va + size, false)
      if use then
        let (v, bs, band) := s.readElem f 4 x.pa half
        let parts := elemParts f 4 x.pa half
        let bad := parts.any fun p => (s.poisonIn p.1 p.2).isSome
        .ok ((toBytes wide (decodeElem f v bs band).1, bad, next), parts.foldl (fun s p => s.agentRead p.1 p.2) s)
      else .ok ((List.replicate wide 0, false, next), s)

/-- The decoded bytes `skip` to `skip + n - 1` of a row, of which `n` are left. DESIGN CHOICE (log 107): in a row over pages of
4-byte and 8-byte elements each takes its own width, and one that reaches past the row's end is cut there. -/
def State.decodeRun (s : State) (r : Requester) (va : Nat) (half : Bool) (skip n : Nat) :
    Nat → Except EngErr ((List Byte × Bool) × State)
  | 0 => .ok (([], false), s)
  | fuel + 1 =>
    if n = 0 then .ok (([], false), s)
    else do
      let (x, s) ← s.decodeOne r va half (skip < 8)
      let (bs, bad, at', half') := x
      let out := (bs.drop skip).take n
      let (y, s) ← s.decodeRun r at' half' (skip - bs.length) (n - out.length) fuel
      .ok ((out ++ y.1, (bad && !out.isEmpty) || y.2), s)

/-- FP32 values encoded by a code, saturating (R55, R209). -/
def encodeBytes (code : Nat) (vals : List Nat) : List Byte :=
  let codes := vals.map fun v => (fCvt code 1 true 0 v).1
  if code = 6 then
    (upto (codes.length / 2)).map fun i => BitVec.ofNat 8 (codes.getD (2 * i) 0 % 16 + 16 * (codes.getD (2 * i + 1) 0 % 16))
  else codes.flatMap fun v => toBytes (elemSize code 4) v

/-- The FP32 words that bytes hold. -/
def wordsOf (bs : List Byte) : List Nat := (upto (bs.length / 4)).map fun i => ofBytes ((bs.drop (4 * i)).take 4)

/-- Bytes `off` to `off + n - 1` of a CONVERT row, run after run. -/
def State.convertRun (s : State) (c : CCmd) (row off n : Nat) : List Span → Except EngErr ((List Byte × Bool) × State)
  | [] => .ok (([], false), s)
  | (o, len, f, el) :: rest =>
    let lo := max off o
    let hi := min (off + n) (o + len)
    if hi ≤ lo then s.convertRun c row off n rest
    else do
      let per := fun (b : Nat) => if f = 6 then 2 * b else b / elemSize f 4
      let (x, s) ← s.copyRaw c (c.srcAt row (4 * (el + per (lo - o)))) (4 * per (hi - lo))
      let (y, s) ← s.convertRun c row off n rest
      .ok ((encodeBytes f (wordsOf x.1) ++ y.1, x.2 || y.2), s)

/-- The destination bytes of one piece, and whether their source is poisoned. -/
def State.copyBytes (s : State) (c : CCmd) (p : Piece) : Except EngErr ((List Byte × Bool) × State) :=
  let (row, off, n) := p
  if c.mode = 1 then s.decodeRun (s.teamEngine c.team) (c.srcAt row 0) false off n (off + n)
  else if c.mode = 2 then s.convertRun c row off n (s.copySpans c row).1
  else s.copyRaw c (c.srcAt row off) n

/-! ### Writing a chunk -/

/-- Physical places of the destination bytes of a piece at every destination, with their bytes. -/
def State.copyPlaces (s : State) (c : CCmd) (p : Piece) (bs : List Byte) :
    Except EngErr (List (Nat × List Byte) × State) :=
  let (row, off, n) := p
  if c.dvlt then
    let ds := s.vaultDsts c row off n
    if ds.any Option.isNone then .error .denied
    else .ok (ds.filterMap id |>.map fun d => (s.vaultPa d.1 d.2, bs), s)
  else do
    let (ps, s) ← s.engPieces (s.teamEngine c.team) .write (pagePieces (c.dstAt row off) n)
    if c.mode = 2 && ps.any fun q => !encodable (leafFmt q.2.2) || leafGeom q.2.2 ≠ 0 then .error .denied
    else
      let k := (ps.headD (0, 0, 0)).2.1
      .ok (ps.mapIdx fun i q => (q.1, if i = 0 then bs.take k else bs.drop k), s)

/-- What a chunk writes: places with bytes, and whether any source line was poisoned. -/
def State.copyPlan (s : State) (c : CCmd) : List Piece → Except EngErr ((List (Nat × List Byte) × Bool) × State)
  | [] => .ok (([], false), s)
  | p :: rest => do
    let (x, s) ← s.copyBytes c p
    let (w, s) ← s.copyPlaces c p x.1
    let (y, s) ← s.copyPlan c rest
    .ok ((w ++ y.1, x.2 || y.2), s)

/-- The writes of a chunk: with a poisoned source every line written is poisoned (R214). -/
def State.copyWrite (s : State) (ws : List (Nat × List Byte)) (bad : Bool) : State :=
  ws.foldl (fun s w =>
    if bad then (linesOf w.1 w.2.length).foldl (fun s l => (s.dropLine l).poisonLine (128 * l)) (s.physWrite w.1 w.2)
    else s.agentWrite w.1 w.2) s

/-! ### The end of chunks and commands (R211, R214, R215) -/

/-- A command of a core changed. -/
def State.modCopy (s : State) (core id : Nat) (f : CCmd → CCmd) : State :=
  s.modCore core fun k => { k with cq := k.cq.map fun c => if c.id = id then f c else c }

/-- Failure of a chunk; `ends` when no later chunk is performed. -/
def CCmd.failAt (c : CCmd) (k : Nat) (status : BitVec 4) (ends : Bool) : CCmd :=
  let worse := match c.failed with
    | none => true
    | some f => k < f.2.toNat
  { c with failed := if worse then some (status, BitVec.ofNat 32 k) else c.failed,
           stop := if ends then (match c.stop with
             | none => some k
             | some j => some (min j k)) else c.stop }

/-- Every chunk that will be performed is done. -/
def CCmd.finished (c : CCmd) (n : Nat) : Bool :=
  (upto n).all fun k => c.done.contains k || (match c.stop with
    | none => false
    | some j => j < k && !(c.sentChunks.contains k))

/-- A finished command leaves: its token completes, and its follow-on enters the matrix queue, or fails. -/
def State.endCopy (s : State) (core : Nat) (c : CCmd) : State :=
  let r := c.failed.getD (stOK, 0)
  let s := s.modCore core fun k => { k with cq := k.cq.filter fun q => q.id ≠ c.id }
  let s := s.completeToken c.ctx c.token r.1 r.2
  let s := match c.follow with
    | none => s
    | some m =>
      let s := if r.1 = stOK then
          if m.dead then s else s.modCore core fun k => { k with released := k.released ++ [m] }
        else match m.chain with
          | none => s
          | some id => s.modChain core id fun ch => ch.fail r.1 (BitVec.ofNat 32 m.tile)
      s.settleMatrix core
  s.startChunks core c.team

/-- A chunk is done: its latency is recorded, chunks start, and the command ends with its last one. -/
def State.chunkDone (s : State) (core id k n : Nat) : State :=
  match (s.core core).cq.find? fun c => c.id = id with
  | none => s
  | some c =>
    let c' := { c with done := c.done ++ [k] }
    let s := s.modTeam c.team fun tm => { tm with latencies := tm.latencies ++ [s.now - c.started.getD k s.now] }
    let s := s.modCopy core id fun _ => c'
    if c'.finished n then s.endCopy core c' else s.startChunks core c.team

/-- A chunk that is not written. -/
def State.failChunk (s : State) (core id k n : Nat) (status : BitVec 4) : State :=
  (s.modCopy core id fun c => { c.failAt k status true with faults := c.faults.filter fun f => f.2.2 ≠ k }).chunkDone core id k n

/-- The message of a remote chunk (R212): its pieces and bytes. -/
def State.chunkMsg (s : State) (c : CCmd) (ps : List Piece) (bs : List Byte) (bad : Bool) : Msg :=
  let first := c.dstAt (ps.headD (0, 0, 0)).1 (ps.headD (0, 0, 0)).2.1
  { s.newMsg c.ctx .chunk with
    dnode := BitVec.ofNat 20 c.node, dtwr := BitVec.ofNat 3 (bitsOf first 16 3), tag := bitsOf first 7 6, addr := first,
    onode := BitVec.ofNat 20 c.node, ova := first,
    lanes := ps.flatMap fun p => [BitVec.ofNat 64 (c.dstAt p.1 p.2.1), BitVec.ofNat 64 p.2.2],
    bytes := bs, bad := bad }

/-- Source bytes of all the pieces of a chunk. -/
def State.chunkSource (s : State) (c : CCmd) : List Piece → Except EngErr ((List Byte × Bool) × State)
  | [] => .ok (([], false), s)
  | p :: rest => do
    let (x, s) ← s.copyBytes c p
    let (y, s) ← s.chunkSource c rest
    .ok ((x.1 ++ y.1, x.2 || y.2), s)

/-- A chunk waits on a fault record (AGENT 3), or tries again when there is none free (R214). -/
def State.copyFault (s : State) (core : Nat) (c : CCmd) (k : Nat) (f : FaultAt) : State :=
  s.engineFault core c.team 3 f fun w t => t.modCopy core c.id fun q => { q with faults := q.faults ++ [(w.1, w.2, k)] }

/-- A chunk, one of `n`, cannot be read or written (R214). -/
def State.chunkStops (s : State) (core : Nat) (c : CCmd) (k n : Nat) : EngErr → State
  | .page f => s.copyFault core c k f
  | .denied => s.failChunk core c.id k n stDENIED
  | .ue => s.failChunk core c.id k n stUE

/-- A remote chunk leaves the column (R212). -/
def State.sendChunk (s : State) (core : Nat) (c : CCmd) (k n : Nat) : State :=
  let ps := chunkPiecesOf c.evenRows k
  match s.chunkSource c ps with
  | .error e => s.chunkStops core c k n e
  | .ok (x, t) =>
    let t := t.modCopy core c.id fun q =>
      let q := { q with sentChunks := q.sentChunks ++ [k] }
      if x.2 then q.failAt k stUE true else q
    t.send (t.chunkMsg c ps x.1 x.2) (.chunk core c.id k)

/-- What a chunk writes, if the rows' lengths are known up to its end. -/
def State.chunkPlan (s : State) (c : CCmd) (k : Nat) (x : List Nat × Option EngErr) :
    Except EngErr ((List (Nat × List Byte) × Bool) × State) :=
  match x.2 with
  | none => s.copyPlan c (chunkPiecesOf x.1 k)
  | some e => if 4096 * (k + 1) ≤ sumNat x.1 then s.copyPlan c (chunkPiecesOf x.1 k) else .error e

/-- A chunk is read, and written at every destination and counted (R211). -/
def State.performChunk (s : State) (core : Nat) (c : CCmd) (k : Nat) (rows : List Nat × Option EngErr) : State :=
  let n := shapeChunks rows
  match s.chunkPlan c k rows with
  | .error e => s.chunkStops core c k n e
  | .ok (x, t) =>
    let len := sumNat ((chunkPiecesOf rows.1 k).map fun p => p.2.2)
    let t := t.copyWrite x.1 x.2
    if x.2 then (t.modCopy core c.id fun q => q.failAt k stUE true).chunkDone core c.id k n
    else
      let gs := (t.copyGauges c).filterMap id
      let items := gs.map fun g => CountItem.vault g.1 g.2 len
      { t with counts := t.counts ++ items }.chunkDone core c.id k n

/-- R211: chunk `chunk` of the queued command number `n`; a remote one is sent. -/
def execCopyChunkComplete (core n chunk : Nat) (s : State) : Host.Outcome State Fault Refusal :=
  .next (match (s.core core).cq.find? fun c => c.id = n with
    | none => s
    | some c =>
      let past := match c.stop with
        | none => false
        | some j => j < chunk
      let rows := s.copyRows c
      if past || c.started.length ≤ chunk || c.done.contains chunk || c.sentChunks.contains chunk
          || (c.faults.any fun f => f.2.2 = chunk) || shapeChunks rows ≤ chunk || (s.team c.team).state ≠ .resident then s
      else if c.rem then s.sendChunk core c chunk (shapeChunks rows)
      else s.performChunk core c chunk rows)

/-! ### `tcopy` (R213) -/

/-- Code 8 of R201. With REM the MCAST field is part of the node, and its own cases do not apply (log 36). -/
def CCmd.fieldsBad (c : CCmd) (clusterSize : Nat) : Bool :=
  bitsOf c.k11.toNat 0 8 ≠ 0 || bitsOf c.k8.toNat 57 2 ≠ 0 || 3 ≤ c.mode || c.slices - 1 < c.slice
  || (!c.rem && c.mcast ≠ 0 && !c.dvlt) || (!c.rem && 2 ^ clusterSize ≤ c.mcast) || (!c.rem && c.nodehi ≠ 0)
  || (!c.gen && c.gauge ≠ 0) || (c.mode = 1 && c.svlt) || (c.mode = 2 && c.dvlt)
  || (c.svlt && 2 ^ 25 ≤ c.src) || (c.dvlt && 2 ^ 25 ≤ c.dst) || (c.rem && (c.mode ≠ 0 || c.dvlt || c.gen))

/-- Step 2: alignment; RBYTES names no address (log 35). -/
def State.copyAligned (s : State) (c : CCmd) : Except Stop Unit :=
  if c.src % 16 ≠ 0 then .error (.trap 4 (accInfo 0 c.src) 0)
  else if c.dst % 16 ≠ 0 then .error (.trap 4 (accInfo 0 c.dst) 0)
  else if c.rowBytes % 16 ≠ 0 then .error (.trap 4 (accInfo 0 (Sys2Proof.Config.openAddr s.fresh).toNat) 0)
  else .ok ()

/-- Step 3: every vault row of the transfer, and the gauge quads, lie inside. -/
def State.copyInside (s : State) (c : CCmd) : Except Stop Unit :=
  let whole := { c with k11 := c.k11 &&& 0xFFFFF00FFFFFFFFF }
  let out := fun (va : Nat) => (.error (.trap 6 (accInfo 4 va) 0) : Except Stop Unit)
  do
    match (if c.svlt then (upto c.rows).find? fun r =>
        (whole.srcAt r 0) ≥ 2 ^ 25 || (s.vaultLoc c.team (whole.srcAt r 0) c.rowBytes).isNone else none) with
    | some r => out (whole.srcAt r 0)
    | none => .ok ()
    match (if c.dvlt then (upto c.rows).find? fun r => (s.vaultDsts whole r 0 c.rowBytes).any Option.isNone else none) with
    | some r => out (whole.dstAt r 0)
    | none => .ok ()
    if (s.copyGauges c).any Option.isNone then out c.gauge else .ok ()

/-- R208: the command is checked, attached to its token and queued; its first chunks start. Its reads and writes are accesses of
the issuing context, which come after an earlier acquire and after the loads before an earlier release fence (R265 to R269). -/
def execTcopy (s : State) :=
  conclude s (do
    s.needKind .tcopy [.group, .seq]
    let opd := fun (n : Nat) => ({ reg := BitVec.ofNat 7 (96 + n), role := .src, words := 2, set := .k } : Opd)
    let (xs, t) ← s.operands ([8, 9, 10, 11].map opd)
    let v := fun i => (nthLanes xs i t.low).setWidth 64
    let team := ctxTeam t.cur
    let core := t.ctxCore t.cur
    let c : CCmd :=
      { id := t.fresh, team := team, ctx := engCtx t.cur, k8 := v 0, k9 := v 1, k10 := v 2, k11 := v 3, started := [],
        done := [], sentChunks := [], failed := none, stop := none, follow := none, faults := [] }
    if c.fieldsBad (t.team team).clusterSize then engineTrap 8
    if c.follows && (t.kind = .group || (t.core core).followOn.isNone) then engineTrap 9
    t.copyAligned c
    t.copyInside c
    t.memGate
    t.fenceGate
    if 16 ≤ (t.core core).cq.length then .error (.wait (.resource .copy))
    else
      let u ← t.attach c.token
      let c := { c with follow := if c.follows then (u.core core).followOn else none }
      let left := fun (k : Core) => if c.follows then none else k.followOn
      let u := { u with fresh := u.fresh + 1 }.modCore core fun k => { k with cq := k.cq ++ [c], followOn := left k }
      let u := u.advance
      .ok (if c.part.2 = 0 then u.endCopy core c else u.startChunks core team))

/-! ### Depth (R216) -/

/-- A number brought between two. -/
def clampNat (lo hi x : Nat) : Nat := if x < lo then lo else if hi < x then hi else x

/-- Depth that a sum of 32 latencies in ns asks for: ⌈Lavg ÷ 128 ns⌉ between the limits (R216). -/
def depthFor (lo hi total : Nat) : Nat := clampNat lo hi ((total + 4095) / 4096)

/-- R216: a current depth outside the new limits is formed again at once from the mean latency of the last 32 chunks. DESIGN
CHOICE (log 108): until 32 chunks have completed, that mean is the 512 ns of the launch depth. -/
def execPipe (x n : BitVec 5) (s : State) :=
  conclude s (do
    s.needKind (.pipe x n) [.group, .seq]
    let team := ctxTeam s.cur
    let t := s.modTeam team fun tm =>
      { tm with pipeMin := n.toNat, pipeMax := x.toNat,
                depth := if n.toNat ≤ tm.depth && tm.depth ≤ x.toNat then tm.depth else depthFor n.toNat x.toNat tm.lavg }
    .ok (t.advance.startChunks (t.ctxCore t.cur) team))

/-- R216: after 32 completed chunks, the depth follows their mean latency. -/
def execPipeDepthAdjust (team : Nat) (s : State) : Host.Outcome State Fault Refusal :=
  .next (
    let tm := s.team team
    if tm.latencies.length < 32 || tm.state ≠ .resident then s
    else
      let total := sumNat (tm.latencies.take 32)
      (s.modTeam team fun tm =>
        { tm with latencies := tm.latencies.drop 32, lavg := total,
                  depth := depthFor tm.pipeMin tm.pipeMax total }).startChunks tm.core team)

end Sys2Proof.Machine
end

