-- ==== Sys2Proof/Machine/Wave.lean ====
section
/-! DEFINITION. The slack wave: passes, replies, quiet decisions, and the waits they end (R177, R297, R313 to R315). -/

namespace Sys2Proof.Machine

/-! ### Results delivered to waiting contexts (R297) -/

/-- A context that waits receives its result and goes on as after any instruction (R110); in an image too, where the wake
condition then holds (R297, log 66). -/
def State.resumeWith (s : State) (c : Ctx) (d : RegNum) (x : Nat) : State :=
  let s := s.deliverReg c d 1 x
  match c with
  | .host _ => s.advanceOf c
  | _ =>
    let t := ctxTeam c
    if (s.team t).state ≠ .saved then s.advanceOf c
    else
      let set := fun (tm : Team) => match c with
        | .group _ g p => { tm with wake := true, groups := modAt g (fun gr => { gr with splits := modAt p Split.next gr.splits }) tm.groups }
        | _ => { tm with wake := true, seq := tm.seq.map fun q => { q with pc := q.pc + 4, wait := Wait.none } }
      (s.modView t true set).evalWake (s.team t).cluster

/-- Every context of some job with its wait. -/
def State.waiters (s : State) (job : Nat) : List (Ctx × Wait) :=
  let ofTeam := fun (t : Nat) =>
    let v := s.view t
    (v.groups.mapIdx fun g gr => (gr.splits.mapIdx fun p sp => if sp.valid then [(Ctx.group t g p, sp.wait)] else []).flatten).flatten
      ++ (v.seq.toList.map fun q => (Ctx.seq t, q.wait))
  (s.teams.filter fun e => lrJob e.2.launch = job).flatMap (fun e => ofTeam e.1)
    ++ (s.cols.filter fun e => s.ctxJob (.host e.1) = job).map fun e => (Ctx.host e.1, e.2.host.wait)

/-- Some team of a job is being saved or restored. -/
def State.jobTransit (s : State) (job : Nat) : Bool :=
  s.teams.any fun e => lrJob e.2.launch = job && (e.2.state = .saving || e.2.state = .restoring)

/-- Every `waitq` of a job that `f` gives a result, from the pass and the Σ LOST it recorded, ends with it. -/
def State.endWaitq (s : State) (job : Nat) (f : DWord → DWord → Option Nat) : State :=
  (s.waiters job).foldl (fun s e => match e.2 with
    | .waitq d n l => match f n l with
      | none => s
      | some x => s.resumeWith e.1 d x
    | _ => s) s

/-! ### `waitq` (R177, R315) -/

/-- Chunks of remote copies that the issuing context's group or sequencer began have not left the column yet (R212). -/
def State.unsentChunks (s : State) : Bool :=
  (s.core (s.ctxCore s.cur)).cq.any fun c => c.rem && decide (c.ctx = engCtx s.cur) &&
    let left := (c.sentChunks ++ c.done.filter fun k => !c.sentChunks.contains k).length
    let due := match c.stop with
      | none => c.most
      | some k => min c.most (k + 1)
    decide (left < due)

/-- R177: with the wave off it does not wait. It issues once every message that its group or sequencer issued before counts in
INJ, and records the pass and Σ LOST that its tower knows (R315). -/
def execWaitq (d : RegNum) (s : State) :=
  conclude s (do
    let (_, t) ← s.operands [dstU d]
    let j := t.ctxJob t.cur
    if !t.waveOn j then .ok (t.writeOpd (dstU d) fun _ => 10).advance
    else if t.unsentChunks then .error .stall
    else
      let tj := t.towerJob (towerOfCore (t.ctxCore t.cur)) j
      .error (.wait (.waitq d tj.snapPass tj.qlost)))

/-! ### Fields of the wave registers (R307) -/

/-- ROOT of a job's `WVCTL`. -/
def State.waveRoot (s : State) (j : Nat) : Bool := bitOf (s.job j).wvctl.toNat 62

/-- Parent node. -/
def State.waveParent (s : State) (j : Nat) : BitVec 20 := BitVec.ofNat 20 (bitsOf (s.job j).wvctl.toNat 32 20)

/-- Pass period in ns. -/
def State.wavePeriod (s : State) (j : Nat) : Nat :=
  let p := bitsOf (s.job j).wvctl.toNat 0 16
  250 * (if p = 0 then 8 else p)

/-- Children of this package. -/
def State.waveKids (s : State) (j : Nat) : List (BitVec 20) :=
  (upto (min 16 (bitsOf (s.job j).wvkids.toNat 0 5))).map fun i => (tabGet 0 i (s.job j).wvkid).setWidth 20

/-- A job's wave state changed. -/
def State.modWave (s : State) (j : Nat) (f : WaveState → WaveState) : State := s.modJob j fun b => { b with wave := f b.wave }

/-! ### A pass (R314) -/

/-- Job of a packet. -/
def WavePacket.job : WavePacket → Nat
  | .wave j _ => j
  | .reply j _ _ _ _ _ _ => j
  | .quiet j _ _ _ => j

/-- Pass of a packet. -/
def WavePacket.pass : WavePacket → DWord
  | .wave _ p => p
  | .reply _ p _ _ _ _ _ => p
  | .quiet _ p _ _ => p

/-- TYPE of R322. -/
def WavePacket.type : WavePacket → Nat
  | .wave _ _ => 4
  | .reply _ _ _ _ _ _ _ => 5
  | .quiet _ _ _ _ => 6

/-- A packet of the wave agent, the interface of tower 0, leaves by a port (R313, R317, R323). -/
def State.waveWire (s : State) (dst : BitVec 20) (p : WavePacket) : State :=
  let ps := s.portsFor 0 dst none
  { s with fresh := s.fresh + 1 }.leaveBy ps[Sys2Proof.Config.planeHash dst.toNat p.pass.toNat % ps.length]? s.fresh 0 0 dst
    { type := p.type, job := p.job, ord := 0, cls := 0, seq := p.pass.toNat, pri := 0, status := 0 }

/-- A packet leaves, or waits for the next period of the budget of wave packets (R342). -/
def State.emitWave (s : State) (e : BitVec 20 × WavePacket) : State :=
  if !s.budgetLeft 0 2 then { s with waveWait := s.waveWait ++ [e] }
  else
    let t := { s with waveOut := s.waveOut ++ [e] }.modWave e.2.job fun w => { w with sentAt := tabSet e.1.toNat s.now w.sentAt }
    (t.useBudget 0 2 1).waveWire e.1 e.2

/-- Packets of a job leave, in place of those that left before. -/
def State.sendWave (s : State) (j : Nat) (ps : List (BitVec 20 × WavePacket)) : State :=
  ps.foldl State.emitWave { s with waveOut := s.waveOut.filter fun (p : BitVec 20 × WavePacket) => p.2.job ≠ j }

/-- Packets that waited leave in a new period (R342). -/
def State.drainWaves (s : State) : State :=
  s.waveWait.foldl State.emitWave { s with waveWait := [] }

/-- The discard flag of a job. -/
def State.discFlag (s : State) (j : Nat) : Bool := bitOf (s.job j).ctl.toNat 62

/-- A quiet decision delivered to every tower: it releases the `waitq` of passes before both of its own (R315). -/
def State.deliverQuiet (s : State) (j : Nat) (p lost : DWord) (disc : Bool) : State :=
  let s := (upto 8).foldl (fun s t => s.modTowerJob t j fun c => { c with qpass := p, qlost := lost }) s
  s.endWaitq j fun n l =>
    if n.toNat + 1 < p.toNat then
      let st := if disc then stDISCARD else if l.toNat < lost.toNat then stLOSSY else stQUIET
      some (st.toNat + p.toNat % 2 ^ 32 * 2 ^ 32)
    else none

/-- The towers' snapshots and the children's replies added up. -/
def WaveState.total (w : WaveState) : (DWord × DWord × DWord) × Bool :=
  (w.snaps.map (·.2) ++ w.replies.map (·.2)).foldl
    (fun a r => ((a.1.1 + r.1, a.1.2.1 + r.2.1, a.1.2.2 + r.2.2.1), a.2 || r.2.2.2)) ((0, 0, 0), false)

/-- Every tower has taken its snapshot and every child has replied: a reply to the parent, or at the root the decision. -/
def State.finishPass (s : State) (me : BitVec 20) (j : Nat) : State :=
  let w := (s.job j).wave
  let (sums, disc) := w.total
  let p := w.pass
  let s := s.modWave j fun w => { w with running := false, replied := p }
  if s.waveRoot j then
    let same := match w.prev with
      | none => false
      | some q => decide (q = sums)
    let s := s.modWave j fun w => { w with prev := some sums }
    if same && sums.1 = sums.2.1 + sums.2.2 then
      (s.sendWave j ((s.waveKids j).map fun k => (k, .quiet j p sums.2.2 disc))).deliverQuiet j p sums.2.2 disc
    else s
  else s.sendWave j [(s.waveParent j, .reply j p me sums.1 sums.2.1 sums.2.2 disc)]

/-- The pass ends here once nothing of it is missing. -/
def State.checkPass (s : State) (j : Nat) : State :=
  let w := (s.job j).wave
  if w.running && w.snaps.length = 8 && (s.waveKids j).all fun k => w.replies.any fun r => r.1 = k then s.finishPass s.node j else s

/-- A pass reaches this package: a snapshot is asked of every tower, and the wave goes to the children. -/
def State.beginPass (s : State) (j : Nat) (p : DWord) : State :=
  (s.modWave j fun w => { w with pass := p, running := true, snaps := [], replies := [] }).sendWave j
    ((s.waveKids j).map fun k => (k, .wave j p))

/-- The request for a snapshot of the running pass reaches a tower over the grid (R314): its counters and DISC are taken, and
the tower knows the pass from then on (R315). -/
def State.towerSnapshot (s : State) (j t : Nat) : State :=
  let w := (s.job j).wave
  if 8 ≤ t || !w.running || (tabFind t w.snaps).isSome || s.jobTransit j then s
  else
    let c := s.towerJob t j
    let s := s.modWave j fun w => { w with snaps := tabSet t (c.inj, c.con, c.lost, s.discFlag j) w.snaps }
    (s.modTowerJob t j fun c => { c with snapPass := w.pass }).checkPass j

/-- R314: the root's next pass. -/
def execWavePassStart (job : Nat) (s : State) : Host.Outcome State Fault Refusal :=
  .next (
    let w := (s.job job).wave
    if !s.waveOn job || !s.waveRoot job || w.running || (w.pass ≠ 0 && s.now < w.started + s.wavePeriod job)
        || s.jobTransit job then s
    else (s.modWave job fun w => { w with started := s.now }).beginPass job (w.pass + 1))

/-- R314: WAVE packet number `n` of those that have arrived. -/
def execWave (n : Nat) (s : State) : Host.Outcome State Fault Refusal :=
  .next (match s.waves[n]? with
    | some (.wave j p) =>
      let t := { s with waves := delAt n s.waves }
      if !t.waveOn j || t.waveRoot j || p.toNat ≤ (t.job j).wave.pass.toNat then t else t.beginPass j p
    | _ => s)

/-- R314: REPLY packet number `n`. -/
def execReply (n : Nat) (s : State) : Host.Outcome State Fault Refusal :=
  .next (match s.waves[n]? with
    | some (.reply j p child inj con lost disc) =>
      let w := (s.job j).wave
      let t := { s with waves := delAt n s.waves }
      if s.jobTransit j then s
      else if !t.waveOn j || !w.running || w.pass ≠ p || w.replies.any (fun r => r.1 = child) || !(t.waveKids j).contains child then t
      else
        (t.modWave j fun w => { w with replies := w.replies ++ [(child, inj, con, lost, disc)] }).checkPass j
    | _ => s)

/-- R314: QUIET packet number `n`, passed on and delivered. -/
def execQuiet (n : Nat) (s : State) : Host.Outcome State Fault Refusal :=
  .next (match s.waves[n]? with
    | some (.quiet j p lost disc) =>
      let t := { s with waves := delAt n s.waves }
      if s.jobTransit j then s
      else if !t.waveOn j || p.toNat ≤ (t.towerJob 0 j).qpass.toNat then t
      else (t.sendWave j ((t.waveKids j).map fun k => (k, .quiet j p lost disc))).deliverQuiet j p lost disc
    | _ => s)

/-- R314: packet number `n` of those that left is sent again after 20 µs without an answer. -/
def execWaveResend (n : Nat) (s : State) : Host.Outcome State Fault Refusal :=
  .next (match s.waveOut[n]? with
    | none => s
    | some (dst, p) =>
      let j := p.job
      let w := (s.job j).wave
      let unanswered := match p with
        | .wave _ q => w.running && w.pass = q && !(w.replies.any fun r => r.1 = dst)
        | .reply _ q _ _ _ _ _ => w.pass = q && (s.towerJob 0 j).qpass ≠ q
        | .quiet _ _ _ _ => false
      if unanswered && tabGet 0 dst.toNat w.sentAt + 20000 ≤ s.now && s.budgetLeft 0 2 then
        { s with waveOut := delAt n s.waveOut }.emitWave (dst, p) else s)

/-! ### `WVCTL` (R307, R314, R177) -/

/-- Bits of `WVCTL` that can be written. -/
def wvctlMask : DWord := 0xC00FFFFF0000FFFF

/-- R314: EN from 0 to 1 starts the numbering again; EN cleared ends every `waitq` of the job with DENIED. While the job is
valid only EN changes. -/
def execWvctlWrite (job : Nat) (v : DWord) (s : State) : Host.Outcome State Fault Refusal :=
  .next (
    let was := s.waveOn job
    let now := v.getLsbD 63
    let old := (s.job job).wvctl
    let new := if s.jobValid job then (old &&& 0x7FFFFFFFFFFFFFFF) ||| (v &&& 0x8000000000000000) else v &&& wvctlMask
    if s.jobTransit job then s
    else
      let t := s.modJob job fun b => { b with wvctl := new }
      if now && !was then
        let t := t.modWave job fun w =>
          { w with pass := 0, started := s.now, running := false, snaps := [], replies := [], prev := none, replied := 0 }
        (upto 8).foldl (fun t i => t.modTowerJob i job fun c => { c with snapPass := 0, qpass := 0, qlost := 0 }) t
      else if was && !now then (t.modWave job fun w => { w with running := false }).endWaitq job fun _ _ => some stDENIED.toNat
      else t)

end Sys2Proof.Machine
end

