-- ==== Sys2Proof/Machine/Nvme.lean ====
section
/-! DEFINITION. NVMe queues: submission, waiting, completion and control (R227 to R230, R326, R327). The layouts of
submission and completion entries, protection information and the CRC are those of NVMe (log 41). -/

namespace Sys2Proof.Machine

/-! ### Queue fields (R326) -/

/-- EN. -/
def NvQueue.on (q : NvQueue) : Bool := q.ctl.getLsbD 63
/-- PROT. -/
def NvQueue.prot (q : NvQueue) : Bool := q.ctl.getLsbD 62
/-- LBA size in bytes; 0 for a reserved code. -/
def NvQueue.lba (q : NvQueue) : Nat :=
  match bitsOf q.ctl.toNat 60 2 with
  | 0 => 512
  | 1 => 4096
  | _ => 0
/-- JOB. -/
def NvQueue.job (q : NvQueue) : Nat := bitsOf q.ctl.toNat 48 8
/-- Entries of each ring. -/
def NvQueue.depth (q : NvQueue) : Nat := bitsOf q.ctl.toNat 32 12 + 1

/-! ### Protection information -/

/-- One bit of the reflected CRC-64. -/
def crcStep (x : Nat) : Nat := if x % 2 = 1 then (x / 2) ^^^ 0x9A6C9329AC4BC9B5 else x / 2

/-- One byte. -/
def crcByte (x : Nat) (b : Byte) : Nat := (List.replicate 8 ()).foldl (fun x _ => crcStep x) (x ^^^ b.toNat)

/-- CRC-64 of the NVMe specification. -/
def crc64 (bs : List Byte) : Nat := (bs.foldl crcByte (2 ^ 64 - 1)) ^^^ (2 ^ 64 - 1)

/-- Bytes of a number, most significant first. -/
def beBytes (n x : Nat) : List Byte := (toBytes n x).reverse

/-- Protection information of a block: guard, application tag and reference tag. -/
def protBytes (guard app ref : Nat) : List Byte := beBytes 8 guard ++ beBytes 2 app ++ beBytes 6 (ref % 2 ^ 48)

/-- The blocks of `n` bytes each in a run of bytes. -/
def blocksOf (n : Nat) : Nat → List Byte → List (List Byte)
  | 0, _ => []
  | k + 1, bs => bs.take n :: blocksOf n k (bs.drop n)

/-- Protection area of a slot. -/
def NvQueue.area (q : NvQueue) (slot : Nat) : Nat := q.pab.toNat + 32768 * slot

/-! ### The descriptor (R227) -/

/-- A command as its four registers hold it. -/
structure NvCmd where
  buf : Nat
  slba : Nat
  nlb : Nat
  opc : Nat
  fua : Bool
  pichk : Bool
  app : Nat
  ref : Nat
  reserved : Bool
  deriving DecidableEq, Repr

/-- The fields of kb to kb+3. -/
def nvCmd (k0 k1 k2 k3 : Nat) : NvCmd :=
  { buf := bitsOf k0 0 57, slba := k1, nlb := bitsOf k2 48 16, opc := bitsOf k2 40 8, fua := bitOf k2 39, pichk := bitOf k2 38,
    app := bitsOf k3 48 16, ref := bitsOf k3 0 48, reserved := bitsOf k0 57 7 ≠ 0 || bitsOf k2 0 38 ≠ 0 }

/-- The first checks of R228, for a command of a job. -/
def NvQueue.denies (q : NvQueue) (c : NvCmd) (job : Nat) : Bool :=
  !q.on || q.job ≠ job || q.lba = 0 || c.reserved || 2 < c.opc || (c.opc ≠ 0 && c.buf % 512 ≠ 0)
    || 2 ^ 20 < (c.nlb + 1) * q.lba || (c.pichk && !q.prot)

/-- The pages of a buffer translated: where each piece lies, with its length. -/
def State.nvTranslate (s : State) (r : Requester) (t : AccType) : List (Nat × Nat) → Except Stop (List (Xlat × Nat) × State)
  | [] => .ok ([], s)
  | (va, n) :: rest =>
    match s.translate r t va with
    | .error e => .error (s.stopOf va e)
    | .ok (x, s) => do
      let (xs, s) ← s.nvTranslate r t rest
      .ok ((x, n) :: xs, s)

/-- The physical pieces of a buffer in one page each, once every page has translated; `none` where a page forbids the
drive's access, or the buffer runs past the address space. -/
def State.nvPieces (s : State) (r : Requester) (t : AccType) (ps : List (Nat × Nat)) :
    Except Stop (Option (List (Nat × Nat)) × State) :=
  if ps.any fun p => decide (2 ^ 57 < p.1 + p.2) then .ok (none, s)
  else do
    let (xs, s) ← s.nvTranslate r t ps
    if xs.any fun x => (s.permit r t x.1).toOption.isNone then .ok (none, s)
    else .ok (some (xs.map fun x => (x.1.pa, x.2)),
      xs.foldl (fun s x => if s.cacheable x.1 then s.touch (viaCol r.via) x.1.pa else s) s)

/-- A run of bytes cut at 64 KiB pages. -/
def pagesOf (va : Nat) : Nat → Nat → List (Nat × Nat)
  | 0, _ => []
  | fuel + 1, n =>
    if n = 0 then []
    else
      let k := min n (65536 - va % 65536)
      (va, k) :: pagesOf (va + k) fuel (n - k)

/-- The bytes of physical pieces. -/
def State.pieceBytes (s : State) (ps : List (Nat × Nat)) : List Byte := ps.flatMap fun p => s.physRead p.1 p.2

/-! ### The submission entry -/

/-- `n` bytes from offset `off` of a buffer, as physical pieces. -/
def subPieces (off n : Nat) : List (Nat × Nat) → List (Nat × Nat)
  | [] => []
  | (a, k) :: rest =>
    if n = 0 then []
    else if k ≤ off then subPieces (off - k) n rest
    else
      let m := min n (k - off)
      (a + off, m) :: subPieces 0 (n - m) rest

/-- Adjacent pieces put together into physical runs. -/
def mergeRuns : List (Nat × Nat) → List (Nat × Nat)
  | [] => []
  | (a, n) :: rest => match mergeRuns rest with
    | (b, m) :: t => if a + n = b then (a, n + m) :: t else (a, n) :: (b, m) :: t
    | [] => [(a, n)]

/-- An SGL descriptor: address, length, and its type in the last byte. -/
def sglBytes (addr len kind : Nat) : List Byte := toBytes 8 addr ++ toBytes 4 len ++ zeros 3 ++ [BitVec.ofNat 8 kind]

/-- Data pointer of a command: the one run, or the last segment that lists several. -/
def dataPointer (queue slot : Nat) (ps : List (Nat × Nat)) : List Byte :=
  match mergeRuns ps with
  | [] => zeros 16
  | [(a, n)] => sglBytes a n 0
  | rs => sglBytes (Sys2Proof.Config.sglSegment queue slot).toNat (16 * rs.length) 0x30

/-- The 64 bytes of an entry. -/
def entryBytes (q : NvQueue) (queue slot : Nat) (c : NvCmd) (ps : List (Nat × Nat)) : List Byte :=
  let chk := if c.pichk then 7 * 2 ^ 26 else 0
  toBytes 4 (c.opc + 0x40 * 2 ^ 8 + slot * 2 ^ 16) ++ toBytes 4 (bitsOf q.ctl.toNat 0 32)
    ++ toBytes 4 0 ++ toBytes 4 (if c.pichk then c.ref / 2 ^ 32 else 0)
    ++ toBytes 8 (q.area slot) ++ dataPointer queue slot ps
    ++ (if c.opc = 0 then zeros 24
        else toBytes 8 c.slba ++ toBytes 4 (c.nlb + chk + b2n c.fua * 2 ^ 30) ++ toBytes 4 0
          ++ toBytes 4 (if c.pichk then c.ref else 0) ++ toBytes 4 (if c.pichk then c.app + 0xFFFF * 2 ^ 16 else 0))

/-- A slot that a command can take: an identifier that is free, while the ring is not full (log 41). -/
def NvQueue.freeSlot (q : NvQueue) : Option Nat :=
  if (q.sqtail + 1) % q.depth = q.sqhead.toNat % q.depth then none
  else (upto q.depth).find? fun i => (tabFind i q.slots).isNone

/-- A write by the device at a physical address, with its count. -/
def State.deviceStore (s : State) (pa : Nat) (bs : List Byte) : State := s.agentWrite pa bs

/-- The descriptors of a buffer of several runs, in the segment that its entry points to (R327). -/
def State.writeSegment (s : State) (queue slot : Nat) (ps : List (Nat × Nat)) : State :=
  match mergeRuns ps with
  | r :: q :: rs => s.deviceStore (Sys2Proof.Config.sglSegment queue slot).toNat ((r :: q :: rs).flatMap fun x => sglBytes x.1 x.2 0)
  | _ => s

/-- The entry is written and the doorbell rung. -/
def State.submit (s : State) (queue slot : Nat) (c : NvCmd) (ps : List (Nat × Nat)) : State :=
  let q := s.nvq queue
  let tail := (q.sqtail + 1) % q.depth
  let s := s.writeSegment queue slot ps
  let s := (s.deviceStore (q.sqb.toNat + 64 * q.sqtail) (entryBytes q queue slot c ps)).physWrite q.sqdb.toNat (toBytes 4 tail)
  let k : NvSlot :=
    { ctx := s.cur, orphan := false, op := BitVec.ofNat 8 c.opc, pichk := c.pichk, va := c.buf, buf := ps, blocks := c.nlb + 1, result := none,
      waiter := none }
  s.modNvq queue fun q => { q with sqtail := tail, slots := tabSet slot k q.slots }

/-- Guards of the first `n` blocks of a write, in the slot's protection area. -/
def State.writeGuards (s : State) (queue slot : Nat) (c : NvCmd) (ps : List (Nat × Nat)) (n : Nat) : State :=
  let q := s.nvq queue
  let bs := (blocksOf q.lba (c.nlb + 1) (s.pieceBytes ps)).take n
  s.deviceStore (q.area slot) (bs.mapIdx fun i b => protBytes (crc64 b) c.app (c.ref + i)).flatten

/-- The first block of a buffer with a byte in a poisoned line. -/
def State.poisonBlock (s : State) (lba blocks : Nat) (ps : List (Nat × Nat)) : Option Nat :=
  (upto blocks).find? fun i => (subPieces (i * lba) lba ps).any fun p => (s.poisonIn p.1 p.2).isSome

/-- R228, after the first checks: the outcome and the state. -/
def State.nvsubmit (s : State) (queue : Nat) (c : NvCmd) : Except Stop (Nat × State) := do
  let q := s.nvq queue
  if q.denies c (s.ctxJob s.cur) then .ok (stDENIED.toNat, s)
  else
    let n := (c.nlb + 1) * q.lba
    let (ps, s) ← s.nvPieces (s.requester s.cur) (if c.opc = 1 then .read else .write)
      (if c.opc = 0 then [] else pagesOf c.buf 18 n)
    match ps with
    | none => .ok (stDENIED.toNat, s)
    | some ps => match q.freeSlot with
      | none => .ok (stBUSY.toNat, s)
      | some slot =>
        if c.opc = 1 && c.pichk then
          match s.poisonBlock q.lba (c.nlb + 1) ps with
          | some i => .ok (stUE.toNat, s.writeGuards queue slot c ps i)
          | none => .ok (queue * 256 + slot * 65536, (s.writeGuards queue slot c ps (c.nlb + 1)).submit queue slot c ps)
        else .ok (queue * 256 + slot * 65536, s.submit queue slot c ps)

/-- R227, R228. -/
def execNvsub (d a b : RegNum) (r : Bool) (s : State) :=
  conclude s (do
    if b ≠ 104 && b ≠ 108 then illegalOperand 0
    let ks := (upto 4).map fun i => ({ reg := b + BitVec.ofNat 7 i, role := .src, words := 2, set := .k } : Opd)
    let (xs, t) ← s.operands (srcU a :: ks ++ [dstU d])
    let v := fun i => (nthLanes xs i t.low).toNat % 2 ^ 64
    if 64 ≤ v 0 then illegalOperand 0
    else
      if r then t.releaseGate
      let (x, u) ← t.nvsubmit (v 0) (nvCmd (v 1) (v 2) (v 3) (v 4))
      .ok (u.writeOpd (dstU d) fun _ => BitVec.ofNat 128 x).advance)

/-! ### Waiting (R229) -/

/-- A command's slot is free again. -/
def State.freeNvSlot (s : State) (queue slot : Nat) : State := s.modNvq queue fun q => { q with slots := tabDel slot q.slots }

/-- The context that waits for a slot's completion, unless a trap or an interrupt took it away from its `nvwait` on the slot's
ticket. -/
def State.nvWaiter (s : State) (queue slot : Nat) (k : NvSlot) : Option (Ctx × RegNum) :=
  k.waiter.filter fun w => match s.ctxWait w.1 with
    | .nvwait _ x => bitsOf x.toNat 8 6 = queue && bitsOf x.toNat 16 16 = slot
    | _ => false

/-- R229: the first `nvwait` on a ticket receives its completion; any other is DENIED at once. The drive's writes are in
memory before its completion entry, so `.acq` finds its order given already (R230, log 9). -/
def execNvwait (d a : RegNum) (q : Bool) (s : State) :=
  conclude s (do
    let _ := q
    let (xs, t) ← s.operands [srcU a, dstU d]
    let x := (nthLanes xs 0 t.low).toNat % 2 ^ 64
    let queue := bitsOf x 8 6
    let slot := bitsOf x 16 16
    let finish := fun (u : State) (y : Nat) => (u.writeOpd (dstU d) fun _ => BitVec.ofNat 128 y).advance
    if x % 16 ≠ 0 || (t.nvq queue).job ≠ t.ctxJob t.cur then .ok (finish t stDENIED.toNat)
    else match tabFind slot (t.nvq queue).slots with
      | none => .ok (finish t stDENIED.toNat)
      | some k => match k.result, t.nvWaiter queue slot k with
        | some y, _ => .ok (finish (t.freeNvSlot queue slot) y.toNat)
        | none, some _ => .ok (finish t stDENIED.toNat)
        | none, none =>
          let k' := { k with waiter := some (t.cur, d) }
          let u := t.modNvq queue fun q => { q with slots := tabSet slot k' q.slots }
          .ok (u.setWait u.cur (.nvwait d (BitVec.ofNat 64 x))))

/-! ### Completion (R327, R229) -/

/-- STATUS of a completion's status field: UE for media, end-to-end and data-transfer errors, DENIED for any other. -/
def nsfStatus (nsf : Nat) : BitVec 4 :=
  if nsf = 0 then stOK
  else if bitsOf nsf 8 3 = 2 || (bitsOf nsf 8 3 = 0 && bitsOf nsf 0 8 = 4) then stUE else stDENIED

/-- The first block of a read whose guard is not the one the drive wrote. -/
def State.badGuard (s : State) (q : NvQueue) (slot : Nat) (k : NvSlot) : Option Nat :=
  let bs := blocksOf q.lba k.blocks (s.pieceBytes k.buf)
  (upto k.blocks).find? fun i =>
    beBytes 8 (crc64 (bs.getD i [])) ≠ s.physRead (q.area slot + 16 * i) 8

/-- The result of a completed command. -/
def State.nvResult (s : State) (q : NvQueue) (slot nsf : Nat) (k : NvSlot) : DWord :=
  let bad := if nsf = 0 && k.op = 2 && k.pichk then s.badGuard q slot k else none
  match bad with
  | some i => BitVec.ofNat 64 (i % 2 ^ 16 * 2 ^ 48 + slot * 2 ^ 16 + stUE.toNat)
  | none => BitVec.ofNat 64 (nsf % 2 ^ 15 * 2 ^ 32 + slot * 2 ^ 16 + (nsfStatus nsf).toNat)

/-- A completion reaches its slot: it is delivered, kept, or collected when its team is gone. -/
def State.completeSlot (s : State) (queue slot : Nat) (k : NvSlot) (x : DWord) : State :=
  match s.nvWaiter queue slot k with
  | some (c, d) => (s.freeNvSlot queue slot).resumeWith c d x.toNat
  | none =>
    if k.orphan then s.freeNvSlot queue slot
    else s.modNvq queue fun q => { q with slots := tabSet slot { k with result := some x } q.slots }

/-- The interface watches a completion queue: it is on, or a completion is still due (R326, R327). -/
def NvQueue.watched (q : NvQueue) : Bool := q.on || q.slots.any fun e => e.2.result.isNone

/-- R327: the entry at the head of a completion queue is taken when its phase tag says it is new. -/
def execNvmeCompletion (queue : Nat) (s : State) : Host.Outcome State Fault Refusal :=
  .next (
    let q := s.nvq queue
    let e := s.physRead (q.cqb.toNat + 16 * q.cqhead) 16
    let dw3 := ofBytes (e.drop 12)
    let slot := dw3 % 65536
    let k := tabFind slot q.slots
    let held := match k with
      | some x => match x.waiter with
        | some (c, _) => s.ctxTransit c
        | none => false
      | none => false
    if !q.watched || bitOf dw3 16 ≠ q.phase || held then s
    else
      let head := (q.cqhead + 1) % q.depth
      let q' := { q with cqhead := head, phase := if head = 0 then !q.phase else q.phase, sqhead := BitVec.ofNat 16 (ofBytes ((e.drop 8).take 2)) }
      let t := (s.modNvq queue fun _ => q').physWrite q.cqdb.toNat (toBytes 4 head)
      match k with
      | none => t
      | some x => t.completeSlot queue slot x (t.nvResult q slot (dw3 / 2 ^ 17) x))

/-! ### `NVQCTL` (R326) -/

/-- Bits of `NVQCTL` that can be written. -/
def nvqctlMask : DWord := 0xF0FF0FFFFFFFFFFF

/-- R326: while EN is 1 only a write that clears EN acts, and it clears EN; setting EN starts both rings anew. -/
def execNvqctlWrite (queue : Nat) (v : DWord) (s : State) : Host.Outcome State Fault Refusal :=
  .next (s.modNvq queue fun q =>
    if q.on then (if v.getLsbD 63 then q else { q with ctl := q.ctl &&& 0x7FFFFFFFFFFFFFFF })
    else
      let q := { q with ctl := v &&& nvqctlMask }
      if q.on then { q with sqtail := 0, sqhead := 0, cqhead := 0, phase := true } else q)

end Sys2Proof.Machine
end

