-- ==== Sys2Proof/Machine/Control.lean ====
section
/-! DEFINITION. Branches, calls, loops, exit, deliberate traps and the register window (R30, R101 to R113). -/

namespace Sys2Proof.Machine

/-! ### Splits and targets -/

/-- Loops still open after a taken branch at `pc` to `target`, innermost first (R111). -/
def leaveLoops (pc target : Addr) : List Loop → List Loop
  | [] => []
  | l :: outer =>
    let inside := fun (a : Addr) => l.start ≤ a && a ≤ l.last
    if inside pc && !inside target then leaveLoops pc target outer else l :: outer

/-- A split that takes a branch to a target; `call` closes no loop (R111). -/
def Split.goto (p : Split) (target : Addr) (leaves : Bool) : Split :=
  let ls := if leaves then (leaveLoops p.pc target p.loops.reverse).reverse else p.loops
  { p with pc := target, loops := ls, wait := .none }

/-- Places new splits in free table entries, the first in the lowest; those left over are returned. DESIGN CHOICE (log 97):
R30 and R103 say a free entry, not which. -/
def fillFree : List Split → List Split → List Split × List Split
  | [], ps => ([], ps)
  | e :: t, [] => (e :: t, [])
  | e :: t, p :: ps =>
    if e.valid then let r := fillFree t (p :: ps); (e :: r.1, r.2)
    else let r := fillFree t ps; (p :: r.1, r.2)

/-- Divergence (R30, R103): the first part keeps entry `i`, the others take free entries in their order, and
what is left is pushed last first. None when the deferred stack has no room. -/
def Group.diverge (g : Group) (i : Nat) (parts : List Split) : Option Group :=
  match parts with
  | [] => some g
  | p :: ps =>
    let r := fillFree (setAt i p g.splits) ps
    if 16 < g.deferred.length + r.2.length then Option.none
    else some { g with splits := r.1, deferred := g.deferred ++ r.2.reverse }

/-- Lanes of a split in groups of one target, in rising order of their lowest lane (R103). -/
def byTarget (f : Nat → Addr) : List Nat → List (Addr × List Nat)
  | [] => []
  | l :: ls =>
    let rest := byTarget f ls
    if rest.any fun e => e.1 = f l then
      (f l, l :: (rest.filter fun e => e.1 = f l).flatMap (·.2)) :: rest.filter fun e => e.1 ≠ f l
    else (f l, [l]) :: rest

/-- The issuing split divides into parts, each a mask and where it goes: to a target, or on. -/
def State.divide (s : State) (parts : List (Word × Option Addr)) : Res :=
  match s.cur with
  | .group t g p =>
    let sp := s.split t g p
    let ps := parts.map fun e =>
      let x := { sp with mask := e.1, wait := Wait.none }
      match e.2 with
      | none => x.next
      | some a => x.goto a true
    match (s.group t g).diverge p ps with
    | none => .error (.trap 11 0 0)
    | some gr => .ok (s.modGroup t g fun _ => gr)
  | _ => .ok s

/-- The issuing context moves to a target as a whole. -/
def State.goto (s : State) (target : Addr) (leaves : Bool) : State :=
  match s.cur with
  | .group t g p => s.modSplit t g p fun x => x.goto target leaves
  | c => (s.setPc c target).setWait c .none

/-- Target of a B-format branch: PC + 4 × off21, modulo 2^57 (R70, R101). -/
def State.branchTarget (s : State) (o : BitVec 21) : Addr := s.ctxPc s.cur + (o.signExtend 57) * 4

/-- A target with bits [1:0] or [63:57] nonzero is misaligned (R104). -/
def badTarget (x : DWord) : Bool := x.toNat % 4 ≠ 0 || 2 ^ 57 ≤ x.toNat

/-- `jr` on an operand (R103, R104). -/
def State.jumpThrough (s : State) (a : RegNum) : Res := do
  let (xs, t) ← s.operands [{ reg := a, role := .src, words := 2, set := .vu }]
  let f := fun l => (nthLanes xs 0 l).setWidth 64
  match t.lanes.find? fun l => badTarget (f l) with
  | some l => .error (.trap 4 (f l) 0)
  | none =>
    match byTarget (fun l => (f l).setWidth 57) t.lanes with
    | [] => .ok t
    | [(a, _)] => .ok (t.goto a true)
    | ps => t.divide (ps.map fun e => (maskOf e.2, some e.1))

/-- The return register: `v30` in a group, `s31` in a scalar context (R102). -/
def State.linkReg (s : State) : RegNum := if s.kind = .group then 30 else 31

/-! ### Branches -/

/-- R101. -/
def execBr (o : BitVec 21) (s : State) := conclude s (.ok (s.goto (s.branchTarget o) true))

/-- R101: all, none or some active lanes take the branch. -/
def execBp (neg : Bool) (p : BitVec 3) (o : BitVec 21) (s : State) :=
  conclude s (
    let m := s.ctxMask s.cur
    let taken := m &&& (if neg then ~~~(s.pred p.toNat) else s.pred p.toNat)
    if taken = m then .ok (s.goto (s.branchTarget o) true)
    else if taken = 0 then .ok s.advance
    else s.divide [(taken, some (s.branchTarget o)), (m &&& ~~~taken, none)])

/-- R102: the return address goes to the pair `v30`, `v31`, or to `s31`. -/
def execCall (o : BitVec 21) (s : State) :=
  conclude s (do
    let d : Opd := { reg := s.linkReg, role := .dst, words := 2, set := .any }
    let (_, t) ← s.operands [d]
    let back := (t.ctxPc t.cur + 4).setWidth 128
    .ok ((t.writeOpd d fun _ => back).goto (s.branchTarget o) false))

/-- R103. -/
def execJr (a : RegNum) (s : State) := conclude s (s.jumpThrough a)

/-- R102. -/
def execRet (s : State) := conclude s (s.jumpThrough s.linkReg)

/-! ### Loops (R109) -/

/-- Opens a loop of count `c` ending `l + 1` words on, or skips its body. -/
def State.openLoop (s : State) (c : Word) (l : BitVec 8) : Res :=
  match s.cur with
  | .group t g p =>
    let sp := s.split t g p
    let last := sp.pc + 4 * (l.setWidth 57 + 1)
    if c = 0 then
      let r := endTest last sp.loops.reverse
      .ok (s.modSplit t g p fun x => { x with pc := r.1, loops := r.2.reverse, wait := .none })
    else if sp.loops.length = 3 then illegalOperand 0
    else .ok (s.modSplit t g p fun x =>
      { x with loops := x.loops ++ [{ count := c, start := x.pc + 4, last := last }], pc := x.pc + 4, wait := .none })
  | _ => .ok s

/-- R109: the count comes from a u register or `z`. -/
def execLoop (a : RegNum) (l : BitVec 8) (s : State) :=
  conclude s (do
    s.needKind (.loop a l) [.group]
    let (xs, t) ← s.operands [{ reg := a, role := .src, words := 2, set := .uz }]
    t.openLoop ((nthLanes xs 0 0).setWidth 32) l)

/-- R109: an immediate count. -/
def execLoopI (n : BitVec 10) (l : BitVec 8) (s : State) :=
  conclude s (do
    s.needKind (.loopI n l) [.group]
    s.openLoop (n.setWidth 32) l)

/-! ### Exit and deliberate traps -/

/-- Number that stands for a split that no longer exists (R159). -/
def goneSplit : Nat := 4

/-- What entry `i` issued and has not completed no longer names it: its split ended or merged (R159). -/
def Group.orphan (g : Group) (i : Nat) : Group :=
  { g with
    regs := { g.regs with outs := g.regs.outs.map fun a => if a.split = i then { a with split := goneSplit } else a }
    posts := g.posts.map fun x => if x.split = i then { x with split := goneSplit } else x }

/-- An entry freed: the most recently deferred entry moves into it (R30). DESIGN CHOICE (log 97): it is not held, also where
the entry's split ended in its trap handler and others stay held. -/
def Group.freeEntry (g : Group) (i : Nat) : Group :=
  let g := g.orphan i
  match g.deferred.reverse with
  | [] => { g with splits := setAt i Split.none g.splits }
  | d :: rest =>
    { g with splits := setAt i { d with valid := true, wait := .none, held := false, parkHeld := false } g.splits,
             deferred := rest.reverse }

/-- Every split of the team that waits in `join` passes it (R218). -/
def Team.releaseJoins (tm : Team) : Team :=
  { tm with groups := tm.groups.map fun g =>
      { g with splits := g.splits.map fun p => if p.valid && p.wait = .join then p.next else p } }

/-- R105, R218: ends the issuing split, or the sequencer once its tokens are complete and, since its end is a release,
its accesses are performed. -/
def execExit (s : State) :=
  conclude s (
    match s.cur with
    | .group t g p => .ok (s.modGroup t g fun gr => gr.freeEntry p)
    | .seq t =>
      if !(s.seqr t).regs.outs.isEmpty then .error .stall
      else if tokensDone (s.seqr t).regs 0xFF then
        let s := s.modTeam t fun tm => { tm.releaseJoins with seq := none }
        .ok (s.modCore (s.team t).core fun c => { c with seqOwner := none })
      else .error (.wait (.token 0xFF))
    | .host _ => notProvided .exit 3)

/-- R106: the breakpoint cause. -/
def execBrk (c : BitVec 21) (s : State) := conclude s (.error (.trap 13 (c.setWidth 64) 0))

/-- R106: the trap cause. -/
def execTrap (c : BitVec 21) (s : State) := conclude s (.error (.trap 14 (c.setWidth 64) 0))

/-! ### The register window -/

/-- R113. -/
def execWinb (w : BitVec 5) (s : State) :=
  conclude s (do
    s.needKind (.winb w) [.group]
    if s.regsA ≤ 32 * w.toNat then .error (.trap 3 (BitVec.ofNat 64 (32 * w.toNat)) 0)
    else match s.cur with
      | .group t g p => .ok (s.modSplit t g p fun x => { x.next with wbi := w })
      | _ => .ok s)

end Sys2Proof.Machine
end

