-- ==== Sys2Proof/Machine/Issue.lean ====
section
/-! DEFINITION. What stands around an instruction: confluence and gathering, traps that are due before the next
issue, waits, fetch and decoding, host interrupts, and placing a word where the next step fetches it (R31, R77,
R107, R159, R174, R236 to R239, R259). -/

namespace Sys2Proof.Machine

/-! ### Confluence (R31) -/

/-- A split that could issue: valid and not waiting, with WAIT 0. -/
def Split.free (p : Split) : Bool := p.valid && p.code = 0

/-- Some split of a group could issue. -/
def Group.ready (g : Group) : Bool := (upto 4).any fun p => (g.splits.getD p Split.none).free

/-- Two splits meet: equal pc, window base, open-loop counters and loop records, neither waiting. -/
def Split.meets (p q : Split) : Bool := p.free && q.free && p.pc = q.pc && p.wbi = q.wbi && p.loops = q.loops

/-- The lower-numbered entry takes the lanes of both, and the other is freed. -/
def Group.mergePair (g : Group) (i j : Nat) : Group :=
  let p := g.splits.getD i Split.none
  let q := g.splits.getD j Split.none
  if p.meets q then ({ g with splits := setAt i { p with mask := p.mask ||| q.mask } g.splits }).freeEntry j else g

/-- Every pair of entries once. -/
def Group.mergeOnce (g : Group) : Group :=
  [(0, 1), (0, 2), (0, 3), (1, 2), (1, 3), (2, 3)].foldl (fun g e => g.mergePair e.1 e.2) g

/-- Confluence at an issue boundary, before a split is chosen. DESIGN CHOICE (log 97): a deferred split that moves into an
entry freed by a merge takes part too, so the pairs are gone through once more for each. -/
def Group.confluence (g : Group) : Group :=
  (upto (g.deferred.length + 1)).foldl (fun g _ => g.mergeOnce) g

/-! ### Gathering (R107) -/

/-- The instruction reads the lanes of its split together. -/
def isLaneForm : Instr → Bool
  | .vote _ _ _ => true
  | .shfl _ _ _ _ => true
  | .red _ _ _ => true
  | .scan _ _ _ _ => true
  | .lmask _ => true
  | _ => false

/-- Place of entry `i` in the order in which splits are considered (R286). -/
def Group.turn (g : Group) (i : Nat) : Nat := (i + 3 - g.lastIssued % 4) % 4

/-- Another valid split stands at or below the lane instruction's address and is not waiting. DEDUCED (log 29): of splits at
its own address that R31 does not merge, each going on by its own, the one considered first does not wait for the others. -/
def Group.gathers (g : Group) (p : Nat) : Bool :=
  let pc := (g.splits.getD p Split.none).pc
  (g.splits.mapIdx fun i q =>
    i ≠ p && q.free && (q.pc.toNat < pc.toNat || (q.pc = pc && g.turn i < g.turn p))).any id

/-! ### Traps due before the next issue -/

/-- The split that takes a trap of an access issued by entry `i` under a mask (R159). -/
def Group.trappingSplit (g : Group) (i : Nat) (mask : Word) : Option Nat :=
  if (g.splits.getD i Split.none).valid then some i
  else
    let holder := (lanesOf mask).findSome? fun l =>
      (upto 4).find? fun p => (g.splits.getD p Split.none).valid && (g.splits.getD p Split.none).mask.getLsbD l
    match holder with
    | some p => some p
    | .none => (upto 4).find? fun p => (g.splits.getD p Split.none).valid

/-- The error that no split is left to take: a poisoned line of this package, in a vault or at its home agent (R159, R350). A refused
access, and one to another package, meet no such line. -/
def State.logLostPoison (s : State) (t : Nat) (x : PostTrap) : State :=
  let tm := s.team t
  let pa := x.info.toNat % 2 ^ 52
  let unit := if s.place pa = .vault then 2 else 6
  if x.cause.toNat ≠ 8 || x.info.getLsbD 63 then s
  else s.logError (colOfCore tm.core)
    (s.errorRec unit 1 pa tm.core (lrJob tm.launch) 0 (Sys2Proof.Config.syndrome unit pa 0))

/-- The oldest trap of an access of a group is taken: `RESPC` is the first instruction that had not issued. With no
split left it is dropped and logged. The access ends either way (R159, R170). -/
def State.takePost (s : State) (t g : Nat) : State :=
  match (s.group t g).posts with
  | [] => s
  | x :: rest =>
    let s := s.modGroup t g fun gr =>
      let outs := gr.regs.outs.filter fun a => a.id ≠ x.accessId
      { gr with posts := rest, regs := { gr.regs with outs := outs } }
    match (s.group t g).trappingSplit x.split x.mask with
    | none => s.logLostPoison t x
    | some p =>
      let sp := s.split t g p
      s.takeRecoverable (.group t g p) x.cause.toNat x.info x.pc sp.pc sp.mask

/-- The overwrite trap of a group at the issue of split `p` (R174): the instruction has not executed. -/
def State.takeOverwrite (s : State) (t g p : Nat) : State :=
  match (s.group t g).overwrite with
  | none => s
  | some info =>
    let sp := s.split t g p
    (s.modGroup t g fun gr => { gr with overwrite := none }).takeRecoverable (.group t g p) 9 info sp.pc sp.pc sp.mask

/-- The first split after the one that issued last that could issue (R286), else the first valid one. -/
def Group.nextSplit (g : Group) : Option Nat :=
  let order := [1, 2, 3, 4].map fun i => (g.lastIssued + i) % 4
  match order.find? fun p => (g.splits.getD p Split.none).free with
  | some p => some p
  | .none => order.find? fun p => (g.splits.getD p Split.none).valid

/-! ### Host interrupts (R234, R239) -/

/-- `HIP`: TIMER, MBOX, FAULT, EVENT. -/
def State.hip (s : State) (c : Nat) : Nat :=
  let h := s.host c
  b2n (!h.q6.isEmpty) + 2 * b2n (!(s.col c).faults.isEmpty) + 4 * b2n (!h.q7order.isEmpty)
    + 8 * b2n (h.htcmp.toNat ≤ (s.cyc c).toNat)

/-- Some interrupt is pending and enabled. -/
def State.hostPending (s : State) (c : Nat) : Bool := s.hip c &&& (s.host c).hie.toNat != 0

/-- The interrupt that the host core takes at this boundary: pending, enabled, and its level above PL, or equal to
it with IE. Bits are tried from the highest (log 30). -/
def State.takeable (s : State) (c : Nat) : Option Nat :=
  let h := s.host c
  [3, 2, 1, 0].find? fun n =>
    let lvl := h.target (32 + n)
    bitOf (s.hip c) n && h.hie.getLsbD n && (h.pl.toNat < lvl.toNat || (lvl = h.pl && h.ie))

/-- The host core takes an interrupt: EPC is its first instruction not executed. -/
def State.interrupt (s : State) (c n : Nat) : State := s.modHost c fun h => h.enter true n 0 h.pc

/-! ### Fetch (R70, R77, R257, R259) -/

/-- A host core's fetch of the word at a physical address: from its instruction cache of 512 lines, which takes the line of
normal memory that it does not hold (R247, R259). -/
def State.hostFetch (s : State) (c : Nat) (x : Xlat) : Word × State :=
  let word := fun (bs : List Byte) => BitVec.ofNat 32 (ofBytes bs)
  if !s.cacheable x then (word (s.physRead x.pa 4), s)
  else
    let line := x.pa / 128
    let take := fun (bs : List Byte) => word ((bs.drop (x.pa % 128)).take 4)
    match tabFind line (s.host c).icache with
    | some bs => (take bs, s)
    | none =>
      let bs := s.physRead (128 * line) 128
      (take bs, s.modHost c fun h => { h with icache := tabWays 64 8 (Sys2Proof.Config.victim s.fresh) line (tabSet line bs h.icache) })

/-- The word at the pc: a group or sequencer reads its grid's code as it stood at launch, a host core its instruction cache
or memory (R259, log 17). -/
def State.fetch (s : State) : Except Stop (Word × State) :=
  let pc := (s.ctxPc s.cur).toNat
  match s.access (s.requester s.cur) .fetch pc with
  | .error e => .error (s.stopOf pc e)
  | .ok (x, t) =>
    match s.cur with
    | .host c => if inMailbox x.pa then .error (.fault (.hertorMailbox x.pa)) else .ok (t.hostFetch c x)
    | c => .ok (BitVec.ofNat 32 (memNat (s.team (ctxTeam c)).code x.pa 4), t)

/-- The instruction that a word is, or the trap it raises (R77, R78). -/
def instrOf (w : Word) : Except Stop Instr :=
  match decode w with
  | .error (.illegal r) => .error (.trap 1 (illegalInfo w r.toNat) 0)
  | .error .operand => .error (.trap 2 0 0)
  | .ok i => match i.fieldReason with
    | some r => .error (.trap 1 (illegalInfo w r.toNat) 0)
    | none => .ok i

/-! ### Whether a context issues -/

/-- A wait that ends by an event of its own: the instruction is not issued again. -/
def Wait.passive : Wait → Bool
  | .parked _ _ _ => true
  | .join => true
  | .answer => true
  | .waitq _ _ _ => true
  | .nvwait _ _ => true
  | _ => false

/-- What the issue of a context comes to. -/
inductive Prep where
  /-- the instruction to execute, and the state it executes in -/
  | run (i : Instr) (s : State)
  /-- nothing is executed -/
  | done (o : Host.Outcome State Fault Refusal)

/-- Fetch and decoding for the context that issues. -/
def State.prepareIssue (s : State) : Prep :=
  match s.fetch with
  | .error e => .done (conclude s (.error e))
  | .ok (w, t) => match instrOf w with
    | .error e => .done (conclude t (.error e))
    | .ok i => .run i t

/-- The instruction at the pc of the current context is a lane form. -/
def State.atLaneForm (s : State) : Bool :=
  match s.prepareIssue with
  | .run i _ => isLaneForm i
  | .done _ => false

/-- A team whose contexts may issue: its whole cluster is resident (R271), and it is not halted, on a core whose clock runs
(R238, R288, R336). -/
def State.teamRuns (s : State) (t : Nat) : Bool :=
  match tabFind t s.teams with
  | none => false
  | some tm =>
    tm.state = .resident && !tm.halted && !(s.core tm.core).asleep
      && (s.clusterTeams tm.cluster).all fun u => (s.team u).state = .resident

/-- A team's group may issue: its quarter's register sweep after a wake is done (R41). -/
def State.groupRuns (s : State) (t g : Nat) : Bool :=
  s.teamRuns t && !((s.core (s.team t).core).sweep.any fun e => e.1 = (s.group t g).quarter)

/-- A split is ready: valid, not waiting, and not held by the gather (R286). -/
def State.splitReady (s : State) (t g p : Nat) : Bool :=
  (s.split t g p).free && (s.split t g p).wait = .none && !((s.group t g).gathers p && ({ s with cur := .group t g p } : State).atLaneForm)

/-- A group is ready: a trap of an access is due, or some split of it is ready (R159, R285). -/
def State.slotReady (s : State) (t g : Nat) : Bool :=
  !(s.group t g).posts.isEmpty || (upto 4).any fun p => s.splitReady t g p

/-- A group's issue bookkeeping (R285): it is no longer urgent. A split that was parked executes again, so that it is not
counted twice and the splits held with it are free, unless another one is parked (R141, R145, R260). -/
def Group.issued (now p : Nat) (g : Group) : Group :=
  { g with
    lastIssued := p, lastIssue := now, waitingIssue := 0, urgent := false,
    regs := { g.regs with parked := tabDel p g.regs.parked }
    splits := if (tabFind p g.regs.parked).isSome && !g.parksBeside p then g.splits.map fun x => { x with parkHeld := false }
      else g.splits }

/-- Slots that a group waits before it is urgent (R285). -/
def urgentAfter : Nat := 48

/-- An issue of quarter `q` as another group of it sees it: one more slot in which it was ready and did not issue. -/
def Group.passedOver (q : Nat) (ready : Bool) (g : Group) : Group :=
  if g.quarter ≠ q then g
  else if ready then
    { g with waitingIssue := g.waitingIssue + 1, urgent := g.urgent || decide (urgentAfter ≤ g.waitingIssue + 1) }
  else { g with waitingIssue := 0 }

/-- The other groups of a quarter count an issue slot (R285; log 43). -/
def State.countSlot (s : State) (t g : Nat) : State :=
  let core := (s.team t).core
  let q := (s.group t g).quarter
  let pass := fun (u : Nat) (tm : Team) =>
    if tm.core = core && tm.state = .resident && !tm.halted then
      { tm with groups := tm.groups.mapIdx fun i x => if u = t && i = g then x else x.passedOver q (s.slotReady u i) }
    else tm
  { s with teams := tabMap pass s.teams }

/-- A context that issues has no table fill under way: its `tblld` executes again, or a trap took its place (R17, R136). -/
def ActTable.issues (c : Ctx) (t : ActTable) : ActTable :=
  { t with fill := t.fill.filter fun f => f.1 ≠ c }

/-- A core on which the current context issues is not idle (R336). -/
def State.busyCore (s : State) (core : Nat) : State :=
  s.modCore core fun c => { c with idleSince := s.now, table := c.table.issues s.cur }

/-- The issue of a split of a group: a trap that is due comes first. -/
def State.prepareGroup (s : State) (t g p : Nat) : Prep :=
  if !(s.group t g).posts.isEmpty then .done (.next (s.takePost t g))
  else if (s.group t g).overwrite.isSome then .done (.next (s.takeOverwrite t g p))
  else (((s.modGroup t g (Group.issued s.now p)).countSlot t g).busyCore (s.team t).core).prepareIssue

/-- The issue of the sequencer of a team. -/
def State.prepareSeq (s : State) (t : Nat) : Prep :=
  if !s.teamRuns t || (s.team t).seq.isNone || (s.seqr t).wait.passive then .done (.next s)
  else ((s.modSeq t fun q => { q with regs := { q.regs with parked := [] } }).busyCore (s.team t).core).prepareIssue

/-- The issue of a host core: an interrupt first, if one is taken. Between two instructions only: not while an answer to
one is due, and not before a pre-emption or `tlbi` that has begun passes. -/
def State.prepareHost (s : State) (c : Nat) : Prep :=
  let h := s.host c
  if h.stopped || h.wait = .answer then .done (.next s)
  else if h.wfi && !s.hostPending c then .done (.next s)
  else
    let s := if h.wfi then s.modHost c fun h => { h with wfi := false } else s
    match (if h.pending.isSome then none else s.takeable c) with
    | some n => .done (.next (s.interrupt c n))
    | none => if h.wait.passive then .done (.next s) else s.prepareIssue

/-! ### Placing a word where the next step fetches it -/

/-- Physical address that the current context fetches from; its pc where no translation stands. -/
def State.fetchPa (s : State) : Nat :=
  let pc := (s.ctxPc s.cur).toNat
  match s.access (s.requester s.cur) .fetch pc with
  | .ok (x, _) => x.pa
  | .error _ => pc

/-- The state with bytes where the current context fetches its next instruction. -/
def State.placeCode (s : State) (bs : List Byte) : State :=
  match s.cur with
  | .host c => (s.physWrite s.fetchPa bs).modHost c fun h => { h with icache := tabDel (s.fetchPa / 128) h.icache }
  | c => s.modTeam (ctxTeam c) fun tm => { tm with code := memPut tm.code s.fetchPa bs }

end Sys2Proof.Machine
end

