-- ==== Sys2Proof/Machine/Launch.lean ====
section
/-! DEFINITION. Launch: the instruction, the checks and lines of a slice, taking records into grids and batches,
completion notices (R222 to R226, R274 to R277). -/

namespace Sys2Proof.Machine

/-! ### The instruction (R222) -/

/-- The launch record in `k8` to `k15`. -/
def recordOf (xs : List DWord) : BitVec 512 := BitVec.ofNat 512 (sumNat (xs.mapIdx fun i x => x.toNat * 2 ^ (64 * i)))

/-- Slice that `a` of a launch selects, or the trap of a reserved bit. -/
def launchTarget (own x : Nat) : Except Stop Nat :=
  let self := bitOf x 7
  if 256 ≤ x || (self && bitsOf x 0 7 ≠ 0) then illegalOperand 0 else .ok (if self then own else bitsOf x 0 7)

/-- R222: the request is on its way to the slice, and the issuing split is held until the answer. -/
def execLaunch (a : RegNum) (s : State) :=
  conclude s (do
    let ks := [8, 9, 10, 11, 12, 13, 14, 15]
    let opd := fun (n : Nat) => ({ reg := BitVec.ofNat 7 (96 + n), role := .src, words := 2, set := .k } : Opd)
    let (xs, t) ← s.operands ({ reg := a, role := .both, words := 2, set := .u } :: ks.map opd)
    let col ← launchTarget (t.ctxCol t.cur) ((nthLanes xs 0 t.low).toNat % 2 ^ 64)
    t.releaseGate
    let launch := recordOf (ks.mapIdx fun i _ => (nthLanes xs (i + 1) t.low).setWidth 64)
    let req : LaunchReq :=
      { who := some t.cur, cap := none, reg := a, col := col, launch := launch, user := t.kind ≠ .host,
        job := BitVec.ofNat 8 (t.ctxJob t.cur), pri := BitVec.ofNat 3 (t.ctxPri t.cur) }
    let u := t.advance.setWait t.cur .answer
    .ok { u with launches := u.launches ++ [req] })

/-! ### The slice's checks (R224) -/

/-- A reserved bit is nonzero, or ENTRY, TVEC or CNADDR is misaligned. -/
def recordMalformed (r : BitVec 512) : Bool :=
  lrBits r 0 57 7 ≠ 0 || lrBits r 1 57 7 ≠ 0 || lrBits r 2 57 7 ≠ 0 || lrBits r 5 52 11 ≠ 0 || lrBits r 5 32 8 ≠ 0
    || lrBits r 6 57 6 ≠ 0 || lrBits r 7 0 64 ≠ 0 || lrEntry r % 4 ≠ 0 || lrTvec r % 4 ≠ 0 || lrCnaddr r % 8 ≠ 0

/-- A field exceeds its range, or a team cannot fit on one empty core. -/
def recordTooLarge (r : BitVec 512) : Bool :=
  16384 < lrVault r / 128 || 256 < lrBars r || 4096 < lrBits r 4 0 13
    || 4 * min 16 (1024 / lrRegs r) < lrGroups r

/-- DEP names no attached gauge, or a field of an absent feature is nonzero. -/
def State.recordDangling (s : State) (r : BitVec 512) : Bool :=
  (if lrDep r then (tabFind (gaugeKey (lrDha r) (lrDent r)) s.mgauges).isNone
   else lrDha r ≠ 0 || lrDent r ≠ 0 || lrDgen r ≠ 0)
    || (!lrCne r && lrCnaddr r ≠ 0)

/-- The record is refused: `user` when it comes from a group, a sequencer or a gauge, with job and priority limit. -/
def State.recordDenied (s : State) (r : BitVec 512) (user : Bool) (job pri : Nat) : Bool :=
  recordMalformed r || recordTooLarge r || s.recordDangling r || !s.jobValid (lrJob r)
    || (user && (lrJob r ≠ job || pri < lrPri r))

/-- Grid handle (R225). -/
def gridHandle (gseq : BitVec 30) (pri col : Nat) : DWord :=
  BitVec.ofNat 64 (gseq.toNat * 2 ^ 32 + pri % 8 * 2 ^ 15 + col % 128 * 2 ^ 8)

/-- A column that is retired, or has failed and behaves so (R348, R356). -/
def Column.out (c : Column) : Bool := c.svc.retired || c.svc.failed

/-- The store of a record to line `line` of a slice: its answer (R224, R225). A retired column refuses, and a draining
one is busy (R355, R356). -/
def State.storeLine (s : State) (c line : Nat) (r : BitVec 512) (user : Bool) (job pri : Nat) : DWord × State :=
  let col := s.col c
  if col.out || s.recordDenied r user job pri then (10, s)
  else if col.svc.drain || (tabFind line col.lines).isSome then (6, s)
  else
    let h := gridHandle col.gseq line c
    (h, s.modCol c fun k =>
      { k with gseq := k.gseq + 1,
               lines := tabSet line { launch := r, handle := h, user := user, code := s.mem } k.lines })

/-! ### Answers -/

/-- A value written to a register of a context as a local write of an image or of its own (R297), with the wake
condition evaluated again. -/
def State.answerReg (s : State) (c : Ctx) (r : RegNum) (x : Nat) : State :=
  let s := s.deliverReg c r 1 x
  match c with
  | .host _ => s
  | c => (s.modView (ctxTeam c) true id).evalWake (s.team (ctxTeam c)).cluster

/-- The wait for an answer ends for a context that is not saved; a saved one finds it ended at its restoration. -/
def State.endAnswer (s : State) (c : Ctx) : State :=
  if s.ctxWait c = .answer then s.setWait c .none else s

/-- Address of the instruction that a group would issue next: that of the first valid split after the last issuing one. -/
def Group.nextPc (g : Group) : Addr :=
  (([1, 2, 3, 4].map fun i => g.splits.getD ((g.lastIssued + i) % 4) Split.none).find? (·.valid)).elim 0 (·.pc)

/-- A fatal cause that no one context raises (12, 15): it is written to every context of the team (log 39). Cause 15 is taken
before the next issue, and `EPC` names the instruction that has not been executed (R236). -/
def State.teamFatal (s : State) (t : Nat) (cause : BitVec 8) (info : DWord) : State :=
  let set := fun (r : Regs) (pc : Addr) =>
    { r with trap := if cause = 15 then r.trap.fatalAt cause.toNat info pc else r.trap.fatal cause.toNat 0 info }
  let all := fun (tm : Team) =>
    { tm with groups := tm.groups.map (fun g => { g with regs := set g.regs g.nextPc }),
              seq := tm.seq.map fun q => { q with regs := set q.regs q.pc } }
  if (s.team t).fatal ≠ 0 then s else (s.modTeam t all).fatalHalt t cause

/-- The capability-failure cause for a team: at once for a resident one, at its next placement for another (R236). -/
def State.capFailTeam (s : State) (t : Nat) (count : Word) : State :=
  if (s.team t).state = .resident then s.teamFatal t 12 (count.setWidth 64)
  else s.modTeam t fun tm => { tm with capFail := some count }

/-- A tag failure at an interface of this package: counted, and a cause when the count reaches the limit (R165,
R305, R236). -/
def State.countCapFail (s : State) (job : Nat) : State :=
  let n := (s.job job).mcfail + 1
  let limit := bitsOf (s.job job).ctl.toNat 32 16
  let s := s.modJob job fun j => { j with mcfail := n }
  if limit ≠ 0 && n.toNat = limit then
    ((s.teams.filter fun e => lrJob e.2.launch = job).map (·.1)).foldl (fun s t => s.capFailTeam t n) s
  else s

/-- A capability of type 5 that names a line here is good: its job is valid and its tag verifies. A tag failure is
counted. -/
def State.lineCap (s : State) (cap : Cap) : Bool × State :=
  if !s.jobValid (capJob cap) then (false, s)
  else if s.tagGood (capJob cap) cap then (true, s) else (false, s.countCapFail (capJob cap))

/-- R224, R225: request number `n` reaches its slice and is answered. -/
def execLaunchLineStore (n : Nat) (s : State) : Host.Outcome State Fault Refusal :=
  .next (match s.launches[n]? with
    | none => s
    | some q =>
      let t := { s with launches := delAt n s.launches }
      match q.who with
      | none =>
        match q.cap with
        | none => t
        | some c =>
          let (good, t) := t.lineCap c
          if good then (t.storeLine (capCore c / 8) (capBase c % 8) q.launch true q.job.toNat q.pri.toNat).2 else t
      | some c =>
        if s.ctxTransit c then s
        else
          let (x, u) := t.storeLine q.col (lrPri q.launch) q.launch q.user q.job.toNat q.pri.toNat
          (u.endAnswer c).answerReg c q.reg x.toNat)

/-! ### From line to grid table (R274 to R277) -/

/-- Base of the indirection tables of a job in a column. -/
def Column.aggOf (c : Column) (job : Nat) : DWord := tabGet 0 job c.aggbase

/-- Grids and open batches, which share the 32 entries of the grid table (R274, R275). -/
def Column.tableUse (c : Column) : Nat := c.grids.length + (c.batches.filter fun b => !b.2.closed).length

/-- A record matches a batch that is still open (R276). -/
def Batch.takes (now : Nat) (b : Batch) (r : BitVec 512) : Bool :=
  !b.closed && b.records.length < 64 && now < b.opened + 2000 &&
    match b.records.head? with
    | none => false
    | some f => lrEntry f.2 = lrEntry r && lrAggkey f.2 = lrAggkey r && lrTvec f.2 = lrTvec r
        && lrBits f.2 4 0 64 = lrBits r 4 0 64

/-- A record may be aggregated, leaving the batch slots aside. -/
def Column.aggregates (c : Column) (l : Line) : Bool :=
  l.user && lrAggkey l.launch ≠ 0 && !lrDep l.launch && c.aggOf (lrJob l.launch) ≠ 0

/-- A grid's part when it enters the table. -/
def GridPart.new (handle : DWord) (r : BitVec 512) (argp : DWord) : GridPart :=
  { handle := handle, launch := r, argp := argp, next := 0, retired := 0, ended := 0, lost := 0,
    denied := false, met := false, noticed := false }

/-- A record taken into an open batch, or into a new one. None when neither can be. -/
def Column.aggregate (c : Column) (now seed : Nat) (l : Line) : Option Column :=
  match c.batches.find? fun b => b.2.takes now l.launch with
  | some (i, b) => some { c with batches := tabSet i { b with records := b.records ++ [(l.handle, l.launch)] } c.batches }
  | none =>
    let free := (upto 16).filter fun i => (tabFind i c.batches).isNone
    if free.isEmpty || 32 ≤ c.tableUse then none
    else
      let i := free.getD (Sys2Proof.Config.pickSlot seed % free.length) 0
      let b : Batch := { opened := now, records := [(l.handle, l.launch)], code := l.code, closed := false, fault := none }
      some { c with batches := tabSet i b c.batches }

/-- A record taken into the grid table itself. -/
def Column.enterGrid (c : Column) (l : Line) : Option Column :=
  if 32 ≤ c.tableUse then none
  else
    let part := GridPart.new l.handle l.launch (BitVec.ofNat 64 (lrArgp l.launch))
    some { c with grids := c.grids ++ [{ parts := [part], slot := none, code := l.code, poolFull := false }] }

/-- An eligible record (R276) finds a matching batch or a free slot. -/
def Column.eligible (c : Column) (now : Nat) (l : Line) : Bool :=
  c.aggregates l && ((c.batches.any fun b => b.2.takes now l.launch) || (upto 16).any fun i => (tabFind i c.batches).isNone)

/-- R274: the slice takes the record of a FULL line where the aggregator or the grid table can accept it. -/
def execLaunchRecordTake (col pri : Nat) (s : State) : Host.Outcome State Fault Refusal :=
  .next (match tabFind pri (s.col col).lines with
    | none => s
    | some l =>
      let c := s.col col
      match (if c.eligible s.now l then c.aggregate s.now s.fresh l else c.enterGrid l) with
      | none => s
      | some k => { s with fresh := s.fresh + 1 }.modCol col fun _ => { k with lines := tabDel pri k.lines })

/-- Bytes of a batch's indirection table. -/
def Batch.tableBytes (b : Batch) : List Byte := b.records.flatMap fun r => toBytes 64 r.2.toNat

/-- A closed batch becomes one grid: each record's teams read their own entry as `ARGP`. -/
def Column.closeBatch (c : Column) (slot base : Nat) (b : Batch) : Column :=
  let part := fun (j : Nat) (r : DWord × BitVec 512) =>
    { GridPart.new r.1 r.2 (BitVec.ofNat 64 (base + 64 * j)) with denied := decide (j < b.denied) }
  let parts := b.records.mapIdx part
  { c with
    batches := tabSet slot { b with closed := true, fault := none } c.batches
    grids := c.grids ++ [{ parts := parts, slot := some slot, code := b.code, poolFull := false }] }

/-- R276, R277: 2 µs after it opened, or with 64 records, the batch closes once its indirection table is written. A
translation fault of that write waits as a notice's does; a refused write leaves the table unwritten (log 38). -/
def execAggregationBatchClose (col slot : Nat) (s : State) : Host.Outcome State Fault Refusal :=
  .next (match tabFind slot (s.col col).batches with
    | none => s
    | some b =>
      let job := lrJob (b.records.headD (0, 0)).2
      let base := ((s.col col).aggOf job).toNat + 4096 * slot
      if b.closed || b.fault.isSome || (s.now < b.opened + 2000 && b.records.length < 64) then s
      else
        let close := fun (t : State) => (t.modCol col fun c => c.closeBatch slot base b).settleCol col
        match s.access (engineFor job (colVia col)) .write (base % 2 ^ 57) with
        | .error (.perm _) => close s
        | .error (.page f) => match (s.homeReads f).fileFault col (s.asid job) job 6 col f with
          | none => s
          | some (i, t) => t.modCol col fun c => { c with batches := tabSet slot { b with fault := some (col, i) } c.batches }
        | .ok (x, t) =>
          let bs := b.tableBytes
          close (t.agentWrite x.pa bs))

/-! ### Completion notices (R226) -/

/-- A NOTICEFAIL record (R284): the SUB code that refused the notice. -/
def State.noticeFail (s : State) (n : Notice) (sub : Nat) : State :=
  s.pushHost n.col (schedRec 0x15 n.job.toNat sub 0 0 0 (s.cyc n.col).toNat 0 0 n.grid)

/-- A notice is stored or dropped, and its grid may leave the table. -/
def State.endNotice (s : State) (i : Nat) (n : Notice) : State :=
  { s with notices := delAt i s.notices }.settleCol n.col

/-- R226: notice number `n` is stored. -/
def execCompletionNotice (n : Nat) (s : State) : Host.Outcome State Fault Refusal :=
  .next (match s.notices[n]? with
    | none => s
    | some q =>
      if q.fault.isSome then s
      else match s.access (engineFor q.job.toNat (colVia q.col)) .write q.va with
        | .error (.perm sub) => (s.noticeFail q sub).endNotice n q
        | .error (.page f) => match (s.homeReads f).fileFault q.col (s.asid q.job.toNat) q.job.toNat 6 q.col f with
          | none => s
          | some (i, t) => { t with notices := setAt n { q with fault := some (q.col, i) } t.notices }
        | .ok (x, t) => (t.agentWrite x.pa (toBytes 8 q.value.toNat)).endNotice n q)

end Sys2Proof.Machine
end

