-- ==== Sys2Proof/Machine/Place.lean ====
section
/-! DEFINITION. The distributor: candidates in its order, where a team fits, placing a cluster, and heads that wait
(R18, R29, R134, R220, R226, R271 to R273, R279 to R284, R291). -/

namespace Sys2Proof.Machine

/-! ### Candidates (R275, R279) -/

/-- What the distributor may place next: a cluster of the resumption queue, or the next cluster of part `j` of grid `i`
of the grid table. -/
inductive Cand where
  | resume (cluster : Nat)
  | grid (i j : Nat)
  deriving DecidableEq, Repr

/-- The dependency of a part holds, or has held (R226). -/
def State.depMet (s : State) (p : GridPart) : Bool :=
  !lrDep p.launch || p.met || match tabFind (gaugeKey (lrDha p.launch) (lrDent p.launch)) s.mgauges with
    | none => true
    | some g => genReached g.gen.toNat (lrDgen p.launch)

/-- A part takes part in placement. -/
def State.partReady (s : State) (p : GridPart) : Bool :=
  !p.denied && !(s.col (handleCol p.handle)).heldGrids.contains p.handle && p.next < lrTeams p.launch && s.jobValid (lrJob p.launch) && s.depMet p

/-- The first part of a grid that has a team to place now. -/
def State.nextPart (s : State) (g : Grid) : Option Nat := (upto g.parts.length).find? fun j =>
  match g.parts[j]? with
  | none => false
  | some p => s.partReady p

/-- A cluster of the resumption queue may be placed: all of it is saved and none of it is held (R241, R290). -/
def State.mayResume (s : State) (c : Nat) : Bool :=
  let ts := s.clusterTeams c
  !ts.isEmpty && ts.all fun t => (s.team t).state = .saved && !(s.team t).held && (s.team t).reason ≠ 5

/-- Priority of a cluster: that of its grid. -/
def State.clusterPri (s : State) (c : Nat) : Nat := lrPri (s.team ((s.clusterTeams c).headD 0)).launch

/-- Candidates of one PRI, resumptions in order of wake before grids in order of taking. -/
def State.candsAt (s : State) (col pri : Nat) : List Cand :=
  let k := s.col col
  (k.resumeQ.filter fun c => s.mayResume c && s.clusterPri c = pri).map Cand.resume
    ++ (k.grids.mapIdx fun i g => match s.nextPart g with
        | none => []
        | some j => match g.parts[j]? with
          | none => []
          | some p => if lrPri p.launch = pri then [Cand.grid i j] else []).flatten

/-- Every candidate in the distributor's order. -/
def State.cands (s : State) (col : Nat) : List Cand := [7, 6, 5, 4, 3, 2, 1, 0].flatMap (s.candsAt col)

/-- A part of a grid of a column. -/
def Column.partAt (c : Column) (i j : Nat) : Option GridPart := (c.grids[i]?).bind fun g => g.parts[j]?

/-- What names a head of a PRI level: a cluster to resume, or a grid by the handle of its first record. -/
def State.candId (s : State) (col : Nat) : Cand → Bool × Nat
  | .resume c => (true, c)
  | .grid i _ => (false, match (s.col col).partAt i 0 with
      | none => 0
      | some p => p.handle.toNat)

/-! ### Fit (R280, R273, R134, R220) -/

/-- Groups with a slot on a core. -/
def State.liveOn (s : State) (core : Nat) : List (Group × Nat) :=
  (s.teamsOn (· = core)).flatMap fun t =>
    ((s.team t).groups.filter fun g => !g.retired).map fun g => (g, lrRegs (s.team t).launch)

/-- Free group slots of a core. -/
def State.freeSlots (s : State) (core : Nat) : Nat := 64 - (s.liveOn core).length

/-- Bit of a core in its column's `PGATE`. -/
def State.gateBit (s : State) (core : Nat) : Bool := (s.col (colOfCore core)).pgate.getLsbD (core % 8)

/-- The core is working and open for placement, and its column is below THROTTLE. One that `PGATE` names is open for none from then
on, so that what is saved from it is placed elsewhere (R288, R336; log 122). -/
def State.coreOpen (s : State) (core : Nat) : Bool :=
  let k := s.col (colOfCore core)
  k.works && !k.svc.drain && k.gov.level.toNat < 2 && (s.tower (towerOfCore core)).powered
    && !(s.core core).heldPlacement && !(s.core core).gating && !s.gateBit core && (s.core core).powered

/-- The quarter with the most free rows, of those with a free slot, ties going to the lower quarter, for one group after
another. `used` holds each quarter's rows and slots. -/
def assignGroups (rows : Nat) : Nat → List (Nat × List Nat) → Option (List (Nat × Nat))
  | 0, _ => some []
  | n + 1, used =>
    let ok := (upto 4).filter fun q => (used.getD q (0, [])).2.length < 16
    match argMin (fun q => (used.getD q (0, [])).1) ok with
    | none => none
    | some q =>
      let u := used.getD q (0, [])
      if 1024 < u.1 + rows then none
      else
        let slot := ((upto 16).find? fun i => !u.2.contains i).getD 0
        (assignGroups rows n (setAt q (u.1 + rows, slot :: u.2) used)).map fun r => (q, slot) :: r

/-- Quarters and slots for a team's groups on a core. -/
def State.assign (s : State) (core : Nat) (l : BitVec 512) : Option (List (Nat × Nat)) :=
  let live := s.liveOn core
  let used := (upto 4).map fun q =>
    let mine := live.filter fun g => g.1.quarter = q
    (sumNat (mine.map (·.2)), mine.map fun g => g.1.slot)
  assignGroups (lrRegs l) (lrGroups l) used

/-- Vault allocations on a core: offset and end. -/
def State.vaultRuns (s : State) (core : Nat) : List (Nat × Nat) :=
  (s.teamsOn (· = core)).map fun t => ((s.team t).voff, (s.team t).voff + lrVault (s.team t).launch)

/-- A run of `n` bytes from `o` is free among allocations, below a limit. -/
def gapFree (runs : List (Nat × Nat)) (limit n o : Nat) : Bool :=
  o + n ≤ limit && runs.all fun r => o + n ≤ r.1 || r.2 ≤ o

/-- The lowest free run: the start or the end of an allocation. -/
def firstRun (runs : List (Nat × Nat)) (start limit n : Nat) : Option Nat :=
  minNat ((start :: runs.map (·.2)).filter fun o => start ≤ o && gapFree runs limit n o)

/-- Barriers in use on a core. -/
def State.barsOn (s : State) (core : Nat) : Nat := sumNat ((s.teamsOn (· = core)).map fun t => lrBars (s.team t).launch)

/-- A free directory entry of a core. -/
def State.slotFree (s : State) (core slot : Nat) : Bool := slot < 64 && (tabFind (64 * core + slot) s.teams).isNone

/-- A team fits on a core; `old` is a team to be resumed. -/
def State.fits (s : State) (core : Nat) (l : BitVec 512) (old : Option Team) : Bool :=
  s.coreOpen core && (s.assign core l).isSome && (firstRun (s.vaultRuns core) 0 0x200000 (lrVault l)).isSome
    && s.barsOn core + lrBars l ≤ 256
    && match old with
      | none => (upto 64).any (s.slotFree core)
      | some tm => (tm.seq.isNone || (s.core core).seqOwner.isNone) && (s.core core).roomFor tm.saved
          && (!tm.tableHeld || (s.core core).table.holder.isNone)
          && (s.core core).phys.length + tm.acc.length ≤ 128

/-- Where the distributor of a slice looks, in order (R281). -/
def coreSets (col : Nat) (old : Option Team) : List (List Nat) :=
  (old.toList.map fun tm => [tm.core])
    ++ [span (8 * col) 8, span (8 * (col / 4 * 4)) 32, span (8 * firstCol (towerOfCol col)) 128]

/-- The core for a team: in the first set with a fit, the one with the most free group slots, ties going to the lower
number. -/
def State.pickCore (s : State) (col : Nat) (l : BitVec 512) (old : Option Team) : Option Nat :=
  (coreSets col old).findSome? fun cs => argMin (fun c => 64 - s.freeSlots c) (cs.filter fun c => s.fits c l old)

/-! ### The pool (R280, R293) -/

/-- Records of a job's pool. -/
def State.poolRuns (s : State) (job : Nat) : List (Nat × Nat) :=
  (s.teams.filter fun e => lrJob e.2.launch = job && e.2.recPa ≠ 0).map fun e => (e.2.recPa, e.2.recPa + recSize e.2.launch)

/-- Start and end of the part of a pool that records are taken from. -/
def State.poolSpan (s : State) (job : Nat) : Nat × Nat :=
  let b := (s.job job).savebase.toNat
  let n := (s.job job).savelen.toNat
  (b + bitmapSize n, b + n)

/-- Pool bytes held neither by records nor by the bitmap (R278). -/
def State.poolFree (s : State) (job : Nat) : Nat :=
  let p := s.poolSpan job
  p.2 - p.1 - sumNat ((s.poolRuns job).map fun r => r.2 - r.1)

/-- The pool has a run for each of `n` records of one size beside those given. -/
def poolRoom (p : Nat × Nat) (size : Nat) : Nat → List (Nat × Nat) → Bool
  | 0, _ => true
  | n + 1, runs => match firstRun runs p.1 p.2 size with
    | none => false
    | some o => poolRoom p size n ((o, o + size) :: runs)

/-- A save record may lie at an address. -/
def State.recordFree (s : State) (job size pa : Nat) : Bool :=
  let p := s.poolSpan job
  pa % 65536 = 0 && p.1 ≤ pa && gapFree (s.poolRuns job) p.2 size pa

/-! ### Teams -/

/-- A group at launch (R18, R22, R29, R32, R33, R36): entry 0 valid with all lanes at the kernel's entry. -/
def Group.start (entry now q slot : Nat) : Group :=
  let first := { Split.none with valid := true, pc := BitVec.ofNat 57 entry, mask := BitVec.allOnes 32 }
  { Group.none with
    splits := first :: List.replicate 3 Split.none, quarter := q, slot := slot, lastIssue := now, retired := false }

/-- Team number `n` of a part, as it is first placed. -/
def Team.start (p : GridPart) (code : List Host.Cell) (n rank core cluster size now : Nat) (gs : List (Nat × Nat)) : Team :=
  let (gx, gy, _) := lrSize p.launch
  { Team.none with
    state := .resident, core := core, launch := p.launch, grid := p.handle, argp := p.argp,
    x := BitVec.ofNat 16 (n % gx), y := BitVec.ofNat 16 (n / gx % gy), z := BitVec.ofNat 16 (n / gx / gy),
    rank := rank, cluster := cluster, clusterSize := size, code := code,
    groups := gs.map (fun g => Group.start (lrEntry p.launch) now g.1 g.2), residentSince := now }

/-- The choice that stands for any other where only the fit is asked: lowest run, entry and banks. -/
def State.anyChoice (s : State) (core : Nat) (l : BitVec 512) (old : Option Team) : PlaceChoice :=
  let job := lrJob l
  let p := s.poolSpan job
  { voff := (firstRun (s.vaultRuns core) 0 0x200000 (lrVault l)).getD 0
    slot := ((upto 64).find? (s.slotFree core)).getD 0
    save := if s.hasPool job then (firstRun (s.poolRuns job) p.1 p.2 (recSize l)).getD 0 else 0
    banks := match old with
      | none => []
      | some tm => ((upto 128).filter fun b => !(s.core core).phys.contains b).take tm.acc.length }

/-- The free runs of a choice are free. -/
def State.choiceOk (s : State) (core : Nat) (l : BitVec 512) (old : Option Team) (ch : PlaceChoice) : Bool :=
  let job := lrJob l
  ch.voff % 128 = 0 && gapFree (s.vaultRuns core) 0x200000 (lrVault l) ch.voff
    && match old with
      | none => s.slotFree core ch.slot && (if s.hasPool job then s.recordFree job (recSize l) ch.save else ch.save = 0)
      | some tm => ch.banks.length = tm.acc.length && ch.banks.Nodup
          && ch.banks.all fun b => b < 128 && !(s.core core).phys.contains b

/-- A new team takes its place: directory entry, vault bytes of 0, record with COMMIT 0, and an empty read-only cache
(R226, R245, R280, R295). -/
def State.placeNew (s : State) (core : Nat) (tm : Team) (ch : PlaceChoice) : Nat × State :=
  let t := 64 * core + ch.slot
  let tm := { tm with gen := tabGet 0 ch.slot (s.core core).gens, voff := ch.voff, recPa := ch.save }
  let s := { s with teams := tabSet t tm s.teams }.markRecord tm true
  let mem := memZero s.mem (s.vaultBase t) (lrVault tm.launch)
  let mem := if ch.save = 0 then mem else memZero mem ch.save 8
  (t, { s with mem := mem }.modCore core fun c => { c with roCache := [] })

/-- The logical banks of a team mapped to physical ones, in rising order (R191). -/
def remap (acc : Tab Bank) (banks : List Nat) : Tab Bank :=
  let order := (upto 128).filter fun b => (tabFind b acc).isSome
  acc.map fun e => (e.1, { e.2 with phys := banks.getD (order.findIdx (· = e.1)) 0 })

/-- A saved team takes its place: the move from its record begins, COMMIT becomes 0, and the core's read-only cache is empty
(R150, R280, R288, R291). -/
def State.placeOld (s : State) (t core : Nat) (gs : List (Nat × Nat)) (ch : PlaceChoice) : State :=
  let tm := s.team t
  let groups := tm.groups.mapIdx fun i g =>
    { g with quarter := (gs.getD i (0, 0)).1, slot := (gs.getD i (0, 0)).2, lastIssue := s.now }
  let tm' := { tm with state := .restoring, core := core, voff := ch.voff, groups := groups, acc := remap tm.acc ch.banks,
                       halted := false, reason := 0, wake := false }
  let s := { s with teams := tabSet t tm' s.teams, mem := memZero s.mem tm.recPa 8 }
  s.modCore core fun c =>
    { c with
      phys := c.phys ++ ch.banks
      roCache := []
      seqOwner := if tm.seq.isSome then some t else c.seqOwner
      table := if tm.tableHeld then { ActTable.empty with holder := some t } else c.table }

/-! ### Clusters -/

/-- The teams of a candidate: each is a saved team, or the number of a new one in its part. -/
def State.members (s : State) (col : Nat) : Cand → List (Nat ⊕ Nat)
  | .resume c => (s.clusterTeams c).map Sum.inl
  | .grid i j => match (s.col col).partAt i j with
    | none => []
    | some p => (span p.next (min (lrClus p.launch) (lrTeams p.launch - p.next))).map Sum.inr

/-- The teams of a cluster placed in rank order, each choice counting the capacity taken before it: the keys and the
state, or nothing when some team does not fit or a choice is not free. With `any` the choices are the lowest ones. -/
def State.placeTeams (s : State) (col : Nat) (p : GridPart) (code : List Host.Cell) (cluster size : Nat) (any : Bool) :
    Nat → List (Nat ⊕ Nat) → List PlaceChoice → Option (List Nat × State)
  | _, [], _ => some ([], s)
  | rank, x :: rest, chs =>
    let old := match x with
      | .inl t => some (s.team t)
      | .inr _ => none
    let l := match old with
      | none => p.launch
      | some tm => tm.launch
    match s.pickCore col l old with
    | none => none
    | some core =>
      let ch := if any then s.anyChoice core l old else chs.headD { voff := 1, slot := 64, save := 0, banks := [] }
      let gs := (s.assign core l).getD []
      if !s.choiceOk core l old ch then none
      else
        let (t, u) := match x with
          | .inl t => (t, s.placeOld t core gs ch)
          | .inr n => s.placeNew core (Team.start p code n rank core cluster size s.now gs) ch
        (u.placeTeams col p code cluster size any (rank + 1) rest (chs.drop 1)).map fun r => (t :: r.1, r.2)

/-- A candidate placed. -/
def State.placeCand (s : State) (col : Nat) (c : Cand) (any : Bool) (chs : List PlaceChoice) : Option (List Nat × State) :=
  let g := match c with
    | .resume _ => none
    | .grid i _ => (s.col col).grids[i]?
  let p := match c with
    | .resume _ => none
    | .grid i j => (s.col col).partAt i j
  let ms := s.members col c
  s.placeTeams col (p.getD (GridPart.new 0 0 0)) (match g with
    | none => []
    | some q => q.code) s.fresh ms.length any 0 ms chs

/-- A grid candidate's pool has no room for its records (R280). -/
def State.poolShort (s : State) (col : Nat) : Cand → Bool
  | .resume _ => false
  | .grid i j => match (s.col col).partAt i j with
    | none => false
    | some p =>
      let job := lrJob p.launch
      let n := (s.members col (.grid i j)).length
      s.hasPool job && !poolRoom (s.poolSpan job) (recSize p.launch) n (s.poolRuns job)

/-- The candidate fits somewhere now. -/
def State.candFits (s : State) (col : Nat) (c : Cand) : Bool := !s.poolShort col c && (s.placeCand col c true []).isSome

/-! ### Heads that wait (R282) -/

/-- The head of a PRI level. -/
def State.headOf (s : State) (col pri : Nat) : Option Cand := (s.candsAt col pri).head?

/-- Each level's head with the time since which it has been the head, and blocks of heads that are gone dropped. -/
def State.noteHeads (s : State) (col : Nat) : State :=
  let ids := (upto 8).filterMap fun pri => (s.headOf col pri).map fun c => (pri, s.candId col c)
  let all := (s.cands col).map (s.candId col)
  s.modCol col fun k =>
    let heads : Tab (Bool × Nat × Nat) := ids.map fun e => match tabFind e.1 k.heads with
      | none => (e.1, e.2.1, e.2.2, s.now)
      | some h => if h.1 = e.2.1 && h.2.1 = e.2.2 then (e.1, h) else (e.1, e.2.1, e.2.2, s.now)
    { k with heads := heads, blocked := k.blocked.filter fun b => all.contains b.2 }

/-- Heads noted in every column that has work to place. -/
def State.noteAllHeads (s : State) : State :=
  (s.cols.filter fun e => !(e.2.grids.isEmpty && e.2.resumeQ.isEmpty && e.2.heads.isEmpty && e.2.blocked.isEmpty)).foldl
    (fun s e => s.noteHeads e.1) s

/-- PWAIT of a column in ns (R278). -/
def State.pwait (s : State) (col : Nat) : Nat :=
  let n := bitsOf (s.host col).schctl.toNat 0 16
  1000 * (if n = 0 then 64 else n)

/-- A new grid's team is held back by a blocked head of its tower: one of higher PRI, or another one of the same PRI
unless it is itself blocked (R282). DESIGN CHOICE (log 121): a block binds the distributors of every slice of the tower, and blocked
heads of one PRI do not hold one another. -/
def State.heldByHead (s : State) (col pri : Nat) (id : Bool × Nat) : Bool :=
  let own := tabFind pri (s.col col).blocked = some id
  (span (firstCol (towerOfCol col)) 16).any fun c =>
    (s.col c).blocked.any fun b => pri < b.1 || (pri = b.1 && !own)

/-- R282: the head of a level has found no fit for PWAIT. -/
def execPwaitExpire (col pri : Nat) (s : State) : Host.Outcome State Fault Refusal :=
  .next (
    let s := s.noteHeads col
    match s.headOf col pri, tabFind pri (s.col col).heads with
    | some c, some h =>
      let id := s.candId col c
      if s.now < h.2.2 + s.pwait col || s.candFits col c || tabFind pri (s.col col).blocked = some id then s
      else
        let (grid, home, handle) := match c with
          | .resume k =>
            let t := (s.clusterTeams k).headD 0
            ((s.team t).grid, homeOf t, s.handle t)
          | .grid i j => match (s.col col).partAt i j with
            | none => (0, 0, 0)
            | some p => (p.handle, 0, 0)
        let job := match s.part grid with
          | none => 0
          | some p => lrJob p.launch
        let t := s.modCol col fun k => { k with blocked := tabSet pri id k.blocked }
        if (s.host col).schctl.getLsbD 32 then
          t.pushHost col (schedRec 0x13 job pri 0 home handle (s.cyc col).toNat 0 0 grid)
        else t
    | _, _ => s)

/-! ### Placement -/

/-- One POOLFULL record for each grid whose pool lacks room; GRID is 0 before a team of it exists (R280, R284). -/
def State.notePool (s : State) (col : Nat) (c : Cand) : State :=
  match c with
  | .resume _ => s
  | .grid i j => match (s.col col).grids[i]?, (s.col col).partAt i j with
    | some g, some p =>
      if !s.poolShort col c || g.poolFull then s
      else
        let grid := if g.parts.all fun q => q.next = 0 then 0 else p.handle
        let mark := fun (k : Column) => { k with grids := modAt i (fun q => { q with poolFull := true }) k.grids }
        (s.modCol col mark).pushHost col (schedRec 0x14 (lrJob p.launch) 0 0 0 0 (s.cyc col).toNat 0 0 grid)
    | _, _ => s

/-- The first candidate that is not held back and fits. -/
def State.nextCand (s : State) (col : Nat) : Option Cand :=
  (s.cands col).find? fun c =>
    let held := match c with
      | .resume _ => false
      | .grid i j => match (s.col col).partAt i j with
        | none => true
        | some p => s.heldByHead col (lrPri p.launch) (s.candId col c)
    !held && s.candFits col c

/-- PLACED records for the teams placed, if the slice's host asks for them (R283). DESIGN CHOICE (log 121): that host is the one of
the grid's column, wherever the chosen core lies. -/
def State.pushPlaced (s : State) (col : Nat) (ts : List Nat) : State :=
  if !(s.host col).schctl.getLsbD 33 then s
  else ts.foldl (fun s t =>
    let tm := s.team t
    s.pushTeamRec (colOfCore tm.core) 0x12 (lrPri tm.launch) tm.voff tm.recPa t) s

/-- What placement changes beside the teams: the wake entry and the queue, or the part's next team. -/
def State.afterPlace (s : State) (col : Nat) (c : Cand) (ts : List Nat) : State :=
  match c with
  | .resume k =>
    s.modCol col fun q =>
      { q with resumeQ := q.resumeQ.filter (· ≠ k), wakes := q.wakes.filter fun w => w.cluster ≠ k }
  | .grid i j =>
    let t0 := ts.headD 0
    let rank0 := BitVec.ofNat 26 (homeOf t0 * 2 ^ 16 + s.handle t0)
    let s := ts.foldl (fun s t => s.modTeam t fun tm => { tm with rank0 := rank0 }) s
    let step := fun (p : GridPart) => { p with next := p.next + ts.length, met := true }
    s.modCol col fun q => { q with grids := modAt i (fun g => { g with parts := modAt j step g.parts }) q.grids }

/-- R279 to R283, R291: the distributor of a slice places the first candidate in its order that fits. -/
def execClusterPlace (col : Nat) (choice : List PlaceChoice) (s : State) : Host.Outcome State Fault Refusal :=
  .next (
    if !(s.col col).works || !(s.tower (towerOfCol col)).powered then s
    else
      let s := ((s.noteHeads col).cands col).foldl (fun s c => s.notePool col c) (s.noteHeads col)
      match s.nextCand col with
      | none => s
      | some c => match s.placeCand col c false choice with
        | none => s
        | some (ts, t) =>
          let id := s.candId col c
          let t := { t with fresh := t.fresh + 1 }.afterPlace col c ts
          let forget := fun (k : Column) =>
            { k with heads := k.heads.filter (fun h => (h.2.1, h.2.2.1) ≠ id), blocked := k.blocked.filter fun b => b.2 ≠ id }
          (t.modCol col forget).pushPlaced col ts)

/-! ### Urgent groups (R285) -/

/-- R285: a group that has been ready for 48 issue slots of its quarter without issuing becomes urgent. Slots are
counted by the issues of its quarter (log 43). -/
def execGroupUrgent (team g : Nat) (s : State) : Host.Outcome State Fault Refusal :=
  .next (
    let gr := s.group team g
    if s.teamRuns team && gr.ready && urgentAfter ≤ gr.waitingIssue then s.modGroup team g fun x => { x with urgent := true } else s)

end Sys2Proof.Machine
end

