-- ==== Sys2Proof/Machine/Transc.lean ====
section
/-! DEFINITION. The transcendental functions (R60, R61, R129). Each is evaluated in integer arithmetic with 256
fraction bits and returned as a value of R54's exact kind: no function here takes a representable value except
where the code names it, and logs 10 and 11 say what is taken of the value beyond that. -/

namespace Sys2Proof.Machine

/-- Fraction bits of the evaluation. -/
def fracBits : Nat := 256

/-- 1 in fixed point. -/
def fixOne : Nat := 2 ^ fracBits

/-- `floor(π × 2^512)`. -/
def piFix : Nat := 0x3243f6a8885a308d313198a2e03707344a4093822299f31d0082efa98ec4e6c89452821e638d01377be5466cf34e90c6cc0ac29b7c97c50dd3f84d5b5b5470917

/-- `floor(ln 2 × 2^256)`. -/
def ln2Fix : Nat := 0xb17217f7d1cf79abc9e3b39803f2f6af40f343267298b62d8a0d175b8baafa2b

/-- `m × 2^e` in fixed point with `n` fraction bits, cut. -/
def toFix (n : Nat) (m : Nat) (e : Int) : Nat :=
  let k := e + n
  if 0 ≤ k then m <<< k.toNat else m >>> (-k).toNat

/-- A fixed-point number as a value that no format represents. -/
def fixValue (neg : Bool) (x : Nat) : FVal := .fin neg (2 * x + 1) (-(fracBits : Int) - 1)

/-- `n` further terms of the exponential series, the last one being `t = r^k / k!`. -/
def expTerms : Nat → Nat → Nat → Nat → Nat → Nat
  | 0, _, _, _, acc => acc
  | n + 1, r, k, t, acc =>
    let t' := t * r / fixOne / (k + 1)
    expTerms n r (k + 1) t' (acc + t')

/-- `e^r` for `0 ≤ r < 1`. -/
def expFix (r : Nat) : Nat := expTerms 64 r 0 fixOne fixOne

/-- `n` terms of an alternating series: the first is `t`, and each is the one before times `r² / ((k+1)(k+2))`. -/
def altTerms : Nat → Nat → Nat → Nat → Int
  | 0, _, _, _ => 0
  | n + 1, r2, k, t => t - altTerms n r2 (k + 2) (t * r2 / fixOne / ((k + 1) * (k + 2)))

/-- `sin r` for `0 ≤ r < 2`. -/
def sinFix (r : Nat) : Nat := (altTerms 44 (r * r / fixOne) 1 r).toNat

/-- `cos r` for `0 ≤ r < 2`. -/
def cosFix (r : Nat) : Nat := (altTerms 44 (r * r / fixOne) 0 fixOne).toNat

/-- `n` terms of the series `u + u³/3 + u⁵/5 + …`, the next power being `p = u^k`. -/
def atanhTerms : Nat → Nat → Nat → Nat → Nat → Nat
  | 0, _, _, _, acc => acc
  | n + 1, u2, k, p, acc => atanhTerms n u2 (k + 2) (p * u2 / fixOne) (acc + p / k)

/-- `ln z` for `1 ≤ z < 2`. -/
def lnFix (z : Nat) : Nat :=
  let u := (z - fixOne) * fixOne / (z + fixOne)
  2 * atanhTerms 100 (u * u / fixOne) 1 u 0

/-- `e^x` for `x = ± m × 2^e` with magnitude below 2^9, as a fixed-point mantissa and a power of 2. -/
def expPow (neg : Bool) (m : Nat) (e : Int) : Nat × Int :=
  let x := signedInt neg (toFix fracBits m e)
  let n := x / (ln2Fix : Int)
  (expFix (x - n * ln2Fix).toNat, n)

/-- The magnitude of `m × 2^e` is at least `2^k`. -/
def atLeast (m : Nat) (e : Int) (k : Int) : Bool := k ≤ (bitLen m : Int) - 1 + e

/-- A value just below 1 in magnitude. -/
def belowOne (neg : Bool) : FVal := .fin neg (2 ^ 64 - 1) (-64)

/-- A value just below `m × 2^e` in magnitude. -/
def justBelow (neg : Bool) (m : Nat) (e : Int) : FVal := .fin neg (m * 2 ^ 64 - 1) (e - 64)

/-- The trailing zeros of `m` moved into the exponent. -/
def oddPart : Nat → Nat → Int → Nat × Int
  | 0, m, e => (m, e)
  | n + 1, m, e => if m % 2 = 0 then oddPart n (m / 2) (e + 1) else (m, e)

/-- `2^x` (R61): an integer argument has an exact result. -/
def exp2Value (neg : Bool) (m : Nat) (e : Int) : FVal :=
  if m = 0 then .fin false 1 0
  else if atLeast m e 10 then (if neg then .fin false 1 (-1025) else .fin false 1 1024)
  else
    let x := signedInt neg (toFix fracBits m e)
    let n := x / (fixOne : Int)
    let f := (x % (fixOne : Int)).toNat
    if f = 0 then .fin false 1 n
    else .fin false (2 * expFix (f * ln2Fix / fixOne) + 1) (n - fracBits - 1)

/-- `log₂ x` of a positive value: exact when it is a power of 2. -/
def log2Value (m : Nat) (e : Int) : FVal :=
  let n := (bitLen m : Int) - 1 + e
  let z := (m <<< fracBits) >>> (bitLen m - 1)
  if z = fixOne then .fin (n < 0) n.natAbs 0
  else
    let x := n * fixOne + (lnFix z * fixOne / ln2Fix : Nat)
    fixValue (x < 0) x.natAbs

/-- Quadrant and remainder below π/2 of a magnitude, the reduction exact to 2^−380 (R60). -/
def reduceArg (m : Nat) (e : Int) : Nat × Nat :=
  let x := toFix 513 m e
  (x / piFix, (x % piFix) >>> (513 - fracBits))

/-- `sin` of a nonzero value. -/
def sinValue (neg : Bool) (m : Nat) (e : Int) : FVal :=
  if !atLeast m e (-31) then justBelow neg m e
  else
    let (q, r) := reduceArg m e
    fixValue (neg != (q % 4 = 2 || q % 4 = 3)) (if q % 2 = 0 then sinFix r else cosFix r)

/-- `cos` of a nonzero value. -/
def cosValue (m : Nat) (e : Int) : FVal :=
  if !atLeast m e (-31) then belowOne false
  else
    let (q, r) := reduceArg m e
    fixValue (q % 4 = 1 || q % 4 = 2) (if q % 2 = 0 then cosFix r else sinFix r)

/-- `tanh` of a nonzero value, from `e^(−2|x|)`. -/
def tanhValue (neg : Bool) (m : Nat) (e : Int) : FVal :=
  if !atLeast m e (-31) then justBelow neg m e
  else if atLeast m e 6 then belowOne neg
  else
    let (y, n) := expPow true m (e + 1)
    let E := y >>> (-n).toNat
    fixValue neg ((fixOne - E) * fixOne / (fixOne + E))

/-- `1 / (1 + e^−x)` of a nonzero value. -/
def sigValue (neg : Bool) (m : Nat) (e : Int) : FVal :=
  if atLeast m e 8 then (if neg then .fin false 1 (-500) else belowOne false)
  else
    let (y, n) := expPow true m e
    let E := y >>> (-n).toNat
    if neg then .fin false (2 * (y * fixOne / (fixOne + E)) + 1) (n - fracBits - 1)
    else if E = 0 then belowOne false
    else fixValue false (fixOne * fixOne / (fixOne + E))

/-- `1 / √x` of a positive value: exact when it is a power of 4. -/
def rsqValue (m : Nat) (e : Int) : FVal :=
  let (o, x) := oddPart (bitLen m) m e
  if o = 1 && x % 2 = 0 then .fin false 1 (-x / 2)
  else
    let m' := if x % 2 = 0 then o else 2 * o
    let x' := if x % 2 = 0 then x else x - 1
    .fin false (2 * rootNat (2 ^ 512 / m') + 1) (-x' / 2 - 257)

/-- The exact value of function `f` of R129 at a number, with the flag of R61. -/
def transcValue (f : Nat) (x : FVal) : FVal × Word :=
  match x with
  | .nan s => (.nan s, 0)
  | .inf neg =>
    match f with
    | 0 => (if neg then .fin false 0 0 else .inf false, 0)
    | 1 => if neg then (.nan true, 0) else (.inf false, 0)
    | 2 => (.nan true, 0)
    | 3 => (.nan true, 0)
    | 4 => (.fin neg 1 0, 0)
    | 5 => (if neg then .fin false 0 0 else .fin false 1 0, 0)
    | _ => if neg then (.nan true, 0) else (.fin false 0 0, 0)
  | .fin neg m e =>
    match f with
    | 0 => (exp2Value neg m e, 0)
    | 1 => if m = 0 then (.inf true, flagDZ) else if neg then (.nan true, 0) else (log2Value m e, 0)
    | 2 => (if m = 0 then .fin neg 0 0 else sinValue neg m e, 0)
    | 3 => (if m = 0 then .fin false 1 0 else cosValue m e, 0)
    | 4 => (if m = 0 then .fin neg 0 0 else tanhValue neg m e, 0)
    | 5 => (if m = 0 then .fin false 1 (-1) else sigValue neg m e, 0)
    | _ => if m = 0 then (.inf neg, flagDZ) else if neg then (.nan true, 0) else (rsqValue m e, 0)

/-- BF16 and FP16 forms: correctly rounded to nearest even (R60). -/
def transcNarrow (g : Fmt) (f : Nat) (a : Nat) : Nat × Word :=
  let v := transcValue f (g.value (bitsOf a 0 16))
  let r := g.round 0 false v.1
  (r.1, r.2 ||| v.2)

/-- FP32 forms: an exact or out-of-range result as R54 rounds it, else one of the two neighbours (R60, log 10). -/
def transcFp32 (f : Nat) (a : Nat) : Nat × Word :=
  let v := transcValue f (fp32.value a)
  let rn := fp32.round 0 false v.1
  let lo := fp32.round 3 false v.1
  let hi := fp32.round 2 false v.1
  let free := rn.2 &&& flagNX != 0 && rn.2 &&& flagOF = 0 && bitsOf lo.1 0 31 != 0 && bitsOf hi.1 0 31 != 0
  (if free then (if Config.fp32Upper f (BitVec.ofNat 32 a) then hi.1 else lo.1) else rn.1, rn.2 ||| v.2)

end Sys2Proof.Machine
end

