-- ==== Sys2Proof/Machine/Fp.lean ====
section
/-! DEFINITION. Floating-point, packed, transcendental and conversion instructions (R121 to R132). -/

namespace Sys2Proof.Machine

/-- A form with sources `os` and destination `d` of `dw` words: `g` gives result and flags in each lane from the
values of the sources there; flags come from the computations made (R57, R121). -/
def fpForm (os : List Opd) (d : RegNum) (dw : Nat) (g : (Nat → Nat) → Nat × Word) (s : State) : Res := do
  let both := os.any fun o => o.role = .both
  let (xs, t) ← s.operands (if both then os else os ++ [dstAny d dw])
  let r := fun l => g fun i => (nthLanes xs i l).toNat
  let t := t.raiseFlags (orFlags (t.computing d) fun l => (r l).2)
  .ok (t.writeOpd (dstAny d dw) fun l => BitVec.ofNat 128 (r l).1).advance

/-- One 32-bit source. -/
def fp1 (g : Nat → Nat × Word) (d a : RegNum) (s : State) : Res := fpForm [srcAny a 1] d 1 (fun x => g (x 0)) s

/-- Two 32-bit sources. -/
def fp2 (g : Nat → Nat → Nat × Word) (d a b : RegNum) (s : State) : Res :=
  fpForm [srcAny a 1, srcAny b 1] d 1 (fun x => g (x 0) (x 1)) s

/-- Two 32-bit sources and `d` as a third (R122). -/
def fp3 (g : Nat → Nat → Nat → Nat × Word) (d a b : RegNum) (s : State) : Res :=
  fpForm [srcAny a 1, srcAny b 1, bothAny d 1] d 1 (fun x => g (x 0) (x 1) (x 2)) s

/-- A packed two-source form (R128). -/
def packed2 (f : Fmt → Nat → Nat → Nat × Word) (pk : Bool) (x y : Nat) : Nat × Word :=
  halves fun i => f (packFmt pk) (halfOf x i) (halfOf y i)

/-- R123. -/
def execFadd (d a b : RegNum) (sat : Bool) (r : BitVec 2) (s : State) := conclude s (fp2 (fAdd fp32 r sat) d a b s)
/-- R123. -/
def execFsub (d a b : RegNum) (sat : Bool) (r : BitVec 2) (s : State) := conclude s (fp2 (fSub fp32 r sat) d a b s)
/-- R123. -/
def execFmul (d a b : RegNum) (sat : Bool) (r : BitVec 2) (s : State) := conclude s (fp2 (fMul fp32 r sat) d a b s)
/-- R123. -/
def execFdiv (d a b : RegNum) (sat : Bool) (r : BitVec 2) (s : State) := conclude s (fp2 (fDiv r sat) d a b s)
/-- R124. -/
def execFma (d a b : RegNum) (sat : Bool) (r : BitVec 2) (s : State) := conclude s (fp3 (fFma fp32 r sat) d a b s)
/-- R125. -/
def execFsqrt (d a : RegNum) (sat : Bool) (r : BitVec 2) (s : State) := conclude s (fp1 (fSqrt r sat) d a s)
/-- R125. -/
def execFrcp (d a : RegNum) (sat : Bool) (r : BitVec 2) (s : State) := conclude s (fp1 (fRcp r sat) d a s)
/-- R126. -/
def execFmin (d a b : RegNum) (s : State) := conclude s (fp2 (fMinMax false) d a b s)
/-- R126. -/
def execFmax (d a b : RegNum) (s : State) := conclude s (fp2 (fMinMax true) d a b s)
/-- R127. -/
def execFcmp (p : BitVec 3) (a b : RegNum) (c : BitVec 3) (s : State) :=
  conclude s (do
    let (xs, t) ← s.operands [srcAny a 1, srcAny b 1]
    let r := fun l => fCmp c (nthLanes xs 0 l).toNat (nthLanes xs 1 l).toNat
    .ok ((t.setPred p.toNat fun l => (r l).1).raiseFlags (orFlags t.lanes fun l => (r l).2)).advance)
/-- R128. -/
def execHadd2 (d a b : RegNum) (k sat : Bool) (r : BitVec 2) (s : State) :=
  conclude s (fp2 (packed2 (fun f => fAdd f r sat) k) d a b s)
/-- R128. -/
def execHmul2 (d a b : RegNum) (k sat : Bool) (r : BitVec 2) (s : State) :=
  conclude s (fp2 (packed2 (fun f => fMul f r sat) k) d a b s)
/-- R128. -/
def execHfma2 (d a b : RegNum) (k sat : Bool) (r : BitVec 2) (s : State) :=
  conclude s (fp3 (fun x y z => halves fun i => fFma (packFmt k) r sat (halfOf x i) (halfOf y i) (halfOf z i)) d a b s)
/-- R130: code 10 takes a 64-bit operand. -/
def execCvt (d a : RegNum) (t e : BitVec 4) (sat : Bool) (r : BitVec 2) (s : State) :=
  conclude s (fpForm [srcAny a (if e = 10 then 2 else 1)] d (if t = 10 then 2 else 1)
    (fun x => fCvt t.toNat e.toNat sat r (x 0)) s)
/-- R132. -/
def execCvts (d a b : RegNum) (x sat : Bool) (r : BitVec 2) (s : State) :=
  conclude s (fp2 (if x then fCvtsEncode sat r else fCvtsDecode sat r) d a b s)
/-- R129. -/
def execFexp2 (d a : RegNum) (s : State) := conclude s (fp1 (transcFp32 0) d a s)
/-- R129. -/
def execFlog2 (d a : RegNum) (s : State) := conclude s (fp1 (transcFp32 1) d a s)
/-- R129. -/
def execFsin (d a : RegNum) (s : State) := conclude s (fp1 (transcFp32 2) d a s)
/-- R129. -/
def execFcos (d a : RegNum) (s : State) := conclude s (fp1 (transcFp32 3) d a s)
/-- R129. -/
def execFtanh (d a : RegNum) (s : State) := conclude s (fp1 (transcFp32 4) d a s)
/-- R129. -/
def execFsig (d a : RegNum) (s : State) := conclude s (fp1 (transcFp32 5) d a s)
/-- R129. -/
def execFrsq (d a : RegNum) (s : State) := conclude s (fp1 (transcFp32 6) d a s)
/-- R129. -/
def execFexp2Bf (d a : RegNum) (s : State) := conclude s (fp1 (transcNarrow bf16 0) d a s)
/-- R129. -/
def execFlog2Bf (d a : RegNum) (s : State) := conclude s (fp1 (transcNarrow bf16 1) d a s)
/-- R129. -/
def execFsinBf (d a : RegNum) (s : State) := conclude s (fp1 (transcNarrow bf16 2) d a s)
/-- R129. -/
def execFcosBf (d a : RegNum) (s : State) := conclude s (fp1 (transcNarrow bf16 3) d a s)
/-- R129. -/
def execFtanhBf (d a : RegNum) (s : State) := conclude s (fp1 (transcNarrow bf16 4) d a s)
/-- R129. -/
def execFsigBf (d a : RegNum) (s : State) := conclude s (fp1 (transcNarrow bf16 5) d a s)
/-- R129. -/
def execFrsqBf (d a : RegNum) (s : State) := conclude s (fp1 (transcNarrow bf16 6) d a s)
/-- R129. -/
def execFexp2Hf (d a : RegNum) (s : State) := conclude s (fp1 (transcNarrow fp16 0) d a s)
/-- R129. -/
def execFlog2Hf (d a : RegNum) (s : State) := conclude s (fp1 (transcNarrow fp16 1) d a s)
/-- R129. -/
def execFsinHf (d a : RegNum) (s : State) := conclude s (fp1 (transcNarrow fp16 2) d a s)
/-- R129. -/
def execFcosHf (d a : RegNum) (s : State) := conclude s (fp1 (transcNarrow fp16 3) d a s)
/-- R129. -/
def execFtanhHf (d a : RegNum) (s : State) := conclude s (fp1 (transcNarrow fp16 4) d a s)
/-- R129. -/
def execFsigHf (d a : RegNum) (s : State) := conclude s (fp1 (transcNarrow fp16 5) d a s)
/-- R129. -/
def execFrsqHf (d a : RegNum) (s : State) := conclude s (fp1 (transcNarrow fp16 6) d a s)

end Sys2Proof.Machine
end

