-- ==== Sys2Proof/Machine/Table.lean ====
section
/-! DEFINITION. The activation table of a core: evaluation, filling, exchange of banks (R134 to R138, R347). -/

namespace Sys2Proof.Machine

/-! ### Banks -/

/-- Bytes of the current bank, or of the other. -/
def ActTable.bank (t : ActTable) (current : Bool) : List Host.Cell :=
  if t.current = current then t.bank1 else t.bank0

/-- Poisoned entries of the current bank, or of the other. -/
def ActTable.badOf (t : ActTable) (current : Bool) : List Nat := if t.current = current then t.bad1 else t.bad0

/-- Bytes written to the bank that is not current; the entries they cover lose their poison (R347). -/
def ActTable.fillBank (t : ActTable) (bs : List Byte) : ActTable :=
  let bad := (t.badOf false).filter fun e => bs.length ≤ 8 * e
  if t.current then { t with bank0 := memPut t.bank0 0 bs, bad0 := bad }
  else { t with bank1 := memPut t.bank1 0 bs, bad1 := bad }

/-- The table changed on a core. -/
def State.modTable (s : State) (c : Nat) (f : ActTable → ActTable) : State :=
  s.modCore c fun k => { k with table := f k.table }

/-! ### Evaluation (R135) -/

/-- Format of argument and result. -/
def tblFmt (f : BitVec 2) : Fmt :=
  match f.toNat with
  | 1 => bf16
  | 2 => fp16
  | _ => fp32

/-- The argument as FP32, exactly. -/
def tblArg (f : BitVec 2) (a : Nat) : Nat :=
  match f.toNat with
  | 1 => a % 65536 * 65536
  | 2 => (fp32.round 0 false (fp16.value (a % 65536))).1
  | _ => a

/-- Entry that an argument selects; none for a NaN. -/
def tblEntry (f : BitVec 2) (a : Nat) : Option Nat :=
  let x := tblArg f a
  if (fp32.value x).isNan then none else some (bitsOf x 20 12)

/-- The piecewise-linear function of a bank: c1 × f + c0, rounded once; no flag (R57). -/
def tblValue (bank : List Host.Cell) (f : BitVec 2) (a : Nat) : Nat :=
  let fmt := tblFmt f
  match tblEntry f a with
  | none => fmt.nan
  | some i =>
    let c0 := fp32.value (memNat bank (8 * i) 4)
    let c1 := fp32.value (memNat bank (8 * i + 4) 4)
    if c0.isNan || c1.isNan then fmt.nan
    else (fmt.round 0 false ((c1.mul (.fin false (bitsOf (tblArg f a) 0 20) (-20))).add 0 c0)).1

/-- R135: the table must be held; a poisoned entry used in an active lane is cause 8 (R347). -/
def execTbl (d a : RegNum) (f : BitVec 2) (s : State) :=
  conclude s (do
    s.needKind (.tbl d a f) [.group, .seq]
    let (xs, t) ← s.operands [srcAny a 1, dstAny d 1]
    let tab := (t.core (t.ctxCore t.cur)).table
    let arg := fun l => (nthLanes xs 0 l).toNat % 2 ^ 32
    if tab.holder ≠ some (ctxTeam t.cur) then .error (.trap 6 (accInfo 3 0) 0)
    else match (t.computing d).findSome? fun l => (tblEntry f (arg l)).filter fun e => (tab.badOf true).contains e with
      | some e => .error (.trap 8 (BitVec.ofNat 64 (2 ^ 61 + e)) 0)
      | none => .ok (t.writeOpd (dstAny d 1) fun l => BitVec.ofNat 128 (tblValue (tab.bank true) f (arg l))).advance)

/-! ### Filling (R134, R136) -/

/-- R136: the operands are checked, the table is claimed if no team holds it, and the fill starts; the split passes
at TBLLD_FILL_COMPLETE. Its reads come after an earlier acquire, as those of a load do. -/
def execTblld (a b : RegNum) (s : State) :=
  conclude s (do
    s.needKind (.tblld a b) [.group, .seq]
    let (xs, t) ← s.operands [srcU a, srcU b]
    t.memGate
    let addr := (nthLanes xs 0 t.low).toNat % 2 ^ 64
    let n := (nthLanes xs 1 t.low).toNat % 2 ^ 64
    checkAddr (2 ^ 57) [(0, addr)]
    if addr % 8 ≠ 0 then .error (.trap 4 (accInfo 0 addr) 0)
    else if n % 8 ≠ 0 || n < 8 || 32768 < n then illegalOperand n
    else
      let core := t.ctxCore t.cur
      let tab := (t.core core).table
      let team := ctxTeam t.cur
      let mine := match tab.holder with
        | none => true
        | some h => h = team
      if !mine || tab.draining || tab.fill.isSome then .error (.wait (.resource .fill))
      else
        let tab := if tab.holder.isNone then { ActTable.empty with holder := some team } else tab
        .ok ((t.modTable core fun _ => { tab with fill := some (t.cur, addr, n), fillPc := t.ctxPc t.cur }).setWait t.cur .answer))

/-- What a fill comes to: the bytes read, and what stopped it. -/
structure FillEnd where
  bytes : List Byte
  stop : Option Stop
  deriving DecidableEq, Repr

/-- The bytes of a fill, 8 at a time, up to the first that cannot be read; one past the address space is refused as a load's
address is (R141). -/
def State.fillBytes (s : State) (r : Requester) (va : Nat) : Nat → FillEnd × State
  | 0 => ({ bytes := [], stop := none }, s)
  | n + 1 =>
    if 2 ^ 57 ≤ va then ({ bytes := [], stop := some (.trap 6 (accInfo 1 va) 0) }, s)
    else match s.access r .read va with
    | .error e => ({ bytes := [], stop := some (s.stopOf va e) }, s)
    | .ok (x, s) => match s.poisonIn x.pa 8 with
      | some line => ({ bytes := [], stop := some (.trap 8 (BitVec.ofNat 64 line) 0) }, s)
      | none =>
        let (f, s) := s.fillBytes r (va + 8) n
        ({ f with bytes := s.physRead x.pa 8 ++ f.bytes }, s)

/-- Where `n` bytes from a virtual address lie, page by page, as far as they are mapped. -/
def State.fillSpans (s : State) (r : Requester) (va n : Nat) : List (Nat × Nat × Nat) :=
  ((span (va / 65536) ((va + n - 1) / 65536 - va / 65536 + 1)).filter (· < 2 ^ 41)).filterMap fun p =>
    let lo := max va (65536 * p)
    let hi := min (va + n) (65536 * (p + 1))
    match s.translate r .read lo with
    | .error _ => none
    | .ok (x, _) => some (0, x.pa, hi - lo)

/-- An outstanding store or atomic of a context writes some of the bytes from a virtual address (R136: the fill sees every
earlier store of its group). -/
def State.storesBefore (s : State) (c : Ctx) (va n : Nat) : Bool :=
  let area := s.fillSpans (s.requester c) va n
  (s.ctxRegs c).outs.any fun o => o.writes && o.lanes.any fun l =>
    (s.laneSpans (s.ctxJob c) o l).any fun p => area.any fun q => spansMeet p q

/-- TBLLD_FILL_COMPLETE of a core (R136): a translation fault parks the split on a record of AGENT 4, and the `tblld`, which
is still in progress, executes again and fills from its first byte (R260); a permission fault or poison is its trap, after the
bytes before it are written. -/
def State.finishFill (s : State) (core : Nat) (c : Ctx) (va n : Nat) : State :=
  let (f, t) := s.fillBytes (s.requester c) va (n / 8)
  let ended := fun (u : State) => u.modTable core fun k => { k with fill := none }
  match f.stop with
  | none => ((ended t).modTable core fun k => k.fillBank f.bytes).advanceOf c
  | some (.page w u _) => u.parkFault c 4 w
  | some (.trap cause info _) =>
    let u := ((ended t).modTable core fun k => k.fillBank f.bytes).setWait c .none
    u.takeRecoverable c cause info (u.ctxPc c) (u.ctxPc c + 4) (u.ctxMask c)
  | some _ => t

/-- What a context waits on at the `tblld` of a fill; none when it has left that instruction, by a trap or a merge. -/
def State.fillWait (s : State) (c : Ctx) (pc : Addr) : Option Wait :=
  match c with
  | .group t g p =>
    let x := s.split t g p
    if x.valid && x.pc = pc then some x.wait else none
  | .seq t => ((s.team t).seq.filter fun q => q.pc = pc).map (·.wait)
  | .host _ => none

/-- R136. A fill whose `tblld` is parked, or is about to execute again, stays; one that its context has left is over. -/
def execTblldFillComplete (core : Nat) (s : State) : Host.Outcome State Fault Refusal :=
  .next (match (s.core core).table.fill with
    | none => s
    | some (c, va, n) =>
      if (s.team (ctxTeam c)).state ≠ .resident then s
      else match s.fillWait c (s.core core).table.fillPc with
        | some .answer => if s.storesBefore c va n then s else s.finishFill core c va n
        | some (.parked _ _ _) => s
        | some .none => s
        | _ => s.modTable core fun k => { k with fill := none })

/-! ### Exchange (R137, R138) -/

/-- R137: with a fill in progress, or the table held by another team, it waits. A team that holds nothing while no
team does is refused as a `tbl` is (log 32). -/
def execTblsw (s : State) :=
  conclude s (do
    s.needKind .tblsw [.group, .seq]
    let core := s.ctxCore s.cur
    let tab := (s.core core).table
    match tab.holder with
    | none => .error (.trap 6 (accInfo 3 0) 0)
    | some h =>
      if h ≠ ctxTeam s.cur || tab.fill.isSome then .error (.wait (.resource .exchange))
      else .ok (s.modTable core fun k => { k with current := !k.current, draining := true }).advance)

/-- R138: the draining bank becomes idle. -/
def execTblDrainEnd (core : Nat) (s : State) : Host.Outcome State Fault Refusal :=
  .next (s.modTable core fun k => { k with draining := false })

end Sys2Proof.Machine
end

