-- ==== Sys2Proof/Machine/Save.lean ====
section
/-! DEFINITION. The end of groups and teams, swap, halting at an instruction boundary, saving and restoring (R28, R32,
R105, R134, R136, R147, R219, R220, R236, R238, R288 to R297, R346). -/

namespace Sys2Proof.Machine

/-! ### Retirement (R105, R219) -/

/-- A group has no work left. -/
def Group.spent (g : Group) : Bool :=
  !g.retired && (g.splits.all fun p => !p.valid) && g.deferred.isEmpty && g.regs.outs.isEmpty && g.posts.isEmpty
    && g.regs.tok.all fun e => e.2.count = 0

/-- R105: the group's slot and registers are free. -/
def execGroupRetire (team g : Nat) (s : State) : Host.Outcome State Fault Refusal :=
  .next (if (s.team team).state = .resident && (s.group team g).spent then
    s.modGroup team g fun x => { x with retired := true, rows := [], states := [], badRegs := [] } else s)

/-- R105, R219: a team whose groups have retired and whose sequencer does not run ends. -/
def execTeamRetire (team : Nat) (s : State) : Host.Outcome State Fault Refusal :=
  .next (
    let tm := s.team team
    if (tabFind team s.teams).isSome && tm.state = .resident && tm.groups.all (·.retired) && tm.seq.isNone then
      s.endTeam team .retired
    else s)

/-! ### The watchdog (R236) -/

/-- Time a team has been resident, in ns. -/
def State.residence (s : State) (t : Nat) : Nat :=
  let tm := s.team t
  tm.residentNs + (if tm.state = .resident then s.now - tm.residentSince else 0)

/-- R236: cause 15 when the resident time reaches the job's limit; `TINFO` is that time in µs. -/
def execWatchdog (team : Nat) (s : State) : Host.Outcome State Fault Refusal :=
  .next (
    let tm := s.team team
    let limit := (s.job (lrJob tm.launch)).wdog.toNat
    let us := s.residence team / 1000
    if (tabFind team s.teams).isSome && tm.state = .resident && !tm.halted && limit ≠ 0 && limit ≤ us then
      s.teamFatal team 15 (BitVec.ofNat 64 (us % 2 ^ 32))
    else s)

/-! ### Swap (R289) -/

/-- A context's instruction would find the resource that it is short of. -/
def State.resourceFree (s : State) (t : Nat) (tm : Team) (r : Regs) (what : Resource) : Bool :=
  let c := s.core tm.core
  match what with
  | .any => true
  | .counts load => (if load then r.ldc else r.stc) < 63
  | .token n => (tabGet Token.zero n r.tok).count ≠ 255
  | .matrix => c.mq.length + c.pending.length < 16
  | .copy => c.cq.length < 16
  | .banks n => n ≤ 128 - c.phys.length || 128 - c.phys.length + c.queuedFree < n
  | .bank b => !(c.mmas.any fun m => m.team = t && m.banks.contains b)
  | .sequencer => c.seqOwner.isNone
  | .fill => (c.table.holder.isNone || c.table.holder = some t) && !c.table.draining && c.table.fill.isNone
  | .exchange => c.table.holder.isNone || (c.table.holder = some t && c.table.fill.isNone)

/-- A split waits, and what it waits for has not come. A gathered split is not waiting. -/
def State.stillWaits (s : State) (t : Nat) (tm : Team) (g : Group) (p : Split) : Bool :=
  p.code ≠ 0 && (p.held || p.parkHeld || match p.wait with
    | .counts l n => l.toNat < g.regs.ldc || n.toNat < g.regs.stc
    | .resource what => !s.resourceFree t tm g.regs what
    | .answer => true
    | .waitq _ _ _ => true
    | .nvwait _ _ => true
    | w => !s.waitOver t tm g w)

/-- A sequencer's queue has its entry or room. -/
def seqPortReady (tm : Team) (q : Seqr) (port : Nat) (push : Bool) : Bool :=
  if port = 6 then !q.q6.isEmpty else if push then tm.q5down.length < 16 else !tm.q5up.isEmpty

/-- A running sequencer could issue: it does not wait, or what it waits for has come. -/
def State.seqReady (s : State) (t : Nat) (tm : Team) (q : Seqr) : Bool :=
  match q.wait with
  | .none => true
  | .queue p push => seqPortReady tm q p push
  | w => !s.stillWaits t tm { Group.none with regs := q.regs, k := q.k } { Split.none with valid := true, wait := w }

/-- Every group of a team has waited for more than SWAPT, and its sequencer does not run or waits. -/
def State.swapReady (s : State) (t : Nat) : Bool :=
  let tm := s.team t
  tm.state = .resident && (tm.groups.all fun g =>
      g.retired || (1000 * lrSwapt tm.launch < s.now - g.lastIssue
        && g.splits.all fun p => !p.valid || s.stillWaits t tm g p))
    && match tm.seq with
      | none => true
      | some q => !s.seqReady t tm q

/-- The swap condition of a cluster, but for its wake entry. -/
def State.swapHolds (s : State) (c : Nat) : Bool :=
  let ts := s.clusterTeams c
  !ts.isEmpty && ts.all fun t => s.swapReady t && (s.team t).recPa ≠ 0

/-- R289: a cluster is to be swapped. -/
def execSwapTick (team : Nat) (s : State) : Host.Outcome State Fault Refusal :=
  .next (
    let c := (s.team team).cluster
    let used := ((s.col (s.wakeCol c)).wakes.filter fun w => w.swap).length
    if (tabFind team s.teams).isSome && (s.clusterTeams c).all (fun t => !(s.team t).halted) && s.swapHolds c && used < 256 then
      s.haltCluster c 1 none
    else s)

/-! ### The halt (R32, R136, R147, R220, R292) -/

/-- Nothing of a copy command is on its way: every chunk sent has been answered, and every one of its `n` chunks that has
started is done, but for those after a failure and those that wait on a fault, which start again. -/
def CCmd.quiet (c : CCmd) (n : Nat) : Bool :=
  (c.sentChunks.all fun k => c.done.contains k)
    && (upto (min n c.started.length)).all fun k => c.done.contains k || (c.faults.any fun f => f.2.2 = k) || match c.stop with
      | none => false
      | some j => decide (j < k)

/-- Bytes written to a team's vault are still to be counted at a gauge of it. -/
def CountItem.countsAt (t : Nat) : CountItem → Bool
  | .vault u _ _ => u = t
  | .mem _ _ _ => false

/-- A team stands still: its issued stores have drained, the bytes that arrived in its vault are counted, and its chunks in
progress are complete. -/
def State.stands (s : State) (t : Nat) : Bool :=
  let tm := s.team t
  tm.state = .resident && tm.halted && tm.contexts.all Regs.drained && (s.counts.all fun c => !c.countsAt t)
    && (s.core tm.core).cq.all fun c => c.team ≠ t || c.quiet (shapeChunks (s.copyRows c))

/-- Outstanding loads are recorded for reissue; a remote one is asked for again under a new number. -/
def markReissue (fresh : Nat) (posted : Nat → Bool) (r : Regs) : Regs :=
  { r with outs := r.outs.map fun a =>
      if a.kind = .load && !posted a.id then
        { a with reissue := true, fault := none, id := if a.peer then fresh + a.id else a.id } else a }

/-- A team's outstanding loads are recorded; a table fill is in its image as it stands, and its `tblld` executes again
(R136). -/
def State.haltTeam (s : State) (t : Nat) : State :=
  let fresh := s.fresh
  let mark := fun (tm : Team) =>
    { tm with
      state := .saving
      groups := tm.groups.map fun g => { g with regs := markReissue fresh (fun i => g.posts.any fun p => p.accessId = i) g.regs }
      seq := tm.seq.map fun q => { q with regs := markReissue fresh (fun _ => false) q.regs } }
  { s with fresh := 2 * fresh + 1 }.modTeam t mark

/-- A swap whose condition no longer holds is given up: the teams go on. -/
def State.cancelSwap (s : State) (c : Nat) : State :=
  let ts := s.clusterTeams c
  let s := ts.foldl (fun s t => s.modTeam t fun tm => { tm with halted := false, reason := 0 }) s
  let s := s.modCol (s.wakeCol c) fun q => { q with wakes := q.wakes.filter fun w => w.cluster ≠ c }
  ts.foldl (fun s t => (s.settleMatrix (s.team t).core).startChunks (s.team t).core t) s

/-- R292: every team of the cluster stands at an instruction boundary, and its save starts. The condition of a swap is
tested again first (R289). -/
def execTeamHalt (team : Nat) (s : State) : Host.Outcome State Fault Refusal :=
  .next (
    let c := (s.team team).cluster
    let ts := s.clusterTeams c
    if (tabFind team s.teams).isNone || !(ts.all fun t => (s.team t).recPa ≠ 0 && s.stands t) then s
    else if (s.team team).reason = 1 && !s.swapHolds c then s.cancelSwap c
    else ts.foldl State.haltTeam s)

/-! ### The save (R288, R294, R297) -/

/-- Bytes moved with their poison; a line at the destination that is poisoned stays so. -/
def State.moveBytes (s : State) (src dst n : Nat) : State :=
  let mem := (region s.mem src n).foldl (fun m c => memSet (dst + c.1) c.2 m) (memZero s.mem dst n)
  let bad := (s.poison.filter fun p => src ≤ 128 * p && 128 * p < src + n).map fun p => (dst + (128 * p - src)) / 128
  { s with mem := mem, poison := bad.foldl (fun l p => insertNat p l) s.poison }

/-- Engine work of a team that its image holds (R220): commands start again without their faults, and the banks of a
queued `acfr` are free. -/
def Core.saveOf (c : Core) (t : Nat) : SavedWork :=
  let kept := fun (m : MCmd) => match m.kind with
    | .acfr _ => { m with kind := .acfr [], fault := none }
    | _ => { m with fault := none }
  { mq := (c.mq.filter fun m => m.team = t).map kept
    cq := (c.cq.filter fun m => m.team = t).map fun m => { m with faults := [] }
    chains := (c.chains.filter fun m => m.team = t).map fun m => { m with auditFault := none }
    followOn := (c.followOn.filter fun m => m.team = t).map kept
    released := (c.released.filter fun m => m.team = t).map kept
    table := if c.table.holder = some t then { c.table with draining := false } else ActTable.empty }

/-- Queues of event records are not part of an image (R42). -/
def Team.forImage (tm : Team) (work : SavedWork) (held : Bool) (resident cyc : Nat) : Team :=
  { tm with
    sseq := tm.sseq + 1, saveCyc := BitVec.ofNat 64 cyc, saved := work, tableHeld := held, residentNs := resident, wake := tm.wake
    groups := tm.groups.map fun g => { g with q6 := [], urgent := false, waitingIssue := 0 }
    seq := tm.seq.map fun q => { q with q6 := [], q6pos := 0 } }

/-- Columns of a cluster's cores at CRITICAL. -/
def State.hotCols (s : State) (ts : List Nat) : List Nat :=
  (ts.foldl (fun l t => insertNat (colOfCore (s.team t).core) l) []).filter fun c => (s.col c).gov.level = 3

/-- Records at the end of a cluster's save: PREEMPTED to the host core that asked for it, EMSAVED beneath the columns
that the emergency save is for (R284, R337). -/
def State.pushSaved (s : State) (ts : List Nat) : State :=
  let t := ts.headD 0
  let tm := s.team t
  let s := match ts.findSome? (fun u => (s.team u).issuer) with
    | none => s
    | some c => ts.foldl (fun s u => s.modTeam u fun tm => { tm with issuer := none }) (s.pushTeamRec c 0x11 ts.length 0 tm.recPa t)
  if ts.all fun u => (s.team u).reason ≠ 4 then s
  else
    let cs := s.hotCols ts
    (if cs.isEmpty then [colOfCore tm.core] else cs).foldl (fun s c => s.pushTeamRec c 0x21 0 0 tm.recPa t) s

/-- R288: COMMIT is written, the team's resources are free, and the records of the save are pushed. -/
def execSaveComplete (team : Nat) (s : State) : Host.Outcome State Fault Refusal :=
  .next (
    let tm := s.team team
    if (tabFind team s.teams).isNone || tm.state ≠ .saving then s
    else
      let core := s.core tm.core
      let cyc := (s.cyc (colOfCore tm.core)).toNat
      let im := tm.forImage (core.saveOf team) (core.table.holder = some team)
        (tm.residentNs + (s.now - tm.residentSince)) cyc
      let s := s.moveBytes (s.vaultBase team) (tm.recPa + recVaultOff tm.launch) (lrVault tm.launch)
      let s := (s.modTeam team fun _ => { im with state := .saved }).writeRecord team im im.saved.table (commitWord team im) cyc
      let s := s.modCore tm.core fun c => c.release team tm
      let s := if tm.reason = 5 then
          (s.pushTeamRec (colOfCore tm.core) 0x10 tm.fatal.toNat 0 tm.recPa team).countEnd tm.grid .fatal else s
      let ts := s.clusterTeams tm.cluster
      if ts.all fun t => (s.team t).state = .saved then (s.pushSaved ts).evalWake tm.cluster else s)

/-! ### The restoration (R291, R346) -/

/-- A line of a record that holds poison, outside the register rows. -/
def State.recordBad (s : State) (tm : Team) : Bool :=
  let rows := fun (a : Nat) => (upto (lrGroups tm.launch)).any fun g =>
    let b := tm.recPa + 0x30000 + g * groupSectionSize tm.launch + 0x2000
    decide (b ≤ a ∧ a < b + 128 * lrRegs tm.launch)
  s.poison.any fun p => tm.recPa ≤ 128 * p && 128 * p < tm.recPa + recSize tm.launch && !rows (128 * p)

/-- A wait as it stands at restoration: a fault's waiter re-executes its instruction, and an answer that is no longer
due has been written to the image. -/
def State.wakeSplit (s : State) (c : Ctx) (w : Wait) : Wait :=
  match w with
  | .parked _ _ _ => .none
  | .answer => if s.answerDue c then .answer else .none
  | w => w

/-- A team's contexts as they go on. -/
def State.wakeTeam (s : State) (t : Nat) (tm : Team) : Team :=
  { tm with
    groups := tm.groups.mapIdx fun g gr =>
      { gr with
        lastIssue := s.now
        splits := gr.splits.mapIdx fun p x => { x with wait := s.wakeSplit (.group t g p) x.wait, parkHeld := false } }
    seq := tm.seq.map fun q => { q with wait := s.wakeSplit (.seq t) q.wait } }

/-- The requests of a remote load are sent again. -/
def State.resendLoad (s : State) (c : Ctx) (a : Access) : State :=
  let cur := s.cur
  let s := a.lanes.foldl (fun u l => u.send (u.peerMsg a l) (.access c a.id l.lane)) { s with cur := c }
  { s with cur := cur }

/-- Remote loads of a context that were recorded at the halt. -/
def State.resendLoads (s : State) (c : Ctx) : State :=
  let due := (s.ctxRegs c).outs.filter fun a => a.peer && a.reissue
  let clean := fun (a : Access) =>
    if a.peer && a.reissue then
      { a with reissue := false, lanes := a.lanes.map fun l => { l with result := .pending, value := 0 } } else a
  due.foldl (fun s a => s.resendLoad c a) (s.modRegs c fun r => { r with outs := r.outs.map clean })

/-- The image's engine work on the team's core; the physical banks of logical ones that the image's map leaves out are free,
and the core's sequencer is the team's if the image says that it runs. -/
def Core.takeWork (c : Core) (t : Nat) (w : SavedWork) (held seq : Bool) (unmapped : List Nat)
    (banks : List Host.Cell × List Host.Cell) : Core :=
  { c with
    phys := c.phys.filter fun p => !unmapped.contains p
    seqOwner := if seq then some t else if c.seqOwner = some t then none else c.seqOwner
    mq := c.mq ++ w.mq
    cq := c.cq ++ w.cq
    chains := c.chains ++ w.chains
    followOn := match c.followOn with
      | none => w.followOn
      | some m => some m
    released := c.released ++ w.released
    table := if held then { w.table with holder := some t, bank0 := banks.1, bank1 := banks.2, fill := none }
      else if c.table.holder = some t then ActTable.empty else c.table }

/-- The team is resident again: its registers, vault bytes, engines and table are read back. -/
def State.restore (s : State) (team : Nat) : State :=
  let tm := s.team team
  let im := teamFromRecord s.mem s.poison tm
  let back := s.wakeTeam team { im with
    state := .resident, residentSince := s.now, saved := SavedWork.none, capFail := none, reason := 0, wake := false }
  let s := s.moveBytes (tm.recPa + recVaultOff tm.launch) (s.vaultBase team) (lrVault tm.launch)
  let banks := tableFromRecord s.mem tm
  let unmapped := (tm.acc.filter fun e => (tabFind e.1 im.acc).isNone).map (·.2.phys)
  let s := (s.modTeam team fun _ => back).modCore tm.core fun c =>
    c.takeWork team im.saved im.tableHeld im.seq.isSome unmapped banks
  let s := (upto back.groups.length).foldl (fun s g => s.resendLoads (.group team g 0)) s
  let s := if back.seq.isSome then s.resendLoads (.seq team) else s
  let s := match tm.capFail with
    | none => s
    | some n => s.teamFatal team 12 (n.setWidth 64)
  (s.settleMatrix tm.core).startChunks tm.core team

/-- R291, R346: the record has been read; the team goes on, or is lost when it holds poison. It waits while the core's engines
hold too much work of other teams, or another team's prepared follow-on. -/
def execRestoreComplete (team : Nat) (s : State) : Host.Outcome State Fault Refusal :=
  .next (
    let tm := s.team team
    if (tabFind team s.teams).isNone || tm.state ≠ .restoring then s
    else if s.recordBad tm then s.loseTeam team (colOfCore (homeOf team))
    else if !(s.core tm.core).roomFor tm.saved then s
    else s.restore team)

/-! ### Records of fatally halted teams (R278, R293) -/

/-- R278: the save record of a team halted by a fatal cause is released, and its entry is free. -/
def execSaverel (v : DWord) (s : State) : Host.Outcome State Fault Refusal :=
  .next (match s.findTeam (bitsOf v.toNat 16 10) (bitsOf v.toNat 0 16) with
    | none => s
    | some t => if (s.team t).state = .saved && (s.team t).reason = 5 then s.removeTeam t else s)

end Sys2Proof.Machine
end

