-- ==== Sys2Proof/Machine/Gauge.lean ====
section
/-! DEFINITION. Counting at gauges, their firings and actions (R182 to R185). -/

namespace Sys2Proof.Machine

/-! ### Firing records (R185) -/

/-- What fires: job, priority limit, column whose host core is told, column whose counter dates the firing (at the segment, or
where the home agent attaches, R299), and the bits of a record that name the gauge. -/
structure GaugeSrc where
  job : Nat
  pri : Nat
  col : Nat
  clock : Nat
  name : Nat
  deriving DecidableEq, Repr

/-- A vault gauge of a team. -/
def State.vaultGauge (s : State) (t off : Nat) : GaugeSrc :=
  let tm := s.team t
  { job := lrJob tm.launch, pri := lrPri tm.launch, col := colOfCore tm.core, clock := colOfCore tm.core,
    name := s.handle t * 2 ^ 112 + homeOf t * 2 ^ 102 + off % 2 ^ 21 * 2 ^ 64 }

/-- A memory gauge of a home agent. -/
def memGauge (g : MGauge) (agent entry : Nat) : GaugeSrc :=
  { job := g.job.toNat, pri := g.limit.toNat, col := firstCol (agent / 2),
    clock := firstCol (agent / 2) + (if agent % 2 = 0 then 7 else 11),
    name := agent % 16 * 2 ^ 64 + entry % 256 * 2 ^ 72 + 2 ^ 17 }

/-- The GAUGE record of a firing with its ERRC at the firing. -/
def gaugeRec (src : GaugeSrc) (cyc gen errc : Nat) : BitVec 256 :=
  BitVec.ofNat 256 (cyc % 2 ^ 64 * 2 ^ 192 + src.name + gen % 2 ^ 32 * 2 ^ 32 + errc % 4 * 2 ^ 20
    + b2n (errc ≠ 0) * 2 ^ 16 + src.job % 256 * 2 ^ 8 + 0x40)

/-- The record of a failure found after the actions started. -/
def lateRec (r : BitVec 256) (errc : Nat) : BitVec 256 := r ||| BitVec.ofNat 256 (errc * 2 ^ 20)

/-- Two firings are of one gauge: HANDLE, HOME, LOC, MEM and JOB agree. -/
def sameGauge (a b : BitVec 256) : Bool :=
  bitsOf a.toNat 64 64 = bitsOf b.toNat 64 64 && bitOf a.toNat 17 = bitOf b.toNat 17 && bitsOf a.toNat 8 8 = bitsOf b.toNat 8 8

/-- A refused ARRIVE or LAUNCH: its record follows that of the firing's NOTIFY store, if that is still due. -/
def State.lateFail (s : State) (col : Nat) (r : BitVec 256) : State :=
  if s.notifies.any fun q => q.record = r then
    { s with notifies := s.notifies.map fun q => if q.record = r then { q with late := q.late + 1 } else q }
  else s.pushHost col (lateRec r 2)

/-! ### Firings (R184) -/

/-- 32-bit words and other parts of a parameter block. -/
def blockNat (b : List Byte) (off n : Nat) : Nat := ofBytes ((b.drop off).take n)

/-- The sender checks of R165 that a gauge makes. -/
def gaugeCapOk (cap : Cap) (type job : Nat) : Bool := capType cap = type && capUse cap && capJob cap = job

/-- Barrier capability of a block. -/
def blockBarrier (b : List Byte) : Cap := BitVec.ofNat 128 (blockNat b 0x10 16)

/-- Launch-line capability of a block. -/
def blockLine (b : List Byte) : Cap := BitVec.ofNat 128 (blockNat b 0x20 16)

/-- ERRC of the checks at a firing; 0 when all pass. `flags` are ACTION[31:28]. -/
def firingErr (job flags : Nat) (block : Option (List Byte)) : Nat :=
  match block with
  | none => 1
  | some b =>
    if (bitOf flags 2 && !gaugeCapOk (blockBarrier b) 3 job) || (bitOf flags 1 && !gaugeCapOk (blockLine b) 5 job) then 2
    else if blockNat b 0x30 16 ≠ 0 then 3 else 0

/-- The arrival that ARRIVE sends. -/
def State.gaugeArrival (s : State) (src : GaugeSrc) (cap : Cap) : Msg :=
  { s.capMsg (.host src.col) .gauge cap with job := BitVec.ofNat 8 src.job, pri := BitVec.ofNat 3 src.pri }

/-- A store of a gauge that is due. -/
def GaugeStore.new (src : GaugeSrc) (b : List Byte) (gen : Nat) (r : BitVec 256) (now : Nat) : GaugeStore :=
  { col := src.col, job := BitVec.ofNat 8 src.job, pri := BitVec.ofNat 3 src.pri, va := blockNat b 8 8,
    gen := BitVec.ofNat 32 gen, cap := blockLine b, launch := BitVec.ofNat 512 (blockNat b 0x40 64), record := r,
    due := now, late := 0, id := 0, fault := none }

/-- The flagged actions, in the order NOTIFY, ARRIVE, LAUNCH, EVENT. -/
def State.gaugeActions (s : State) (src : GaugeSrc) (flags gen : Nat) (b : List Byte) : State :=
  let r := gaugeRec src (s.cyc src.clock).toNat gen 0
  let g := GaugeStore.new src b gen r s.now
  let s := if bitOf flags 3 then { s with notifies := s.notifies ++ [g] } else s
  let s := if bitOf flags 2 then s.send (s.gaugeArrival src (blockBarrier b)) (.gauge src.col r) else s
  let s := if bitOf flags 1 then { s with glaunches := s.glaunches ++ [g] } else s
  if bitOf flags 0 then s.pushHost src.col r else s

/-- One firing: the new generation, and the actions or an ERR record in their place. -/
def State.fireGauge (s : State) (src : GaugeSrc) (flags gen : Nat) (block : Option (List Byte)) : State :=
  let errc := firingErr src.job flags block
  if errc ≠ 0 then s.pushHost src.col (gaugeRec src (s.cyc src.clock).toNat gen errc)
  else s.gaugeActions src flags gen (block.getD [])

/-- The firings of one count, the generation rising from `gen`. -/
def State.fireAll (s : State) (src : GaugeSrc) (flags gen : Nat) (block : Option (List Byte)) : Nat → State
  | 0 => s
  | n + 1 =>
    let g := (gen + 1) % 2 ^ 32
    (s.fireGauge src flags g block).fireAll src flags g block n

/-! ### Counting (R183) -/

/-- Parameter block of a vault gauge, if it lies inside the allocation. -/
def State.vaultBlock (s : State) (t action : Nat) : Option (List Byte) :=
  let off := 128 * bitsOf action 14 14
  if off + 128 ≤ lrVault (s.team t).launch then some (s.physRead (s.vaultPa t off) 128) else none

/-- Bytes counted at a vault gauge; for a saved team that is one event (R297). -/
def State.countVault (s : State) (t off bytes : Nat) : State :=
  let total := s.vaultNat t off 4
  let count := s.vaultNat t (off + 4) 4 + bytes
  let gen := s.vaultNat t (off + 8) 4
  let action := s.vaultNat t (off + 12) 4
  if total = 0 then s.modView t true fun tm => tm
  else
    let n := count / total
    let u := s.physWrite (s.vaultPa t (off + 4)) (toBytes 4 (count % total) ++ toBytes 4 ((gen + n) % 2 ^ 32))
    let u := u.fireAll (s.vaultGauge t off) (bitsOf action 28 4) gen (s.vaultBlock t action) n
    (u.modView t true id).evalWake (s.team t).cluster

/-- Bytes counted at a memory gauge. -/
def State.countMem (s : State) (agent entry bytes : Nat) : State :=
  match tabFind (gaugeKey agent entry) s.mgauges with
  | none => s
  | some g =>
    let count := g.count.toNat + bytes
    let n := count / g.total.toNat
    let g' := { g with count := BitVec.ofNat 32 (count % g.total.toNat), gen := g.gen + BitVec.ofNat 32 n }
    let u := { s with mgauges := tabSet (gaugeKey agent entry) g' s.mgauges }
    (u.fireAll (memGauge g agent entry) g.action.toNat g.gen.toNat (some g.params) n).evalWakes

/-- R183: the bytes of write number `n` are counted. -/
def execGaugeCount (n : Nat) (s : State) : Host.Outcome State Fault Refusal :=
  .next (match s.counts[n]? with
    | none => s
    | some i =>
      let t := { s with counts := delAt n s.counts }
      match i with
      | .vault team off bytes =>
        if s.inTransit team then s else if (tabFind team s.teams).isNone then t else t.countVault team off bytes
      | .mem agent entry bytes => t.countMem agent entry bytes)

/-! ### NOTIFY and LAUNCH stores (R184) -/

/-- An earlier store of the same gauge is still due. -/
def storeQueued (q : GaugeStore) (before : List GaugeStore) : Bool := before.any fun p => sameGauge p.record q.record

/-- A NOTIFY store ends: a failure's record first, then those of later failures of its firing. -/
def State.endNotify (s : State) (n : Nat) (q : GaugeStore) (failed : Bool) : State :=
  let t := { s with notifies := delAt n s.notifies }
  let t := if failed then t.pushHost q.col (lateRec q.record 1) else t
  (List.replicate q.late ()).foldl (fun t _ => t.pushHost q.col (lateRec q.record 2)) t

/-- R184: NOTIFY store number `n`. -/
def execNotifyStore (n : Nat) (s : State) : Host.Outcome State Fault Refusal :=
  .next (match s.notifies[n]? with
    | none => s
    | some q =>
      let job := q.job.toNat
      if q.fault.isSome || storeQueued q (s.notifies.take n) then s
      else if q.va % 4 ≠ 0 || 2 ^ 57 ≤ q.va then s.endNotify n q true
      else match s.access (engineFor job (colVia q.col)) .write q.va with
        | .error (.perm _) => s.endNotify n q true
        | .error (.page f) => match (s.homeReads f).fileFault q.col (s.asid job) job 6 q.col f with
          | none => s
          | some (i, t) => { t with notifies := setAt n { q with fault := some (q.col, i) } t.notifies }
        | .ok (x, t) => (t.agentWrite x.pa (toBytes 4 q.gen.toNat)).endNotify n q false)

/-- A LAUNCH store ends; DENIED is recorded. -/
def State.endGaugeLaunch (s : State) (n : Nat) (q : GaugeStore) (status : Nat) : State :=
  if status = 6 then { s with glaunches := setAt n { q with due := s.now + 1000, id := 0 } s.glaunches }
  else
    let t := { s with glaunches := delAt n s.glaunches }
    if status = 10 then t.lateFail q.col q.record else t

/-- A LAUNCH store to another package: its request leaves once, and its answer comes with the request's number. -/
def State.remoteLaunch (s : State) (n : Nat) (q : GaugeStore) : State :=
  if q.id = 0 then
    { s with glaunches := setAt n { q with id := s.fresh + 1 } s.glaunches, fresh := s.fresh + 2 }
  else match s.acks.find? fun a => a.id = q.id with
    | none => s
    | some a =>
      let t := { s with acks := s.acks.filter fun b => b.id ≠ q.id }
      match a.kind with
      | .decided status _ _ _ => t.endGaugeLaunch n q status.toNat
      | _ => t

/-- R184: an attempt of LAUNCH store number `n`: the first, or one 1 µs after BUSY. -/
def execGaugeLaunchRetry (n : Nat) (s : State) : Host.Outcome State Fault Refusal :=
  .next (match s.glaunches[n]? with
    | none => s
    | some q =>
      if s.now < q.due || storeQueued q (s.glaunches.take n) then s
      else if capNode q.cap ≠ s.node.toNat then s.remoteLaunch n q
      else
        let (good, t) := s.lineCap q.cap
        if !good then t.endGaugeLaunch n q 10
        else
          let (x, t) := t.storeLine (capCore q.cap / 8) (capBase q.cap % 8) q.launch true q.job.toNat q.pri.toNat
          t.endGaugeLaunch n q (x.toNat % 16))

end Sys2Proof.Machine
end

