-- ==== Sys2Proof/Machine/Arrive.lean ====
section
/-! DEFINITION. What a destination interface does with messages and remote requests (R27, R28, R165, R168 to R176, R181,
R183, R212, R254, R305, R308, R311, R319 to R321). -/

namespace Sys2Proof.Machine

/-! ### Taking a message (R308, R311) -/

/-- A number is earlier than another of its stream, by fewer than `n`. -/
def seqBefore (a b : Word) (n : Nat) : Bool := a ≠ b && (b - a).toNat < n

/-- A number of a message's stream was decided here, or has arrived with another 6-bit tag. -/
def State.knownNumber (s : State) (m : Msg) (n : Word) : Bool :=
  (s.outcomes.any fun o => o.stream = recvStream m && o.seqNo = n)
    || s.inbound.any fun e => !e.writeoff && recvStream e = recvStream m && e.seqNo = n && e.ord ≠ m.ord

/-- An earlier number of the message's stream may still have the message's tag: it has arrived with that tag and is not
decided, or has not arrived (R308; log 99). Numbers older than the window of R311 are not waited for. -/
def State.outOfOrder (s : State) (m : Msg) : Bool :=
  let low := tabGet 0 (recvStream m) s.undecided
  let gap := (m.seqNo - low).toNat
  decide (gap < 65536) && (upto gap).any fun k => !s.knownNumber m (low + BitVec.ofNat 32 k)

/-- The kept outcome of a message's number. -/
def State.outcomeOf (s : State) (m : Msg) : Option Outcome :=
  s.outcomes.find? fun o => o.stream = recvStream m && o.seqNo = m.seqNo

/-- The message is older than the last 65,536 numbers of its stream. -/
def State.tooOld (s : State) (m : Msg) : Bool :=
  s.outcomes.any fun o => o.stream = recvStream m && 65536 ≤ (o.seqNo - m.seqNo).toNat && (o.seqNo - m.seqNo).toNat < 2 ^ 31

/-- The lowest number of a stream from `low` on of which no outcome is kept. -/
def firstOpen (os : List Outcome) (k : Nat) : Nat → Word → Word
  | 0, low => low
  | n + 1, low => if os.any fun o => o.stream = k && o.seqNo = low then firstOpen os k n (low + 1) else low

/-- What became of a message is kept; outcomes that fall out of the window are forgotten. -/
def State.keepOutcome (s : State) (m : Msg) (status : Option (BitVec 4)) (away : Option AckKind) (va : Nat := 0) : State :=
  let k := recvStream m
  let old := fun (o : Outcome) => o.stream = k && 65536 ≤ (m.seqNo - o.seqNo).toNat && (m.seqNo - o.seqNo).toNat < 2 ^ 31
  let os := s.outcomes ++ [{ stream := k, seqNo := m.seqNo, status := status, away := away, va := va }]
  let low := tabGet 0 k s.undecided
  let low := if seqBefore low (m.seqNo - 65535) (2 ^ 31) && 65536 ≤ (m.seqNo - low).toNat then m.seqNo - 65535 else low
  { s with outcomes := os.filter (fun o => !old o), undecided := tabSet k (firstOpen os k os.length low) s.undecided }

/-- TYPE and STATUS of the datagram of an answer (R322); ACCEPTED has a code of its own (log 104). -/
def AckKind.wire : AckKind → Nat × Nat
  | .decided st _ _ _ => (1, st.toNat)
  | .kept st => (1, st.toNat)
  | .accepted => (3, Sys2Proof.Config.acceptedCode.toNat)
  | .performed st => (3, st.toNat)
  | .redirect _ _ _ => (7, 0)
  | .retranslate => (7, 0)

/-- An answer leaves for a message's sender; for a sender on this package it is there. It leaves by a port as a message of
the deciding interface does. -/
def State.answer (s : State) (m : Msg) (kind : AckKind) (xlate : Option Nat) (va : Nat := 0) : State :=
  if m.snode = s.node then { s with acks := s.acks ++ [{ id := m.id, kind := kind, xlate := xlate, va := va }] }
  else
    let s : State := { s with ackOut := s.ackOut ++ [{ msg := m, kind := kind, xlate := xlate, va := va }] }
    let back := { m with snode := s.node, stwr := m.dtwr, dnode := m.snode, dtwr := m.stwr }
    s.leaveBy (s.pickPort back none) m.id m.dtwr m.stwr m.snode
      { type := kind.wire.1, job := m.job.toNat, ord := m.ord, cls := m.cls.code, seq := m.seqNo.toNat, pri := m.pri.toNat,
        status := kind.wire.2 }

/-- Two messages of the inbound list are copies of one another. -/
def Msg.same (a b : Msg) : Bool := recvStream a = recvStream b && a.seqNo = b.seqNo && a.writeoff = b.writeoff

/-- A message leaves the inbound list, with its copies. -/
def State.dropMsg (s : State) (m : Msg) : State := { s with inbound := s.inbound.filter fun e => !e.same m }

/-- A message is decided: its outcome is kept and acknowledged, and it counts in CON when `con`. -/
def State.settleMsg (s : State) (m : Msg) (status sub : BitVec 4) (bad : Bool) (data : BitVec 128) (xlate : Option Nat)
    (con : Bool) : State :=
  let s := (s.dropMsg m).keepOutcome m (some status) none
  let s := if con && m.counted then s.countCon m.dtwr.toNat m.job.toNat else s
  s.answer m (.decided status sub bad data) xlate

/-- A message decided with a status alone. -/
def State.decideStatus (s : State) (m : Msg) (status : BitVec 4) : State := s.settleMsg m status 0 false 0 none true

/-- A request refused with a SUB code (R170). -/
def State.refuse (s : State) (m : Msg) (sub : BitVec 4) : State := s.settleMsg m stDENIED sub false 0 none true

/-- Inbound message `n` of some classes that may be performed now, by `f`; a number already decided is answered from the
kept outcome, and one written off or too old is discarded uncounted. -/
def State.onMessage (s : State) (n : Nat) (ok : Msg → Bool) (f : Msg → State) : State :=
  match s.inbound.find? fun m => m.id = n && !m.writeoff && ok m with
  | none => s
  | some m =>
    match s.outcomeOf m with
    | some o => match o.away, o.status with
      | some k, _ => (s.dropMsg m).answer m k none o.va
      | none, none => s.dropMsg m
      | none, some st => (s.dropMsg m).answer m (.kept st) none
    | none =>
      if s.tooOld m then s.dropMsg m
      else if m.fault.isSome || s.outOfOrder m then s
      else f m

/-! ### Capability checks (R165, R305) -/

/-- The team a message's capability names; a job that is not valid and a bad tag are DENIED, a stale generation STALE. -/
def State.capTarget (s : State) (m : Msg) : Except (BitVec 4 × State) Nat :=
  if !s.jobValid m.job.toNat then .error (stDENIED, s)
  else if !s.tagGood m.job.toNat m.cap then .error (stDENIED, s.countCapFail m.job.toNat)
  else match s.findTeam (capCore m.cap) (capHandle m.cap) with
    | none => .error (stSTALE, s)
    | some t => .ok t

/-- A capability message: checked, held while its team is on the move, and judged by `f`. -/
def State.onCapMessage (s : State) (n : Nat) (ok : Msg → Bool) (f : State → Msg → Nat → State) : State :=
  s.onMessage n ok fun m =>
    match s.capTarget m with
    | .error (st, t) => t.decideStatus m st
    | .ok t => if s.inTransit t then s else f s m t

/-- The wake condition of a team's cluster after an event for it. -/
def State.wakeOf (s : State) (t : Nat) : State := s.evalWake (s.team t).cluster

/-! ### Puts (R27, R174) -/

/-- What a register state makes of a put. -/
def putStatus : RegState → BitVec 4
  | .plain => stNOTARMED
  | .armedEmpty _ => stOK
  | .armedFull _ => stOVERWRITE

/-- The state after a put was applied. -/
def RegState.filled : RegState → RegState
  | .armedEmpty q => .armedFull q
  | x => x

/-- Outcome over the registers of a put: NOTARMED before OVERWRITE before OK. -/
def putJudge (sts : List RegState) : BitVec 4 :=
  let js := sts.map putStatus
  if js.contains stNOTARMED then stNOTARMED else if js.contains stOVERWRITE then stOVERWRITE else stOK

/-- An overwrite: counted, and a trap that is due with TOVW. DESIGN CHOICE (log 118): a second one before the trap is taken replaces
what its TINFO will show. -/
def Group.overwritten (g : Group) (reg node : Nat) (tovw : Bool) : Group :=
  { g with
    regs := { g.regs with stat := statOverwrite g.regs.stat }
    overwrite := if tovw then some (BitVec.ofNat 64 (reg % 1024 + node % 2 ^ 20 * 2 ^ 32)) else g.overwrite }

/-- A put applied to the `v` registers of a group. -/
def Group.putV (g : Group) (m : Msg) : BitVec 4 × Group :=
  let row := capBase m.cap + m.reg.toNat
  let rows := span row (if m.wide then 2 else 1)
  let state := fun r => tabGet RegState.plain r g.states
  match putJudge (rows.map state) with
  | 0 =>
    let write := fun (g : Group) (r : Nat) =>
      let was := state r
      let g := g.writeRow r m.mask fun l => BitVec.ofNat 32 (bitsOf (m.lanes.getD l 0).toNat (32 * (r - row)) 32)
      { g with states := tabSet r was.filled g.states }
    (stOK, rows.foldl write g)
  | 1 => (stOVERWRITE, g.overwritten row m.snode.toNat (capTovw m.cap))
  | st => (st, g)

/-- A put applied to a `k` register of a group. -/
def Group.putK (g : Group) (m : Msg) : BitVec 4 × Group :=
  let n := capBase m.cap + m.reg.toNat
  let was := tabGet RegState.plain n g.k.states
  match putStatus was with
  | 0 => (stOK, { g with k := { vals := tabSet n (m.lanes.headD 0) g.k.vals, states := tabSet n was.filled g.k.states } })
  | 1 => (stOVERWRITE, g.overwritten n m.snode.toNat (capTovw m.cap))
  | st => (st, g)

/-- R174: put number `n`. -/
def execPutArrival (n : Nat) (s : State) : Host.Outcome State Fault Refusal :=
  .next (s.onCapMessage n (fun m => m.cls = .rput && !m.toGauge) fun s m t =>
    let put := fun (g : Group) => if capType m.cap = 1 then g.putV m else g.putK m
    let gi := capGroup m.cap
    let st := (put ((s.view t).groups.getD gi Group.none)).1
    let s := s.modView t true fun tm => { tm with groups := modAt gi (fun g => (put g).2) tm.groups }
    (s.wakeOf t).decideStatus m st)

/-- R176: gauge put number `n`; at a saved team the bytes, the gauge quad and EVENTS change as one event (R297). -/
def execRputGArrival (n : Nat) (s : State) : Host.Outcome State Fault Refusal :=
  .next (s.onCapMessage n (fun m => m.cls = .rput && m.toGauge) fun s m t =>
    let w := if m.wide then 8 else 4
    let block := capBlock m.cap
    let base := block + 256 + 256 * m.reg.toNat
    let ls := lanesOf m.mask
    let store := fun (s : State) (l : Nat) => s.physWrite (s.vaultPa t (base + w * l)) (toBytes w (m.lanes.getD l 0).toNat)
    let s := ls.foldl store s
    let bytes := w * ls.length
    if (s.team t).state = .saved then (s.countVault t block bytes).decideStatus m stOK
    else { s.decideStatus m stOK with counts := s.counts ++ [.vault t block bytes] })

/-! ### Barriers and messages -/

/-- R181: remote arrival number `n`, of an instruction or of a gauge. -/
def execBarrierArrival (n : Nat) (s : State) : Host.Outcome State Fault Refusal :=
  .next (s.onCapMessage n (fun m => m.cls = .barRarv || m.cls = .gauge) fun s m t =>
    (s.arriveAt t (capBase m.cap % 256)).decideStatus m stOK)

/-- R171: message number `n`; one that is accepted counts in CON when it is retired. -/
def execMessageArrival (n : Nat) (s : State) : Host.Outcome State Fault Refusal :=
  .next (s.onCapMessage n (fun m => m.cls = .msgs) fun s m t =>
    if 32 ≤ (s.view t).q4.length then s.decideStatus m stBUSY
    else
      let q : QMsg :=
        { payload := m.lanes.map fun x => x.setWidth 32, header := m.header.setWidth 32, snode := m.snode.setWidth 32,
          score := m.score.setWidth 32 }
      let s := s.modView t true fun tm => { tm with q4 := tm.q4 ++ [q] }
      (s.wakeOf t).settleMsg m stOK 0 false 0 none false)

/-! ### Remote requests (R168, R319 to R321) -/

/-- Target of a forward entry for an address that a walk of the given level ended at. -/
def forwardTo (w : WalkEnd) (va : Nat) : AckKind :=
  let e := w.entry.toNat
  let size := if w.level = 1 then 27 else 16
  .redirect (BitVec.ofNat 20 (bitsOf e 44 20)) (bitOf e 43) (bitsOf e 3 40 * 2 ^ 16 + va % 2 ^ size)

/-- How a request's address is reached at this package. -/
inductive Reach where
  | at (pa : Nat) (fresh : Bool)
  | refused (sub : BitVec 4)
  | away (kind : AckKind)
  | waits (f : FaultAt)
  deriving DecidableEq, Repr

/-- The sender is in the sharer list of a job and interface. -/
def State.isSharer (s : State) (m : Msg) : Bool :=
  s.sharers.any fun x => x.job = m.job.toNat && x.tower = m.dtwr.toNat && x.node = m.snode.toNat

/-- Where an address of a request lies: a replay into a pool needs a window and POOLOK, and another physical address a kept
translation. -/
def State.reach (s : State) (m : Msg) (t : AccType) (addr : Nat) : Reach × State :=
  let job := m.job.toNat
  if m.pool then (if bitOf (s.job job).fwctl.toNat 2 && s.place addr = .window then .at addr false else .refused 5, s)
  else if m.phys then (if s.isSharer m then .at addr false else .away .retranslate, s)
  else match s.access (engineFor job (dieVia m.dtwr.toNat)) t addr with
    | .ok (x, s) => (.at x.pa true, s)
    | .error (.perm sub) => (.refused (BitVec.ofNat 4 sub), s)
    | .error (.page f) => (if f.kind = 4 then .away (forwardTo f.walk addr) else .waits f, s.homeReads f)

/-- The request waits on a record of AGENT 5 in the buffer of the interface's column 0. -/
def State.ingressFault (s : State) (m : Msg) (f : FaultAt) : State :=
  let col := firstCol m.dtwr.toNat
  match s.fileFault col (s.asid m.job.toNat) m.job.toNat 5 (128 * m.dtwr.toNat) f with
  | none => s
  | some (i, t) => { t with inbound := t.inbound.map fun e =>
      if e.id = m.id && e.snode = m.snode && !e.writeoff then { e with fault := some (col, i) } else e }

/-- Nodes in the sharer list of a job and interface. -/
def State.sharerNodes (s : State) (job tower : Nat) : List Nat :=
  ((s.sharers.filter fun y => y.job = job && y.tower = tower).map (·.node)).eraseDups

/-- Size, as a power of 2, of the page that a walk of an address finds: the sharer's part of a larger page goes with it. -/
def State.leafShift (s : State) (m : Msg) : Nat :=
  match s.translate (engineFor m.job.toNat (dieVia m.dtwr.toNat)) .read m.addr with
  | .ok (x, _) => if bitsOf x.entry 0 3 = 3 then 27 else if bitOf x.entry 56 then 21 else 16
  | .error _ => 16

/-- A translation is given to the source when SRCTC allows it, and the sharer list of 512 nodes records the source while it
has room. -/
def State.giveXlate (s : State) (m : Msg) (pa shift : Nat) (fresh : Bool) : Option Nat × State :=
  if !(bitOf (s.job m.job.toNat).fwctl.toNat 0 && fresh) then (none, s)
  else
    let x : Sharer :=
      { job := m.job.toNat, tower := m.dtwr.toNat, page := m.addr / 65536, node := m.snode.toNat, shift := shift }
    let nodes := s.sharerNodes x.job x.tower
    let known := s.sharers.contains x || (512 ≤ nodes.length && !nodes.contains x.node)
    (some (pa / 65536), if known then s else { s with sharers := s.sharers ++ [x] })

/-- A message answered without a decision: RETRANSLATE, or REDIRECT, whose source is recorded as one of a translation is
(R321). A copy of it that comes later is answered in the same way. `va`: the address of it that met the forward entry. -/
def State.answerAway (s : State) (m : Msg) (k : AckKind) (va : Nat) : State :=
  let (x, s) := match k with
    | .redirect _ _ _ => s.giveXlate { m with addr := va } 0 27 true
    | _ => (none, s)
  ((s.dropMsg m).keepOutcome m none (some k) va).answer m k x va

/-- A remote request of some class: its address reached, it is performed by `f`, which gives poison and data. -/
def State.onRequest (s : State) (n : Nat) (cls : MsgClass) (t : AccType) (f : State → Msg → Nat → Bool × Nat × State) : State :=
  s.onMessage n (fun m => m.cls = cls) fun m =>
    if !s.jobValid m.job.toNat then s.refuse m 0
    else match s.reach m t m.addr with
      | (.refused sub, s) => s.refuse m sub
      | (.away k, s) => s.answerAway m k m.addr
      | (.waits w, s) => s.ingressFault m w
      | (.at pa fresh, s) =>
        let shift := s.leafShift m
        let (bad, data, s) := f s m pa
        let (x, s) := s.giveXlate m pa shift fresh
        s.settleMsg m stOK 0 bad (BitVec.ofNat 128 data) x true

/-- R168: remote store number `n`. -/
def execStpArrival (n : Nat) (s : State) : Host.Outcome State Fault Refusal :=
  .next (s.onRequest n .stp .write fun s m pa => (false, 0, s.agentWrite pa m.bytes))

/-- R168: remote atomic number `n`; a lane on a poisoned line writes nothing. -/
def execAtompArrival (n : Nat) (s : State) : Host.Outcome State Fault Refusal :=
  .next (s.onRequest n .atomp .atomic fun s m pa =>
    if s.isPoisoned pa then (true, 0, s)
    else
      let l := { LaneAcc.at 0 m.addr (.phys pa) with data := BitVec.ofNat 128 (ofBytes m.bytes), cmp := m.cmp }
      let s := if (tabFind (pa / 128) s.directory).isSome then s.dropLine (pa / 128) else s.backInvalidate (pa / 128)
      let (old, t) := s.atomicLane m.size m.op.toNat l
      (false, old, t))

/-- R168: remote load number `n`. -/
def execLdpArrival (n : Nat) (s : State) : Host.Outcome State Fault Refusal :=
  .next (s.onRequest n .ldp .read fun s m pa =>
    ((s.poisonIn pa m.size).isSome, ofBytes (s.physRead pa m.size), s.agentRead pa m.size))

/-! ### Copy chunks (R212) -/

/-- The pieces of a chunk cut at pages, each with its bytes. -/
def chunkPieces : List DWord → List Byte → List (Nat × List Byte)
  | a :: n :: rest, bs =>
    let len := n.toNat
    let (cut, _) := (pagePieces' a.toNat len).foldl
      (fun (acc : List (Nat × List Byte) × List Byte) p => (acc.1 ++ [(p.1, acc.2.take p.2)], acc.2.drop p.2)) ([], bs.take len)
    cut ++ chunkPieces rest (bs.drop len)
  | _, _ => []
where
  /-- the parts of a run of bytes in one 64 KiB page each -/
  pagePieces' (va n : Nat) : List (Nat × Nat) :=
    let k := 65536 - va % 65536
    if n ≤ k then [(va, n)] else [(va, k), (va + k, n - k)]

/-- Where each piece of a chunk lies, or the first that cannot be reached and what it answers. -/
def State.reachAll (s : State) (m : Msg) : List (Nat × List Byte) → Except (Nat × Reach × State) (List (Nat × List Byte) × State)
  | [] => .ok ([], s)
  | (va, bs) :: rest =>
    match s.reach m .write va with
    | (.at pa _, s) => do
      let (xs, s) ← s.reachAll m rest
      .ok ((pa, bs) :: xs, s)
    | r => .error (va, r)

/-- R212: remote chunk number `n` is performed at its home: written and counted, or written as poisoned lines. -/
def execTcopyChunkArrival (n : Nat) (s : State) : Host.Outcome State Fault Refusal :=
  .next (s.onMessage n (fun m => m.cls = .chunk) fun m =>
    if !s.jobValid m.job.toNat then s.refuse m 0
    else match s.reachAll m (chunkPieces m.lanes m.bytes) with
      | .error (_, .refused sub, t) => t.refuse m sub
      | .error (va, .away k, t) => t.answerAway m k va
      | .error (_, .waits w, t) => t.ingressFault m w
      | .error (_, .at _ _, t) => t
      | .ok (ws, t) =>
        let write := fun (s : State) (w : Nat × List Byte) =>
          if m.bad then (linesOf w.1 w.2.length).foldl (fun s l => (s.dropLine l).poisonLine (128 * l)) (s.physWrite w.1 w.2)
          else s.agentWrite w.1 w.2
        (ws.foldl write t).decideStatus m stOK)

end Sys2Proof.Machine
end

