-- ==== Sys2Proof/Machine/Returns.lean ====
section
/-! DEFINITION. The completion of outstanding accesses, and the traps their answers raise (R143 to R150, R155 to R159,
R170, R174, R264). -/

namespace Sys2Proof.Machine

/-! ### When an access may be performed -/

/-- An outstanding access of a context, if it may be performed now: nothing issued before holds it back, it has no trap due and
waits on no fault record, and its team is not on the move. -/
def State.dueAccess (s : State) (c : Ctx) (id : Nat) : Option Access :=
  let outs := (s.ctxRegs c).outs
  let before := outs.takeWhile fun a => a.id ≠ id
  let posted := match c with
    | .group t g _ => (s.group t g).posts.any fun p => p.accessId = id
    | _ => false
  match outs.find? fun a => a.id = id with
  | none => none
  | some a =>
    if posted || a.fault.isSome || s.ctxTransit c || !s.mayPerform (s.ctxJob c) before a then none else some a

/-- An access of a context leaves its list, wherever the team's state is held. -/
def State.finishAccess (s : State) (c : Ctx) (id : Nat) : State :=
  s.modViewRegs c fun r => { r with outs := r.outs.filter fun a => a.id ≠ id }

/-! ### Answers of peer packages (R170) -/

/-- The trap of the lowest lane that was refused; else, but for a store, that of the lowest lane that was written off or met
poison. -/
def peerFailure (a : Access) : Option (BitVec 8 × DWord) :=
  let refused := fun (l : LaneAcc) => match l.result with
    | .refused sub => some ((6 : BitVec 8), accInfo sub.toNat l.va)
    | _ => none
  let lost := fun (l : LaneAcc) => match l.result with
    | .writtenOff => some ((8 : BitVec 8), BitVec.ofNat 64 (2 ^ 63 + l.va))
    | .poison => some (8, BitVec.ofNat 64 (2 ^ 63 + 2 ^ 60 + l.va))
    | _ => none
  match a.lanes.findSome? refused with
  | some e => some e
  | none => if a.kind = .store then none else a.lanes.findSome? lost

/-- A value of `n` bytes as its destination takes it (R140). -/
def extendTo (a : Access) (x : Nat) : Nat :=
  if a.signed then wrapInt (if a.wide then 64 else 32) (toSigned (8 * a.size) x) else x % 2 ^ (8 * a.size)

/-- Values of an answered peer access. -/
def peerValues (a : Access) : List (Nat × Nat) := a.lanes.map fun l => (l.lane, extendTo a l.value.toNat)

/-- A host core's peer access ends: its destination is written and it goes on, or it takes the trap at the access. -/
def State.endHostPeer (s : State) (col : Nat) (a : Access) : State :=
  let c := Ctx.host col
  let s := s.dropAccess c a.id
  match peerFailure a with
  | some (cause, info) => s.modHost col fun h => h.enter false cause.toNat info h.pc
  | none => (s.deliver c a.dst 1 fun l => valueAt (peerValues a) l).advanceOf c

/-- A peer access whose every lane is answered ends. A refused store leaves `STC` at once. -/
def State.endPeer (s : State) (c : Ctx) (a : Access) : State :=
  if a.lanes.any fun l => l.result = .pending then s
  else match c with
    | .host col => s.endHostPeer col a
    | _ => match peerFailure a with
      | none =>
        let s := if a.kind = .store then s else s.deliver c a.dst a.mask fun l => valueAt (peerValues a) l
        s.finishAccess c a.id
      | some (cause, info) =>
        let s := if a.kind = .store then s.finishAccess c a.id else s
        s.postTrap c a cause info

/-! ### Loads (R145, R150, R159) -/

/-- The bytes a `ldro` lane reads: from the core's read-only cache of 64 sets of 8 lines, or from a line it fills, whose
request homes the region (R247, R252). -/
def State.roRead (s : State) (core pa n : Nat) : List Byte × State :=
  let line := pa / 128
  let (bs, s) := match tabFind line (s.core core).roCache with
    | some bs => (bs, s)
    | none =>
      let s := s.touch (colOfCore core) (128 * line)
      let bs := s.physRead (128 * line) 128
      (bs, s.modCore core fun c => { c with roCache := tabWays 64 8 (Sys2Proof.Config.victim s.fresh) line (tabSet line bs c.roCache) })
  ((bs.drop (pa % 128)).take n, s)

/-- Values and flags of a load's lanes, and the state after its read-only lines were filled. -/
def State.loadLanes (s : State) (core : Nat) (a : Access) : List LaneAcc → List (Nat × Nat) × Word × State
  | [] => ([], 0, s)
  | l :: rest =>
    let (x, f, s) :=
      if a.ro && l.ro then
        let (bs, s) := s.roRead core (s.locPa l.loc) a.size
        (extendTo a (ofBytes bs), (0 : Word), s)
      else
        let r := s.loadLane a l
        (r.1, r.2, s)
    let (xs, g, s) := s.loadLanes core a rest
    ((l.lane, x) :: xs, f ||| g, s)

/-- A load performed: poison is a trap that is due, and no lane is written. -/
def State.performLoad (s : State) (c : Ctx) (a : Access) : State :=
  let core := s.ctxCore c
  let cached := fun (l : LaneAcc) => a.ro && l.ro && (tabFind (s.locPa l.loc / 128) (s.core core).roCache).isSome
  match a.lanes.findSome? fun l => if cached l then none else s.lanePoison a l with
  | some line => s.postTrap c a 8 (BitVec.ofNat 64 line)
  | none =>
    let s := a.lanes.foldl (fun s l => s.obtainLane (s.agent c) a l) s
    let (xs, f, s) := s.loadLanes core a a.lanes
    let s := s.deliver c a.dst a.mask fun l => valueAt xs l
    (s.modRegs c fun r => r.raise f).finishAccess c a.id

/-- The lanes of a load recorded at a halt, translated again (R32, R147); an element is decoded by the codes of the
translation that is used, and refused as R52 says (log 96). -/
def State.relocate (s : State) (r : Requester) (a : Access) : List LaneAcc → Except (Nat × AccErr) (List LaneAcc × State)
  | [] => .ok ([], s)
  | l :: rest =>
    match l.loc with
    | .phys _ =>
      match s.access r .read l.va with
      | .error e => .error (l.va, e)
      | .ok (x, s) =>
        if a.typed && formatBad x.entry x.pa then .error (l.va, .perm 2)
        else do
          let (ls, t) ← s.relocate r a rest
          .ok ({ l with loc := .phys x.pa, ro := s.cacheable x, fmt := BitVec.ofNat 4 (leafFmt x.entry) } :: ls, t)
    | _ => do
      let (ls, s) ← s.relocate r a rest
      .ok (l :: ls, s)

/-- A reissued load waits on the fault record of its translation fault, and its group's splits are held until that is resolved;
with no record free it is tried again (R260). -/
def State.reissueFault (s : State) (c : Ctx) (a : Access) (f : FaultAt) : State :=
  let col := s.ctxCol c
  match (s.homeReads f).fileFault col (s.asid (s.ctxJob c)) (s.ctxJob c) (agentOf c) (s.ctxCore c) f with
  | none => s
  | some (i, t) =>
    let t := t.modRegs c fun r =>
      { r with outs := r.outs.map fun x => if x.id = a.id then { x with fault := some (col, i) } else x }
    match c with
    | .group u g _ => t.modGroup u g fun gr => { gr with splits := gr.splits.map fun x => { x with parkHeld := x.valid } }
    | _ => t

/-- A load returns. -/
def State.returnLoad (s : State) (c : Ctx) (a : Access) : State :=
  if a.reissue then
    match s.relocate (s.requester c) a a.lanes with
    | .error (_, .page f) => s.reissueFault c a f
    | .error (va, .perm sub) => s.postTrap c a 6 (accInfo sub va)
    | .ok (ls, t) => t.performLoad c { a with lanes := ls }
  else s.performLoad c a

/-- R145: load number `n` of a context returns. -/
def execLoadReturn (c : Ctx) (n : Nat) (s : State) : Host.Outcome State Fault Refusal :=
  .next (match s.dueAccess c n with
    | none => s
    | some a =>
      if a.kind ≠ .load then s
      else if a.peer then s.endPeer c a
      else if (s.team (ctxTeam c)).state ≠ .resident then s
      else s.returnLoad c a)

/-! ### Stores and `cctl` -/

/-- A store or `cctl` of a team that a fatal cause has freed is performed, in the order of its context (log 110). -/
def State.performLate (s : State) (c : Ctx) (n : Nat) : State :=
  let mine := s.late.filter fun x => x.ctx = c
  match mine.find? fun x => x.acc.id = n with
  | none => s
  | some x =>
    let before := (mine.takeWhile fun y => y.acc.id ≠ n).map (·.acc)
    if !s.mayPerform x.job before x.acc then s
    else
      let t := { s with late := s.late.filter fun y => y.acc.id ≠ n }
      if x.acc.kind = .maint then t.maintLanes x.agent x.acc else t.storeLanes x.agent x.acc

/-- R145, R158: store or cache-control number `n` of a context is performed, that of a team freed by a fatal cause among them
(R238). -/
def execStorePerformed (c : Ctx) (n : Nat) (s : State) : Host.Outcome State Fault Refusal :=
  .next (match s.dueAccess c n with
    | none => if (s.ctxRegs c).outs.any fun a => a.id = n then s else s.performLate c n
    | some a => match a.kind with
      | .store =>
        if a.peer then s.endPeer c a
        else (s.storeLanes (s.agent c) a).finishAccess c n
      | .maint => (s.maintLanes (s.agent c) a).finishAccess c n
      | _ => s)

/-! ### Atomics -/

/-- R147, R155, R159: atomic number `n` of a context is performed and returns. A trap of a saved sequencer waits until it
is resident. -/
def execAtomicReturn (c : Ctx) (n : Nat) (s : State) : Host.Outcome State Fault Refusal :=
  .next (match s.dueAccess c n with
    | none => s
    | some a =>
      if a.kind ≠ .atomic then s
      else if a.peer then s.endPeer c a
      else
        let bad := a.lanes.findSome? fun l => s.poisonIn (s.locPa l.loc) a.size
        let (xs, t) := s.atomicLanes (s.agent c) a a.lanes
        let saved := match c with
          | .seq u => decide ((s.team u).state = .saved)
          | _ => false
        if saved && bad.isSome then s else match bad with
        | some line => t.postTrap c a 8 (BitVec.ofNat 64 line)
        | none => (t.deliver c a.dst a.mask fun l => valueAt xs l).finishAccess c n)

/-! ### Traps before the next issue -/

/-- R159, R170: the oldest trap that is due in a group is taken. -/
def execMemoryPoison (c : Ctx) (s : State) : Host.Outcome State Fault Refusal :=
  .next (match c with
    | .group t g _ => if s.teamRuns t && !(s.group t g).posts.isEmpty then s.takePost t g else s
    | _ => s)

/-- R174: the overwrite trap at the next issue of a group. -/
def execOverwrite (team g : Nat) (s : State) : Host.Outcome State Fault Refusal :=
  .next (if !s.teamRuns team then s else match (s.group team g).nextSplit with
    | none => s
    | some p => s.takeOverwrite team g p)

end Sys2Proof.Machine
end

