-- ==== Sys2Proof/Machine/Transport.lean ====
section
/-! DEFINITION. Acknowledgement, retransmission, write-off, redirection and kept translations at the sending interface
(R166, R169, R170, R309 to R312, R320, R321). -/

namespace Sys2Proof.Machine

/-! ### Completion at the sender (R309) -/

/-- How a message ended, as its sender sees it. -/
structure MsgEnd where
  status : BitVec 4
  sub : BitVec 4
  bad : Bool
  lost : Bool
  data : BitVec 128
  deriving DecidableEq, Repr

/-- The end of a message written off. -/
def MsgEnd.off : MsgEnd := { status := stLOST, sub := 0, bad := false, lost := true, data := 0 }

/-- Result of a lane of a remote access. -/
def MsgEnd.lane (e : MsgEnd) : PeerResult :=
  if e.lost then .writtenOff else if e.status ≠ stOK then .refused e.sub else if e.bad then .poison else .ok

/-- A lane of an outstanding access is answered. -/
def answerLane (id lane : Nat) (e : MsgEnd) (r : Regs) : Regs :=
  let fix := fun (l : LaneAcc) => if l.lane = lane then { l with result := e.lane, value := e.data } else l
  { r with outs := r.outs.map fun a => if a.id = id then { a with lanes := a.lanes.map fix } else a }

/-- A message of a remote chunk of a copy ends: performed, refused, or written off, after which later chunks go on (R214). The
chunk ends with the last of its messages (log 111). -/
def State.endChunk (s : State) (core id k : Nat) (e : MsgEnd) : State :=
  match (s.core core).cq.find? fun c => c.id = id with
  | none => s
  | some c =>
    let t := if e.lost then s.modCopy core id fun c => c.failAt k stLOST false
      else if e.status ≠ stOK then s.modCopy core id fun c => c.failAt k stDENIED true
      else s
    if s.sent.any fun x => x.comp = .chunk core id k then t else t.chunkDone core id k (chunkCount c.evenRows)

/-- What the end of a message completes. -/
def State.complete (s : State) (comp : Completion) (e : MsgEnd) : State :=
  match comp with
  | .token c t => s.completeToken c t e.status 0
  | .access c id lane => s.modViewRegs c (answerLane id lane e)
  | .chunk core id k => s.endChunk core id k e
  | .gauge col r => if e.status ≠ stOK && !e.lost then s.lateFail col r else s

/-- The context that a completion is for. -/
def Completion.ctx : Completion → Option Ctx
  | .token c _ => some c
  | .access c _ _ => some c
  | _ => none

/-- The completion is held while its team is on the move (R297). -/
def State.compHeld (s : State) (comp : Completion) : Bool :=
  match comp.ctx with
  | none => false
  | some c => s.ctxTransit c

/-- A message is no longer waited for. -/
def State.dropSent (s : State) (n : Nat) : State :=
  { s with sent := s.sent.filter fun x => x.msg.id ≠ n, acks := s.acks.filter fun a => a.id ≠ n }

/-- The first answer to message `n` with the message it answers. -/
def State.answerTo (s : State) (n : Nat) (ok : AckKind → Bool) : Option (SentMsg × Ack) :=
  match s.sent.find? fun x => x.msg.id = n, s.acks.find? fun a => a.id = n && ok a.kind with
  | some x, some a => if s.compHeld x.comp then none else some (x, a)
  | _, _ => none

/-- `ldp` and `atomp` have no kept data. -/
def MsgClass.hasData : MsgClass → Bool
  | .ldp => true
  | .atomp => true
  | _ => false

/-- The end that a kept outcome is. DESIGN CHOICE (log 114): an acknowledgement that repeats a kept outcome, which carries no data,
ends `ldp` and `atomp` as R309 says that a PERFORMED answer does, whatever the outcome was, and logs no loss. -/
def keptEnd (cls : MsgClass) (status : BitVec 4) : MsgEnd :=
  if cls.hasData then MsgEnd.off else { status := status, sub := 0, bad := false, lost := false, data := 0 }

/-! ### Kept translations (R320, R321) -/

/-- `FWCTL`.USE of a job. -/
def State.usesXlate (s : State) (job : Nat) : Bool := bitOf (s.job job).fwctl.toNat 1

/-- An entry kept by the sending interface, of its 4,096; the oldest makes room. -/
def State.keepXlate (s : State) (x : XEntry) : State :=
  if !s.usesXlate x.job then s
  else
    let same := fun (y : XEntry) => y.tower = x.tower && y.node = x.node && y.job = x.job && y.page = x.page
    let rest := s.xlate.filter fun y => !same y
    let mine := rest.filter fun y => y.tower = x.tower
    let rest := if mine.length < 4096 then rest else match mine.head? with
      | none => rest
      | some o => rest.filter fun y => y ≠ o
    { s with xlate := rest ++ [x] }

/-- The entry for what a message first named: it leads where the message goes now, to page `target` there. -/
def entryFor (m : Msg) (target : Nat) (phys : Bool) : XEntry :=
  { tower := m.stwr.toNat, node := m.onode.toNat, job := m.job.toNat, page := m.ova / 65536, fwdNode := m.dnode.toNat,
    dtwr := m.dtwr, vpage := m.addr / 65536, target := target, phys := phys, pool := m.pool }

/-- The sender keeps the translation that came with an acknowledgement. -/
def State.learn (s : State) (m : Msg) (x : Option Nat) : State :=
  match x with
  | none => s
  | some p => if m.phys then s else s.keepXlate (entryFor m p true)

/-! ### Acknowledgements -/

/-- R309: the acknowledgement of message `n` completes its operation. -/
def execMessageAck (n : Nat) (s : State) : Host.Outcome State Fault Refusal :=
  let final := fun (k : AckKind) => match k with
    | .decided _ _ _ _ => true
    | .kept _ => true
    | _ => false
  .next (match s.answerTo n final with
    | none => s
    | some (x, a) =>
      let t := (s.dropSent n).learn x.msg a.xlate
      match a.kind with
      | .decided st sub bad data => t.complete x.comp { status := st, sub := sub, bad := bad, lost := false, data := data }
      | .kept st => t.complete x.comp (keptEnd x.msg.cls st)
      | _ => s)

/-- R309: 50 µs without an acknowledgement; the same message is sent once more, on another port. -/
def execRetransmit (n : Nat) (s : State) : Host.Outcome State Fault Refusal :=
  .next (match s.sent.find? fun x => x.msg.id = n with
    | none => s
    | some x =>
      if x.resent || s.now < x.first + 50000 then s
      else
        let port := s.pickPort x.msg x.port
        let sent := s.sent.map fun y => if y.msg.id = n then { y with resent := true, port := port } else y
        { s with sent := sent, inbound := if x.msg.dnode = s.node then s.inbound ++ [x.msg] else s.inbound }.transmit port 0 x.msg)

/-- Every working port toward a message's destination. -/
def State.allPorts (s : State) (m : Msg) : List Nat :=
  if m.dnode = s.node then [] else if s.samePod m.dnode then (upto 32).filter s.linkUp else (span 32 4).filter s.linkUp

/-- R309: WRITEOFF after 100 µs and every 50 µs from then on, on every working port. -/
def execWriteoff (n : Nat) (s : State) : Host.Outcome State Fault Refusal :=
  .next (match s.sent.find? fun x => x.msg.id = n with
    | none => s
    | some x =>
      if s.now < x.first + 100000 || (x.writeoffs ≠ 0 && s.now < x.lastWriteoff + 50000) then s
      else
        let sent := s.sent.map fun y =>
          if y.msg.id = n then { y with writeoffs := y.writeoffs + 1, lastWriteoff := s.now } else y
        let w := { x.msg with writeoff := true }
        let t := { s with sent := sent, inbound := if x.msg.dnode = s.node then s.inbound ++ [w] else s.inbound }
        (s.allPorts x.msg).foldl (fun t p => t.transmit (some p) 2 x.msg) t)

/-- R311: a WRITEOFF for message `n` reaches the destination. -/
def execWriteoffArrival (n : Nat) (s : State) : Host.Outcome State Fault Refusal :=
  .next (match s.inbound.find? fun m => m.id = n && m.writeoff with
    | none => s
    | some w =>
      let t := s.dropMsg w
      match t.outcomeOf w with
      | some o => match o.status with
        | none => t.answer w .accepted none
        | some st => t.answer w (.performed st) none
      | none =>
        if t.tooOld w then t
        else ((t.dropMsg { w with writeoff := false }).keepOutcome w none none).answer w .accepted none)

/-! ### The loss log (R312) -/

/-- ADDR of a loss record: the target address, or capability bits [93:78] and [77:68]. -/
def lossAddr (m : Msg) : Nat :=
  match m.cls with
  | .stp => m.addr % 2 ^ 57
  | .atomp => m.addr % 2 ^ 57
  | .chunk => m.addr % 2 ^ 57
  | .ldp => m.addr % 2 ^ 57
  | _ => bitsOf m.cap.toNat 68 26

/-- A loss record. -/
def lossRec (m : Msg) (peer done : Bool) (cyc : Nat) : LossRec :=
  { w0 := BitVec.ofNat 64 (lossAddr m)
    w1 := BitVec.ofNat 64 (m.dnode.toNat * 2 ^ 44 + m.dtwr.toNat * 2 ^ 41 + b2n peer * 2 ^ 40 + b2n done * 2 ^ 39
      + m.cls.code * 2 ^ 35 + m.job.toNat * 2 ^ 24)
    w2 := BitVec.ofNat 64 (m.seqNo.toNat * 2 ^ 32 + cyc % 2 ^ 32) }

/-- A write-off logged at the sending interface; a full log drops it and sets OVF. -/
def State.logLoss (s : State) (m : Msg) (peer done : Bool) : State :=
  let cyc := (s.cyc (firstCol m.stwr.toNat)).toNat
  s.modTower m.stwr.toNat fun t =>
    if 64 ≤ t.losses.length then { t with lossOvf := true } else { t with losses := t.losses ++ [lossRec m peer done cyc] }

/-- LOST of a message's job at its sending tower. -/
def State.countLost (s : State) (m : Msg) : State :=
  if m.counted then s.modTowerJob m.stwr.toNat m.job.toNat fun c => { c with lost := c.lost + 1 } else s

/-- R309: an answer to a WRITEOFF of message `n`. -/
def execWriteoffAnswer (n : Nat) (s : State) : Host.Outcome State Fault Refusal :=
  let ok := fun (k : AckKind) => match k with
    | .accepted => true
    | .performed _ => true
    | _ => false
  .next (match s.answerTo n ok with
    | none => s
    | some (x, a) =>
      let t := s.dropSent n
      match a.kind with
      | .performed st => (t.logLoss x.msg false true).complete x.comp (keptEnd x.msg.cls st)
      | _ => ((t.countLost x.msg).logLoss x.msg false false).complete x.comp MsgEnd.off)

/-- A PEERDOWN record (R310). -/
def peerdownRec (m : Msg) (cyc : Nat) : BitVec 256 :=
  BitVec.ofNat 256 (cyc % 2 ^ 64 * 2 ^ 192 + lossAddr m * 2 ^ 128 + m.seqNo.toNat * 2 ^ 96 + m.dnode.toNat * 2 ^ 44
    + m.dtwr.toNat * 2 ^ 41 + m.cls.code * 2 ^ 32 + m.job.toNat * 2 ^ 8 + 0x41)

/-- R309, R310: 1 ms without an answer. -/
def execPeerWriteoff (n : Nat) (s : State) : Host.Outcome State Fault Refusal :=
  .next (match s.sent.find? fun x => x.msg.id = n with
    | none => s
    | some x =>
      if s.now < x.first + 1000000 || s.compHeld x.comp then s
      else
        let m := x.msg
        let tw := m.stwr.toNat
        let k := sendStream m
        let quiet := match tabFind k (s.tower tw).peerdown with
          | none => false
          | some at_ => s.now < at_ + 1000000
        let t := ((s.dropSent n).countLost m).logLoss m true false
        let t := if quiet then t else
          (t.pushHost (firstCol tw) (peerdownRec m (t.cyc (firstCol tw)).toNat)).modTower tw fun w =>
            { w with peerdown := tabSet k s.now w.peerdown }
        t.complete x.comp MsgEnd.off)

/-! ### Redirection (R169, R320, R321) -/

/-- A message sent for what `x` waits for, with a number of the stream it takes now and no count. -/
def State.sendAgain (s : State) (x : SentMsg) (m : Msg) : State :=
  let k := sendStream m
  let m := { m with id := s.fresh, seqNo := tabGet 0 k s.streams }
  let port := s.pickPort m none
  { s with
    fresh := s.fresh + 1
    streams := tabSet k (m.seqNo + 1) s.streams
    sent := s.sent ++ [{ x with msg := m, port := port, first := s.now, resent := false, writeoffs := 0, lastWriteoff := 0 }]
    inbound := if m.dnode = s.node then s.inbound ++ [m] else s.inbound }.transmit port 0 m

/-- The same message sent again at another place. -/
def State.resend (s : State) (n : Nat) (x : SentMsg) (m : Msg) : State := (s.dropSent n).sendAgain x m

/-- An earlier request for the same line is still out: a later one is sent again only after it, so that their order stays
(R167; log 99). -/
def State.earlierOut (s : State) (x : SentMsg) : Bool :=
  (s.sent.takeWhile fun y => y.msg.id ≠ x.msg.id).any fun y =>
    y.msg.stwr = x.msg.stwr && y.msg.onode = x.msg.onode && y.msg.tag = x.msg.tag && 3 ≤ y.msg.cls.code && y.msg.cls.code ≠ 5

/-- Destination tower of a request by an address (R308). -/
def requestTower (pool : Bool) (addr : Nat) : BitVec 3 :=
  BitVec.ofNat 3 (if pool then (if addr < 2 ^ 51 then 0 else 7) else bitsOf addr 16 3)

/-- Pieces of a chunk moved with its address. -/
def movePieces (src dst : Nat) : List DWord → List DWord
  | a :: n :: rest => BitVec.ofNat 64 (a.toNat + dst - src) :: n :: movePieces src dst rest
  | xs => xs

/-- The message of some pieces of a copy chunk. -/
def Msg.ofPieces (m : Msg) (ps : List (Nat × List Byte)) : Msg :=
  let first := (ps.headD (0, [])).1
  { m with
    addr := first, ova := first + m.ova - m.addr, tag := bitsOf first 7 6,
    lanes := ps.flatMap fun p => [BitVec.ofNat 64 p.1, BitVec.ofNat 64 p.2.length],
    bytes := ps.flatMap (·.2), dtwr := requestTower m.pool first }

/-- A copy chunk divided by a forward entry that its piece at `va` met: what lies in that page, and what does not. -/
def Msg.divide (m : Msg) (va : Nat) : Msg × Option Msg :=
  let (goes, stays) := (chunkPieces m.lanes m.bytes).partition fun p => p.1 / 65536 = va / 65536
  (m.ofPieces goes, if stays.isEmpty then none else some { m.ofPieces stays with part := true })

/-- A fifth redirect refuses a message; its sender's interface decides that, and counts it (R166, R170; log 105). -/
def State.refuseRedirect (s : State) (n : Nat) (x : SentMsg) : State :=
  let m := x.msg
  let t := s.dropSent n
  let t := if m.counted then t.countCon m.stwr.toNat m.job.toNat else t
  t.complete x.comp { status := stDENIED, sub := 5, bad := false, lost := false, data := 0 }

/-- A message as it is sent to where a forward entry leads. -/
def Msg.forwarded (m : Msg) (node : BitVec 20) (space : Bool) (addr : Nat) : Msg :=
  { m with
    dnode := node, addr := addr, phys := space, pool := space, kept := false, redirects := m.redirects + 1,
    lanes := if m.cls = .chunk then movePieces m.addr addr m.lanes else m.lanes,
    dtwr := requestTower space addr }

/-- R321: message `n` is replayed at the node that a forward entry names; a fifth redirect refuses it. Of a copy chunk only the
pieces in the forwarded page go there, and the others are sent again where they were (R212; log 111). -/
def execRedirect (n : Nat) (s : State) : Host.Outcome State Fault Refusal :=
  let ok := fun (k : AckKind) => match k with
    | .redirect _ _ _ => true
    | _ => false
  .next (match s.answerTo n ok with
    | none => s
    | some (x, a) => match a.kind with
      | .redirect node space addr =>
        if s.earlierOut x then s
        else if 4 ≤ x.msg.redirects then s.refuseRedirect n x
        else
          let parts := if x.msg.cls = .chunk then x.msg.divide a.va else (x.msg, none)
          let m := parts.1.forwarded node space addr
          let kept := if a.xlate.isSome then s.keepXlate (entryFor m (addr / 65536) space) else s
          let t := kept.resend n x m
          match parts.2 with
          | none => t
          | some rest => t.sendAgain x rest
      | _ => s)

/-- R320: the source drops its kept entry and sends message `n` again by virtual address. -/
def execRetranslate (n : Nat) (s : State) : Host.Outcome State Fault Refusal :=
  .next (match s.answerTo n (fun k => k = .retranslate) with
    | none => s
    | some (x, _) =>
      if s.earlierOut x then s
      else
        let m := x.msg
        let mine := fun (y : XEntry) => y.tower = m.stwr.toNat && y.node = m.onode.toNat && y.job = m.job.toNat && y.page = m.ova / 65536
        let t := { s with xlate := s.xlate.filter fun y => !mine y }
        let lanes := if m.cls = .chunk then movePieces m.addr m.ova m.lanes else m.lanes
        t.resend n x { m with dnode := m.onode, addr := m.ova, phys := false, pool := false, kept := false, lanes := lanes,
                              dtwr := requestTower false m.ova })

/-- An entry that an invalidation names: of the job, leading to its target by the page, or by any page. -/
def Inval.names (v : Inval) (y : XEntry) : Bool :=
  let at_ := fun (node page : Nat) => node = v.target && (v.page.isNone || v.page = some page)
  y.job = v.job && (at_ y.node y.page || at_ y.fwdNode y.vpage)

/-- Requests sent through an entry that an invalidation names are not acknowledged. One that a forwarding led to the target
is taken for such a request. -/
def State.throughEntry (s : State) (v : Inval) : Bool :=
  s.sent.any fun x => x.msg.kept && x.msg.job.toNat = v.job &&
    ((x.msg.onode.toNat = v.target && (v.page.isNone || v.page = some (x.msg.ova / 65536)))
      || (x.msg.dnode.toNat = v.target && x.msg.dnode ≠ x.msg.onode))

/-- Packages next to this one in a job's tree. -/
def State.treeOf (s : State) (job : Nat) : List Nat :=
  let kids := (upto (min 16 (bitsOf (s.job job).wvkids.toNat 0 5))).map fun i => (tabGet 0 i (s.job job).wvkid).toNat % 2 ^ 20
  (if bitOf (s.job job).wvctl.toNat 62 then [] else [bitsOf (s.job job).wvctl.toNat 32 20]) ++ kids

/-- An invalidation passed on to the other neighbours in the tree. -/
def State.floodFrom (s : State) (v : Inval) : List Inval :=
  ((s.treeOf v.job).filter (· ≠ v.node)).map fun n => { v with out := true, node := n, acked := false }

/-- R320: invalidation number `n` that has arrived: the kept entries go at once, and one for the whole tree is passed on. It is
acknowledged, and leaves, when no request sent through the entries is out and those it was passed on to have answered. -/
def execTranslationInvalidation (n : Nat) (s : State) : Host.Outcome State Fault Refusal :=
  .next (match s.invals[n]? with
    | none => s
    | some v =>
      if v.out then s
      else
        let t := { s with xlate := s.xlate.filter fun y => !v.names y }
        let own := fun (w : Inval) =>
          w.out && w.node = s.node.toNat && w.target = v.target && w.job = v.job && w.page = v.page
        if v.flood then
          { t with invals := setAt n { v with flood := false, acked := true } t.invals ++ s.floodFrom v }
        else if t.throughEntry v || (v.acked && t.invals.any fun w => w.out && w.flood && w.target = v.target && w.job = v.job) then t
        else { t with invals := (delAt n t.invals).filter fun w => !own w })

end Sys2Proof.Machine
end

