-- ==== Sys2Proof/Machine/System.lean ====
section
/-! DEFINITION. Special registers, return from traps, waiting and stopping of a host core, and its control of
translations, teams and memory (R40, R231, R239 to R243). -/

namespace Sys2Proof.Machine

/-! ### Special registers (R40, R231) -/

/-- A selector is marked for a kind of context. -/
def selectorIn (kind : Kind) (n : Nat) : Bool :=
  match kind with
  | .group => true
  | .seq => !([0x0C, 0x20, 0x21, 0x22, 0x23, 0x2A, 0x2B].contains n)
  | .host => false

/-- Selectors marked RW or W1C. -/
def selectorWritable (n : Nat) : Bool := n = 0x22 || n = 0x23 || n = 0x26

/-- A token as `TKSn` shows it. -/
def Token.word (t : Token) : Nat := t.count.toNat + 2 ^ 12 * t.status.toNat + 2 ^ 32 * t.info.toNat

/-- Registers of the context itself. -/
def Regs.special (r : Regs) (n : Nat) : Nat :=
  match n with
  | 0x24 => r.ldc
  | 0x25 => r.stc
  | 0x26 => r.stat.toNat
  | 0x27 => r.trap.tcause.toNat
  | 0x28 => r.trap.tinfo.toNat
  | 0x29 => r.trap.epc.toNat
  | 0x2A => r.trap.emask.toNat
  | 0x2C => r.trap.respc.toNat
  | _ => (tabGet Token.zero (n - 0x30) r.tok).word

/-- Index of the group that issues. -/
def ctxGroup : Ctx → Nat
  | .group _ g _ => g
  | _ => 0

/-- The value of a special register as the issuing context reads it. -/
def State.special (s : State) (n : Nat) : Nat :=
  let tm := s.team (ctxTeam s.cur)
  match n with
  | 0x00 => s.node.toNat
  | 0x01 => towerOfCore tm.core
  | 0x02 => colOfCore tm.core % 16
  | 0x03 => tm.core % 8
  | 0x04 => lrJob tm.launch
  | 0x08 => tm.x.toNat
  | 0x09 => tm.y.toNat
  | 0x0A => tm.z.toNat
  | 0x0B => tm.rank
  | 0x0C => ctxGroup s.cur
  | 0x10 => tm.argp.toNat
  | 0x11 => 2 ^ 21 * tm.rank
  | 0x12 => lrVault tm.launch
  | 0x14 => (s.cyc (colOfCore tm.core)).toNat
  | 0x18 => tm.depth
  | 0x19 => (s.col (colOfCore tm.core)).gov.level.toNat
  | 0x1A => b2n (lrWindow tm.launch)
  | 0x20 => s.myGroup.part.toNat
  | 0x21 => s.wb
  | 0x22 => s.myGroup.awb.toNat
  | 0x23 => s.myGroup.awl.toNat
  | 0x2B =>
    let valid := fun (p : Nat) => (s.myGroup.splits.getD p Split.none).valid
    ctxSplit s.cur + 2 ^ 4 * sumNat ((upto 4).map fun p => 2 ^ p * b2n (valid p))
  | n => (s.ctxRegs s.cur).special n

/-- The operand of `movs`: 64 bits in a pair, a `k` or `s` register or a mailbox, else 32. -/
def State.movsOpd (s : State) (d : RegNum) (x : Bool) (role : Role) : Opd :=
  { reg := d, role := role, words := if x || s.kind != .group || narrowFree d then 2 else 1, set := .any }

/-- What `movs` checks before its operand: the context, the selector for it, and `.d` only on a `v` register. -/
def State.movsCheck (s : State) (i : Instr) (d : RegNum) (x : Bool) (n : Nat) : Except Stop Unit := do
  s.needKind i [.group, .seq]
  let isV := match regClass s.kind d with
    | .v _ => true
    | _ => false
  if !selectorIn s.kind n || (x && !isV) then illegalOperand 0 else .ok ()

/-- R231: read of a special register. -/
def execMovs (d : RegNum) (x : Bool) (sel : BitVec 7) (s : State) :=
  conclude s (do
    s.movsCheck (.movs d x sel) d x sel.toNat
    let o := s.movsOpd d x .dst
    let (_, t) ← s.operands [o]
    .ok (t.writeOpd o fun _ => BitVec.ofNat 128 (s.special sel.toNat)).advance)

/-- A special register written. -/
def State.setSpecial (s : State) (n : Nat) (v : DWord) : State :=
  match n with
  | 0x22 => s.modMyGroup fun g => { g with awb := v.setWidth 12 }
  | 0x23 => s.modMyGroup fun g => { g with awl := v.setWidth 12 }
  | 0x26 => s.modRegs s.cur fun r => { r with stat := statWrite r.stat (v.setWidth 32) }
  | _ => s

/-- R231: write of a special register, with the lowest active lane's value. DESIGN CHOICE (log 116): a selector that cannot be
written (R40) is found before the register (R19). -/
def execMovsWrite (d : RegNum) (x : Bool) (sel : BitVec 7) (s : State) :=
  conclude s (do
    s.movsCheck (.movsWrite d x sel) d x sel.toNat
    if !selectorWritable sel.toNat then illegalOperand 0 else
    let (xs, t) ← s.operands [s.movsOpd d x .src]
    .ok (t.setSpecial sel.toNat ((nthLanes xs 0 t.low).setWidth 64)).advance)

/-! ### Return, waiting and stopping (R239, R242) -/

/-- R239. -/
def execEret (s : State) :=
  conclude s (match s.cur with
    | .host c => do
      s.needHost .eret 1
      .ok (s.modHost c HostCore.eret)
    | c =>
      let tr := (s.ctxRegs c).trap
      let mismatch := match c with
        | .group t g p => (s.split t g p).mask != tr.emask
        | _ => false
      if !tr.tcause.getLsbD 31 then illegalOperand 0
      else if mismatch then .error (.trap 16 (doubleInfo 0 tr.tcause) 0)
      else .ok ((s.eretOf c).setWait c .none))

/-- R242: the host core waits for an enabled interrupt. -/
def execWfi (s : State) :=
  conclude s (do
    s.needHost .wfi 1
    .ok (match s.cur with
      | .host c => s.advance.modHost c fun h => { h with wfi := !s.hostPending c }
      | _ => s))

/-- R242: the host core issues nothing until its column is reset. -/
def execHalt (s : State) :=
  conclude s (do
    s.needHost .halt 3
    .ok (match s.cur with
      | .host c => s.advance.modHost c fun h => { h with stopped := true }
      | _ => s))

/-! ### `tlbi` (R240) -/

/-- A cached entry is to be removed. -/
def TlbEntry.hit (kind va asid : Nat) (t : TlbEntry) : Bool :=
  (kind % 2 = 0 || t.asid.toNat = asid) && (kind < 2 || t.covers va)

/-- An outstanding access may have been translated through a removed entry: its address lies in the largest page around
`va`. -/
def Access.through (kind va : Nat) (a : Access) : Bool :=
  !a.reissue && a.lanes.any fun l => match l.loc with
    | .phys _ => kind < 2 || l.va / 2 ^ 27 = va / 2 ^ 27
    | _ => false

/-- An NVMe command whose buffer may have been translated through a removed entry, and which has not completed. -/
def NvSlot.through (kind va lba : Nat) (k : NvSlot) : Bool :=
  let page := fun (a : Nat) => a / 2 ^ 27
  k.op ≠ 0 && k.result.isNone && (kind < 2 || (page k.va ≤ page va && page va ≤ page (k.va + k.blocks * lba - 1)))

/-- Some access translated through a removed entry has not completed. -/
def State.accessesThrough (s : State) (kind va asid : Nat) : Bool :=
  let named := fun (job : Nat) => kind % 2 = 0 || (s.asid job).toNat = asid
  (s.teams.any fun e => named (lrJob e.2.launch) && e.2.contexts.any fun r => r.outs.any (Access.through kind va))
    || (s.late.any fun x => named x.job && x.acc.through kind va)
    || s.nvqs.any fun q => named q.2.job && q.2.slots.any fun k => k.2.through kind va q.2.lba

/-- A translation was given to a source that `tlbi` names. -/
def State.sharerHit (s : State) (kind va asid : Nat) (x : Sharer) : Bool :=
  (kind % 2 = 0 || (s.asid x.job).toNat = asid) && (kind < 2 || 65536 * x.page / 2 ^ x.shift = va / 2 ^ x.shift)

/-- Invalidations for a translation that was given away; one to this package itself arrives here. -/
def State.invalsFor (s : State) (x : Sharer) : List Inval :=
  let v : Inval :=
    { out := true, node := x.node, target := s.node.toNat, job := x.job, page := some x.page, flood := false, acked := false }
  v :: (if x.node = s.node.toNat then [{ v with out := false }] else [])

/-- Invalidations of a job whose sharer list is full: they go to every package of its tree, from neighbour to neighbour,
and to this one (R320; log 76). -/
def State.treeInvals (s : State) (job : Nat) : List Inval :=
  let v : Inval :=
    { out := true, node := s.node.toNat, target := s.node.toNat, job := job, page := none, flood := true, acked := false }
  { v with out := false, flood := false } :: s.floodFrom v

/-- Jobs with a full sharer list that `tlbi` may concern. -/
def State.fullJobs (s : State) (kind asid : Nat) : List Nat :=
  ((s.sharers.filter fun x => 512 ≤ (s.sharerNodes x.job x.tower).length
    && (kind % 2 = 0 || (s.asid x.job).toNat = asid)).map (·.job)).eraseDups

/-- Steps 2, 3 and 5: matching entries go from every cache of the package, and every sharer is told. -/
def State.tlbiStart (s : State) (kind va asid : Nat) : State :=
  let told := s.sharers.filter (s.sharerHit kind va asid)
  let vs := told.flatMap s.invalsFor ++ (s.fullJobs kind asid).flatMap s.treeInvals
  { s with
    tlb := s.tlb.filter fun t => !t.hit kind va asid
    sharers := s.sharers.filter fun x => !s.sharerHit kind va asid x
    invals := vs.foldl (fun l v => if l.contains v then l else l ++ [v]) s.invals }

/-- Steps 4 and 5 are done: no access through a removed entry, and no invalidation unanswered. -/
def State.tlbiDone (s : State) (kind va asid : Nat) : Bool :=
  !s.accessesThrough kind va asid && !(s.invals.any fun v => v.out)

/-- What the issuing host core has begun. -/
def State.pendingHere (s : State) : Option Pending :=
  match s.cur with
  | .host c => (s.host c).pending
  | _ => none

/-- The issuing host core has begun an instruction, which it tries again, or has passed it. -/
def State.setPending (s : State) (p : Option Pending) : State :=
  match s.cur with
  | .host c => s.modHost c fun h => { h with pending := p }
  | _ => s

/-- R240: the context passes when no old translation can be used. -/
def execTlbi (a b : RegNum) (k : BitVec 4) (s : State) :=
  conclude s (do
    s.needHost (.tlbi a b k) 1
    let kind := k.toNat
    let (xs, t) ← s.operands ((if 2 ≤ kind then [srcU a] else []) ++ (if kind % 2 = 1 then [srcU b] else []))
    let va := if 2 ≤ kind then (nthLanes xs 0 0).toNat % 2 ^ 57 else 0
    let asid := if kind % 2 = 1 then (nthLanes xs (kind / 2) 0).toNat % 2 ^ 16 else 0
    let t := if t.pendingHere = some .tlbi then t else t.tlbiStart kind va asid
    if t.tlbiDone kind va asid then .ok (t.advance.setPending none)
    else .ok ((t.setPending (some .tlbi)).setWait t.cur (.resource .any)))

/-! ### Pre-emption (R241) -/

/-- The launch record of a grid by its handle, and how many of its teams have not been placed. -/
def State.gridOf (s : State) (h : DWord) : Option (BitVec 512 × Nat) :=
  let col := s.col (handleCol h)
  match s.part h with
  | some p => some (p.launch, lrTeams p.launch - p.next)
  | none =>
    let open_ := col.batches.flatMap fun b => if b.2.closed then [] else b.2.records
    match open_.find? fun r => r.1 = h with
    | some r => some (r.2, lrTeams r.2)
    | none => (col.lines.find? fun l => l.2.handle = h).map fun l => (l.2.launch, lrTeams l.2.launch)

/-- Clusters of a list of team keys, each once. -/
def State.clustersOf (s : State) (ts : List Nat) : List Nat := ts.foldl (fun l t => insertNat (s.team t).cluster l) []

/-- Clusters that a target names, if it exists: of a team, of a grid, or with a team on a core. -/
def State.targets (s : State) (kind x : Nat) : Option (List Nat) :=
  if kind = 0 then (s.findTeam (bitsOf x 16 10) (bitsOf x 0 16)).map fun t => [(s.team t).cluster]
  else if kind = 1 then
    (s.gridOf (BitVec.ofNat 64 x)).map fun _ =>
      s.clustersOf ((s.teams.filter fun e => e.2.grid = BitVec.ofNat 64 x).map (·.1))
  else some (s.clustersOf (s.teamsOn (· = bitsOf x 0 10)))

/-- A pre-emption of a target could not be saved: a team has no record, or unplaced teams would have none (R280). -/
def State.unsavable (s : State) (kind x : Nat) (cs : List Nat) : Bool :=
  ((cs.flatMap s.clusterTeams).any fun t => (s.team t).recPa = 0)
    || (kind = 1 && match s.gridOf (BitVec.ofNat 64 x) with
      | none => false
      | some (l, n) => n ≠ 0 && !s.hasPool (lrJob l))

/-- A pre-emption of the clusters is in progress: held, and not saved yet. -/
def State.beingHeld (s : State) (cs : List Nat) : Bool :=
  (cs.flatMap s.clusterTeams).any fun t => (s.team t).held && (s.team t).state ≠ .saved

/-- Placement held back: of a grid's teams, or on a core. -/
def State.holdTarget (s : State) (kind x : Nat) (cs : List Nat) : State :=
  if kind = 1 then
    let h := BitVec.ofNat 64 x
    s.modCol (handleCol h) fun col => if col.heldGrids.contains h then col else { col with heldGrids := col.heldGrids ++ [h] }
  else if kind = 2 then
    let core := bitsOf x 0 10
    let s := s.modCore core fun c => { c with heldPlacement := true }
    (cs.flatMap s.clusterTeams).foldl (fun s t => s.modTeam t fun tm => { tm with heldCores := insertNat core tm.heldCores }) s
  else s

/-- Every team halts with REASON 2 (R271, R288). -/
def State.preemptStart (s : State) (kind x : Nat) (cs : List Nat) : State :=
  let col := s.ctxCol s.cur
  let ts := (cs.flatMap s.clusterTeams).filter fun t => (s.team t).state ≠ .saved
  let n := (ts.filter fun t => (s.team t).state ≠ .saving).length
  let named := if kind = 0 then (s.findTeam (bitsOf x 16 10) (bitsOf x 0 16)).map fun t => (t, (s.team t).gen) else none
  let s := (cs.foldl (fun s c => s.haltCluster c 2 (some col)) s).holdTarget kind x cs
  s.setPending (some (.halt named ts n))

/-- A team has halted, or is gone. -/
def State.hasHalted (s : State) (t : Nat) : Bool :=
  match tabFind t s.teams with
  | none => true
  | some tm => tm.state = .saving || tm.state = .saved

/-- The answer of `preempt` and `resume`: count and status. -/
def teamAnswer (count : Nat) (status : BitVec 4) : BitVec 128 := BitVec.ofNat 128 (2 ^ 32 * (count % 2 ^ 16) + status.toNat)

/-- The result of `preempt` written, once every team has halted; until then it is tried again. -/
def State.preemptPass (s : State) (d : RegNum) : State :=
  match s.pendingHere with
  | some (.halt named ts n) =>
    if ts.all s.hasHalted then
      let gone := match named with
        | none => false
        | some (t, g) => match tabFind t s.teams with
          | none => true
          | some tm => tm.gen != g
      ((s.writeOpd (dstU d) fun _ => if gone then teamAnswer 0 stSTALE else teamAnswer n stOK).setPending none).advance
    else s.setWait s.cur (.resource .any)
  | _ => s

/-- R241: halts and holds the clusters of a team, grid or core. -/
def execPreempt (d a : RegNum) (k : BitVec 2) (s : State) :=
  conclude s (do
    s.needHost (.preempt d a k) 1
    let (xs, t) ← s.operands [dstU d, srcU a]
    let x := (nthLanes xs 0 0).toNat % 2 ^ 64
    let kind := k.toNat
    let answer := fun (st : BitVec 4) => (Except.ok (t.writeOpd (dstU d) fun _ => teamAnswer 0 st).advance : Res)
    match t.pendingHere with
    | some (.halt _ _ _) => .ok (t.preemptPass d)
    | _ => match (if x < 2 ^ 62 then t.targets kind x else none) with
      | none => answer stSTALE
      | some cs =>
        if t.unsavable kind x cs then answer stDENIED
        else if t.beingHeld cs then answer stBUSY
        else .ok ((t.preemptStart kind x cs).preemptPass d))

/-- Clusters that a `resume` releases: held ones of the target. -/
def State.released (s : State) (kind x : Nat) (cs : List Nat) : List Nat :=
  if kind = 2 then
    s.clustersOf ((s.teams.filter fun e => e.2.held && e.2.heldCores.contains (bitsOf x 0 10)).map (·.1))
  else cs.filter fun c => (s.clusterTeams c).any fun t => (s.team t).held

/-- A cluster is held no longer, and is queued for placement once it is saved. -/
def State.releaseCluster (s : State) (c : Nat) : State :=
  let free := fun (tm : Team) => { tm with held := false, heldCores := [], wake := true }
  ((s.clusterTeams c).foldl (fun s t => s.modView t false free) s).evalWake c

/-- Placement open again, with the number of teams of a grid that it frees. -/
def State.openTarget (s : State) (kind x : Nat) : Option (Nat × State) :=
  if kind = 1 then
    let h := BitVec.ofNat 64 x
    if (s.col (handleCol h)).heldGrids.contains h then
      some (match s.gridOf h with
        | none => 0
        | some g => g.2, s.modCol (handleCol h) fun col => { col with heldGrids := col.heldGrids.filter (· ≠ h) })
    else none
  else if kind = 2 && (s.core (bitsOf x 0 10)).heldPlacement then
    some (0, s.modCore (bitsOf x 0 10) fun c => { c with heldPlacement := false })
  else none

/-- R241: releases held clusters and placement. -/
def execResume (d a : RegNum) (s : State) :=
  conclude s (do
    s.needHost (.resume d a) 1
    let (xs, t) ← s.operands [dstU d, srcU a]
    let y := (nthLanes xs 0 0).toNat % 2 ^ 64
    let kind := y / 2 ^ 62
    let x := y % 2 ^ 62
    if kind = 3 then illegalOperand 0 else
    let answer := fun (u : State) (n : Nat) (st : BitVec 4) => (Except.ok (u.writeOpd (dstU d) fun _ => teamAnswer n st).advance : Res)
    match t.targets kind x with
    | none => answer t 0 stSTALE
    | some cs =>
      let rs := t.released kind x cs
      let opened := t.openTarget kind x
      if rs.isEmpty && opened.isNone then answer t 0 stDENIED
      else
        let (n, u) := opened.getD (0, t)
        answer (rs.foldl State.releaseCluster u) (n + (rs.flatMap t.clusterTeams).length) stOK)

/-! ### Memory (R243, R252) -/

/-- The range that two registers name, or the trap. -/
def State.hbmRange (s : State) (a n : Nat) : Except Stop Unit :=
  let gone := (upto 16).any fun k =>
    (s.stack k).range31gone && a < 2 ^ 36 * (k + 1) && 2 ^ 36 * k + 2 ^ 31 * 31 < a + n
  if a % 65536 ≠ 0 || n % 65536 ≠ 0 || n = 0 || 2 ^ 40 < a + n || gone then illegalOperand 0 else .ok ()

/-- Numbers of a table in a range removed. -/
def tabCut {α : Type} (lo hi : Nat) (t : Tab α) : Tab α := t.filter fun e => !(lo ≤ e.1 && e.1 < hi)

/-- No cache of the package holds a line of a range of physical addresses. -/
def State.dropRange (s : State) (a n : Nat) : State :=
  let lo := a / 128
  let hi := (a + n) / 128
  { s with
    cores := tabMap (fun _ (c : Core) => { c with l1 := tabCut lo hi c.l1, roCache := tabCut lo hi c.roCache }) s.cores
    cols := tabMap (fun _ (c : Column) =>
      { c with
        host := { c.host with l1 := tabCut lo hi c.host.l1 }
        coh := { lines := tabCut lo hi c.coh.lines, data := c.coh.data.filter fun n => !(lo ≤ n && n < hi), snoop := tabCut lo hi c.coh.snoop } }) s.cols
    directory := tabCut lo hi s.directory }

/-- A region's record is released in every tower that homes it. -/
def State.releaseRegion (s : State) (pa : Nat) : State :=
  (upto 8).foldl (fun s t =>
    if (s.homeSlice t pa).isSome then s.physWrite (s.regionEntry t pa) (toBytes 4 0) else s) s

/-- First addresses of the 64 KiB granules of a range. -/
def granules (a n : Nat) : List Nat := (upto (n / 65536)).map fun i => a + 65536 * i

/-- Operands of the three forms: the range, checked. -/
def State.rangeOf (s : State) (i : Instr) (a b : RegNum) : Except Stop (Nat × Nat × State) := do
  s.needHost i 1
  let (xs, t) ← s.operands [srcU a, srcU b]
  let x := (nthLanes xs 0 0).toNat % 2 ^ 64
  let n := (nthLanes xs 1 0).toNat % 2 ^ 64
  t.hbmRange x n
  .ok (x, n, t)

/-- No host core's instruction cache holds a line of a range. -/
def State.dropFetched (s : State) (a n : Nat) : State :=
  { s with cols := tabMap (fun _ (c : Column) =>
      { c with host := { c.host with icache := tabCut (a / 128) ((a + n) / 128) c.host.icache } }) s.cols }

/-- A granule in use is freed: its cached copies and its homing go, and its bytes. Poison of its lines stays until `mused` (R345;
log 78). A freed one stays as it is. -/
def State.free (s : State) (g : Nat) : State :=
  if s.isFreed g then s
  else
    let t := ((s.dropRange g 65536).dropFetched g 65536).releaseRegion g
    { t with freed := insertNat (g / 65536) t.freed, mem := memZero t.mem g 65536 }

/-- R243: the granules of a range are freed. -/
def execMfree (a b : RegNum) (s : State) :=
  conclude s (do
    let (x, n, t) ← s.rangeOf (.mfree a b) a b
    .ok ((granules x n).foldl State.free t).advance)

/-- A freed granule is in use again and holds zeros. -/
def State.reuse (s : State) (g : Nat) : State :=
  if !s.isFreed g then s
  else { s with
    freed := s.freed.filter (· ≠ g / 65536)
    mem := memZero s.mem g 65536
    poison := s.poison.filter fun p => p / 512 ≠ g / 65536 }

/-- R243: freed granules of a range are brought back. -/
def execMused (a b : RegNum) (s : State) :=
  conclude s (do
    let (x, n, t) ← s.rangeOf (.mused a b) a b
    .ok ((granules x n).foldl State.reuse t).advance)

/-- R243: the lines of a range leave the caches, and its regions are homed afresh. -/
def execRgrel (a b : RegNum) (s : State) :=
  conclude s (do
    let (x, n, t) ← s.rangeOf (.rgrel a b) a b
    .ok ((granules x n).foldl State.releaseRegion (t.dropRange x n)).advance)

end Sys2Proof.Machine
end

