-- ==== Sys2Proof/Machine/Power.lean ====
section
/-! DEFINITION. Islands, the governor, sleep and power-gating, the emergency save and the hard trip, HBM temperature,
energy and background budgets (R329 to R342). Temperatures of sensors are numbers of 0.001 °C (log 24). -/

namespace Sys2Proof.Machine

/-! ### Changing an operating point (R331, R332) -/

/-- A change of point starts. -/
def Island.start (now : Nat) (t : BitVec 4) (i : Island) : Island :=
  { i with target := t, step := true, phase := (if i.point < t then 1 else 3), since := now }

/-- An island above `cap` is lowered to it; a change in progress comes first. -/
def Island.lower (now : Nat) (cap : BitVec 4) (i : Island) : Island :=
  if i.step then
    { i with lowerTo := match i.lowerTo with
        | none => some cap
        | some c => some (if c < cap then c else cap) }
  else if cap < i.point then i.start now cap else i

/-- The end of a change, and the lowering that follows it. -/
def Island.finish (now : Nat) (i : Island) : Island :=
  let j := { i with point := i.target, step := false, phase := 0, lowerTo := none }
  match i.lowerTo with
  | none => j
  | some t => if t < j.point then j.start now t else j

/-- R332: the voltage has settled: 2 µs after a raise began, or 1.1 µs after a lowering began. -/
def execIslandVoltageSettled (island : Nat) (s : State) : Host.Outcome State Fault Refusal :=
  .next (
    let i := s.island island
    if i.phase = 1 && i.since + 2000 ≤ s.now then s.modIsland island fun i => { i with phase := 2 }
    else if i.phase = 4 && i.since + 1100 ≤ s.now then s.modIsland island (Island.finish s.now)
    else s)

/-- R332: the clock restarts 0.1 µs after it stopped. -/
def execIslandClockRestart (island : Nat) (s : State) : Host.Outcome State Fault Refusal :=
  .next (
    let i := s.island island
    if i.phase = 2 && i.since + 2100 ≤ s.now then s.modIsland island (Island.finish s.now)
    else if i.phase = 3 && i.since + 100 ≤ s.now then s.modIsland island fun i => { i with phase := 4 }
    else s)

/-- Target point of a request: bit 15 REL, [7:0] VAL. -/
def isreqTarget (cur : BitVec 4) (v : DWord) : Int :=
  if bitOf v.toNat 15 then (cur.toNat : Int) + toSigned 8 v.toNat else (bitsOf v.toNat 0 4 : Int)

/-- A reserved bit of a request is nonzero. -/
def isreqReserved (v : DWord) : Bool :=
  bitsOf v.toNat 16 48 ≠ 0 || bitsOf v.toNat 8 7 ≠ 0 || (!bitOf v.toNat 15 && bitsOf v.toNat 4 4 ≠ 0)

/-- The decision of R331 for an island of a column with a governor. -/
def Island.request (now island : Nat) (col : Column) (v : DWord) (i : Island) : Island :=
  if isreqReserved v || col.out || col.gov.level = 3 then { i with status := stDENIED }
  else if i.step then { i with status := stBUSY }
  else
    let t := isreqTarget i.point v
    if t < 0 then { i with status := stFLOOR }
    else
      let lim := if island % 4 < 2 && 2 ≤ col.gov.level.toNat then col.gov.thcap.toNat else 15
      let p := BitVec.ofNat 4 (min t.toNat lim)
      let j := { i with status := stOK, capped := decide (lim < t.toNat), target := p }
      if p = i.point then j else j.start now p

/-- R331: a request for the island that `ISEL` of a host core names. -/
def execIsreq (col : Nat) (v : DWord) (s : State) : Host.Outcome State Fault Refusal :=
  .next (
    let i := bitsOf (s.host col).isel.toNat 0 9
    s.modIsland i (Island.request s.now i (s.col (i / 4)) v))

/-- The matrix and vector islands of a column lowered to its `THCAP`. -/
def State.lowerCapped (s : State) (col : Nat) : State :=
  let cap := (s.col col).gov.thcap
  (s.modIsland (4 * col) (Island.lower s.now cap)).modIsland (4 * col + 1) (Island.lower s.now cap)

/-- A column's governor changed. -/
def State.modGov (s : State) (col : Nat) (f : Governor → Governor) : State := s.modCol col fun c => { c with gov := f c.gov }

/-- R330: a write of `THCAP`. -/
def execThcapWrite (col : Nat) (v : DWord) (s : State) : Host.Outcome State Fault Refusal :=
  .next (
    let t := s.modGov col fun g => { g with thcap := v.setWidth 4 }
    if (s.col col).gov.level = 2 then t.lowerCapped col else t)

/-! ### Activity (R334) -/

/-- A column's counter stands at a multiple of `n` ns at which activity `k` has not been done yet. -/
def State.onMark (s : State) (col k n : Nat) : Bool :=
  (s.cyc col).toNat % n = 0 && tabGet 0 k (s.col col).marks ≠ s.now + 1

/-- `n` ns have passed since activity `k` of a column was last done. -/
def State.pastMark (s : State) (col k n : Nat) : Bool := tabGet 1 k (s.col col).marks + n ≤ s.now + 1

/-- Activity `k` of a column is done now. -/
def State.markDone (s : State) (col k : Nat) : State := s.modCol col fun c => { c with marks := tabSet k (s.now + 1) c.marks }

/-- A sample of one island. -/
def Island.sampled (m : Activity) (i : Island) : Island :=
  { i with sample := i.sample + 1, busyr := BitVec.ofNat 16 (65535 * m.busy / m.cycles),
           stallr := BitVec.ofNat 16 (65535 * m.stall / m.cycles) }

/-- R334: a window of 10 µs ends with the measurements of the column's four islands. -/
def execActivityWindowEnd (col : Nat) (meas : List Activity) (s : State) : Host.Outcome State Fault Refusal :=
  .next (
    if s.onMark col 0 10000 && meas.length = 4 && meas.all fun m => 0 < m.cycles && m.busy + m.stall ≤ m.cycles then
      (upto 4).foldl (fun s i => s.modIsland (4 * col + i) (Island.sampled (meas.getD i { cycles := 1, busy := 0, stall := 0 })))
        (s.markDone col 0)
    else s)

/-! ### The governor (R335, R337) -/

/-- The level that a temperature in 0.125 °C enters. -/
def entryLevel (tj : Nat) : Nat := if 840 ≤ tj then 3 else if 800 ≤ tj then 2 else if 760 ≤ tj then 1 else 0

/-- A level is left downward below this temperature. -/
def exitBelow (level : Nat) : Nat := if level = 3 then 816 else if level = 2 then 776 else if level = 1 then 736 else 0

/-- The level after a sample. -/
def nextLevel (level tj held : Nat) : Nat :=
  if level < entryLevel tj then entryLevel tj
  else if 0 < level && tj < exitBelow level && 100000 ≤ held then level - 1 else level

/-- The 32-byte record of a throttle event. -/
def State.throttleRec (s : State) (col job old new : Nat) : BitVec 256 :=
  let g := (s.col col).gov
  let points := sumNat ((upto 4).map fun i => 16 ^ i * (s.island (4 * col + i)).point.toNat)
  BitVec.ofNat 256 (0x20 + 2 ^ 8 * job + 2 ^ 16 * new + 2 ^ 18 * old + 2 ^ 64 * col + 2 ^ 96 * (g.tj % 4096)
    + 2 ^ 128 * points + 2 ^ 144 * g.events.toNat + 2 ^ 192 * (s.cyc col).toNat)

/-- A record at a group's `q6`, or EVLOST when it holds 8 (R23). -/
def Group.pushEvent (r : BitVec 256) (g : Group) : Group :=
  if g.retired then g
  else if g.q6.length < 8 then { g with q6 := g.q6 ++ [r] }
  else { g with regs := g.regs.raise 0x4000 }

/-- A record at a sequencer's `q6` (log 13). -/
def Seqr.pushEvent (r : BitVec 256) (q : Seqr) : Seqr :=
  if q.q6.length < 8 then { q with q6 := q.q6 ++ [r] } else { q with regs := q.regs.raise 0x4000 }

/-- The record of a throttle event at every resident group and sequencer of a column's cores. -/
def State.tellTeams (s : State) (col old new : Nat) : State :=
  let tell := fun (_ : Nat) (tm : Team) =>
    if tm.state = .resident && colOfCore tm.core = col then
      let r := s.throttleRec col (lrJob tm.launch) old new
      { tm with groups := tm.groups.map (Group.pushEvent r), seq := tm.seq.map (Seqr.pushEvent r) }
    else tm
  { s with teams := tabMap tell s.teams }

/-- The emergency save of one cluster: its teams are lost where it has no records. -/
def State.emergencyCluster (s : State) (col c : Nat) : State :=
  let ts := s.clusterTeams c
  if ts.all fun t => (s.team t).recPa ≠ 0 then s.haltCluster c 4 none
  else ts.foldl (fun s t => s.loseTeam t col) s

/-- R337: every cluster with a team on the column's cores is saved or lost. -/
def State.emergency (s : State) (col : Nat) : State :=
  let cs := s.clustersOf (s.teamsOn fun c => colOfCore c = col)
  cs.foldl (fun s c => s.emergencyCluster col c) (s.modGov col fun g => { g with dropPending := true })

/-- The effects of a level that begin with it. -/
def State.enterLevel (s : State) (col new : Nat) : State :=
  if new = 2 then s.lowerCapped col else if new = 3 then s.emergency col else s

/-- One throttle event, in its order. -/
def State.throttle (s : State) (col new : Nat) : State :=
  let old := (s.col col).gov.level.toNat
  let s := s.modGov col fun g => { g with level := BitVec.ofNat 2 new, events := g.events + 1, since := s.now }
  ((s.pushHost col (s.throttleRec col 0 old new)).tellTeams col old new).enterLevel col new

/-- Highest of a list. -/
def maxNat (xs : List Nat) : Nat := xs.foldl max 0

/-- R335: a sample of the ten sensors of a column. -/
def execGovernorSample (col : Nat) (sensors : List Nat) (s : State) : Host.Outcome State Fault Refusal :=
  .next (
    if s.onMark col 1 10000 && sensors.length = 10 then
      let tj := maxNat (sensors.map (· / 125))
      let t := ((s.markDone col 1).modGov col fun g => { g with tj := tj }).modTower (towerOfCol col) fun w =>
        { w with readings := tabSet col (maxNat sensors) w.readings,
                 sensor := if w.tripAt + 10000 ≤ s.now then 0 else w.sensor }
      let g := (s.col col).gov
      let new := nextLevel g.level.toNat tj (s.now - g.since)
      if new = g.level.toNat then t else t.throttle col new
    else s)

/-- R337: the column's islands drop together once no team is left on its cores. -/
def execEmergencyIslandDrop (col : Nat) (s : State) : Host.Outcome State Fault Refusal :=
  .next (
    if (s.col col).gov.dropPending && (s.teamsOn fun c => colOfCore c = col).isEmpty then
      (upto 4).foldl (fun s i => s.modIsland (4 * col + i) (Island.lower s.now 0))
        (s.modGov col fun g => { g with dropPending := false })
    else s)

/-! ### Sleep and power-gating (R336) -/

/-- A split could issue, or a trap of its group is due. -/
def State.groupReady (s : State) (t : Nat) (tm : Team) (g : Group) : Bool :=
  !g.retired && (!g.posts.isEmpty || g.overwrite.isSome || g.splits.any fun p => p.valid && !s.stillWaits t tm g p)

/-- Some context of a core's teams is ready. -/
def State.coreReady (s : State) (core : Nat) : Bool :=
  (s.teamsOn (· = core)).any fun t =>
    let tm := s.team t
    tm.groups.any (s.groupReady t tm) || tm.seq.any (s.seqReady t tm)

/-- A core with nothing to do: no context ready, no team being halted or moved, its engines and table at rest. -/
def State.coreIdle (s : State) (core : Nat) : Bool :=
  let c := s.core core
  c.mq.isEmpty && c.released.isEmpty && c.cq.isEmpty && c.table.fill.isNone && !c.table.draining && !s.coreReady core
    && (s.teamsOn (· = core)).all fun t => (s.team t).state = .resident && !(s.team t).halted

/-- Cores that are not idle as time passes. -/
def State.noteIdle (s : State) (ns : Nat) : State :=
  { s with cores := tabMap (fun n (c : Core) => if s.coreIdle n then c else { c with idleSince := s.now + ns }) s.cores }

/-- R336: a core idle for 2 µs sleeps. -/
def execCoreSleep (core : Nat) (s : State) : Host.Outcome State Fault Refusal :=
  .next (
    let c := s.core core
    if !c.asleep && c.powered && s.coreIdle core && c.idleSince + 2000 ≤ s.now then
      s.modCore core fun c => { c with asleep := true, sweep := [] }
    else s)

/-- Rows of a quarter's register file that the groups of a core have allocated. -/
def State.quarterRows (s : State) (core q : Nat) : Nat :=
  sumNat ((s.teamsOn (· = core)).map fun t =>
    lrRegs (s.team t).launch * ((s.team t).groups.filter fun g => !g.retired && g.quarter = q).length)

/-- What a wake that begins now waits for, and until when: the wake itself for 1 µs, and then the sweep of each quarter with
rows, at 4 rows a cycle of 0.25 ns (R41, R336). -/
def State.wakeTimes (s : State) (core : Nat) : List (Nat × Nat) :=
  (4, s.now + 1000) :: ((upto 4).filter fun q => s.quarterRows core q ≠ 0).map fun q => (q, s.now + 1000 + (s.quarterRows core q + 15) / 16)

/-- R336, R41: a sleeping core begins to wake when a split is ready, or when its teams are to halt; later its clock runs, and
the sweep of each quarter ends. What the sweep finds arrives as scrub results. -/
def execCoreWake (core : Nat) (s : State) : Host.Outcome State Fault Refusal :=
  .next (
    let c := s.core core
    if c.asleep && c.sweep.isEmpty then
      if s.coreIdle core then s else s.modCore core fun c => { c with sweep := s.wakeTimes core }
    else
      let left := c.sweep.filter fun e => s.now < e.2
      s.modCore core fun c => { c with sweep := left, asleep := c.asleep && left.any fun e => e.1 = 4 })

/-- A core loses its L1, read-only cache and engines; lines leave the coherence state. -/
def State.losePower (s : State) (core : Nat) : State :=
  let s := (s.core core).l1.foldl (fun s e => s.leaveL1 core e.1) s
  s.modCore core fun c =>
    { c with mq := [], cq := [], chains := [], followOn := none, released := [], phys := [], seqOwner := none, table := ActTable.empty,
             roCache := [], l1 := [], asleep := false, sweep := [], gating := false, powered := false }

/-- R336: the clusters of a core that `PGATE` names are saved, with REASON 3 also where a lesser cause saves them already (R288), and
its power goes once no team is left on it. `gating`: a team that has no record stays until it retires. -/
def execPgateGate (core : Nat) (s : State) : Host.Outcome State Fault Refusal :=
  .next (
    let ts := s.teamsOn (· = core)
    if !s.gateBit core || !(s.core core).powered then s
    else if ts.isEmpty then s.losePower core
    else
      let cs := (s.clustersOf ts).filter fun k => (s.clusterTeams k).all fun t => (s.team t).recPa ≠ 0
      cs.foldl (fun s k => s.haltCluster k 3 none)
        (if ts.any fun t => (s.team t).recPa = 0 then s.modCore core fun c => { c with gating := true } else s))

/-- R336: a core that `PGATE` names no longer is powered and open for placement. -/
def execPgateUngate (core : Nat) (s : State) : Host.Outcome State Fault Refusal :=
  .next (
    let c := s.core core
    if s.gateBit core || (c.powered && !c.gating) then s
    else s.modCore core fun c => { c with powered := true, gating := false, idleSince := s.now })

/-! ### The hard trip (R338) -/

/-- Bytes of the vault segments of a tower. -/
def vaultOfTower (tower : Nat) : Nat × Nat := (segmentBase + tower * 128 * 0x200000, 128 * 0x200000)

/-- R338: a sensor reads 115 °C: the tower's upper dies lose power, and its teams without a committed record are lost. -/
def execThermalTrip (tower sensor : Nat) (s : State) : Host.Outcome State Fault Refusal :=
  .next (
    if sensor < 115000 || 8 ≤ tower then s
    else
      let lost := s.teamsOn fun c => towerOfCore c = tower
      let s := s.modTower tower fun w => { w with powered := false, sensor := sensor, tripAt := s.now }
      let s := lost.foldl (fun s t => s.loseTeam t (colOfCore (homeOf t))) s
      let s := (span (128 * tower) 128).foldl (fun s c =>
        if (tabFind c s.cores).isSome then
          let p := (s.core c).powered
          (s.losePower c).modCore c fun k => { k with powered := p } else s) s
      let v := vaultOfTower tower
      { s with
        mem := memZero s.mem v.1 v.2
        poison := s.poison.filter fun p => !(v.1 ≤ 128 * p && 128 * p < v.1 + v.2)
        hertor := { s.hertor with malrt := true } })

/-- Highest reading known of a tower's sensors. -/
def Tower.hottest (w : Tower) : Nat := max w.sensor (maxNat (w.readings.map (·.2)))

/-- R338: towers powered again, but for one with a sensor above 90 °C. -/
def execTwrpwr (v : DWord) (s : State) : Host.Outcome State Fault Refusal :=
  .next ((upto 8).foldl (fun s t =>
    if bitOf v.toNat t && (s.tower t).hottest ≤ 90000 then s.modTower t fun w => { w with powered := true } else s) s)

/-! ### HBM temperature (R339, R340) -/

/-- Refresh code after a reading. -/
def refreshCode (old : BitVec 2) (t : Nat) : BitVec 2 :=
  if 95 ≤ t || (old = 2 && 93 ≤ t) then 2 else if 85 ≤ t || (old ≠ 0 && 83 ≤ t) then 1 else 0

/-- Bandwidth cap after a reading. -/
def capCode (old : BitVec 2) (t : Nat) : BitVec 2 :=
  if 105 ≤ t || (old = 2 && 103 ≤ t) then 2 else if 100 ≤ t || (old ≠ 0 && 98 ≤ t) then 1 else 0

/-- R339: a reading of a stack's temperature, 1 ms after the last one. -/
def execHbmTempReading (stack temp : Nat) (s : State) : Host.Outcome State Fault Refusal :=
  .next (if (s.stack stack).readAt + 1000000 ≤ s.now then
    s.modStack stack fun k =>
      { k with reads := k.reads + 1, temp := BitVec.ofNat 8 temp, ref := refreshCode k.ref temp, cap := capCode k.cap temp,
               readAt := s.now }
    else s)

/-! ### Energy (R341) -/

/-- Jobs of a column with their group slots and running sequencers. -/
def State.energyShares (s : State) (col : Nat) : Tab Nat :=
  (s.teamsOn fun c => colOfCore c = col).foldl (fun m t =>
    let tm := s.team t
    let n := (tm.groups.filter fun g => !g.retired).length + b2n tm.seq.isSome
    if n = 0 then m else tabMod 0 (lrJob tm.launch) (· + n) m) []

/-- An interval's energy divided among jobs. -/
def Energy.divide (shares : Tab Nat) (e : Nat) (x : Energy) : Energy :=
  let n := sumNat (shares.map (·.2))
  if n = 0 then { x with eh := x.eh + BitVec.ofNat 64 (e + x.carry), carry := 0 }
  else
    let part := fun (k : Nat) => (e + x.carry) * k / n
    { x with ej := shares.foldl (fun m j => tabMod 0 j.1 (· + BitVec.ofNat 64 (part j.2)) m) x.ej,
             carry := e + x.carry - sumNat (shares.map fun j => part j.2) }

/-- R341: the end of an interval of 100 µs in which a column measured `e` nJ. -/
def execEnergyInterval (col e : Nat) (s : State) : Host.Outcome State Fault Refusal :=
  .next (if s.pastMark col 2 100000 then
    (s.markDone col 2).modCol col fun c => { c with energy := c.energy.divide (s.energyShares col) e } else s)

/-! ### Background budgets (R342) -/

/-- R342: a new period of 10 µs. Column 0 of a tower keeps the period of its two stacks and of its management flits, those of
which that waited enter, and in that of column 0 of the package the wave packets that waited leave. -/
def execBudgetPeriod (col : Nat) (s : State) : Host.Outcome State Fault Refusal :=
  .next (if !s.pastMark col 3 10000 then s else
    let t := (s.markDone col 3).modCol col fun c => { c with budgets := tabMap (fun _ (b : Budget) => { b with last := b.now, now := 0 }) c.budgets }
    if col % 16 ≠ 0 then t
    else [2 * towerOfCol col, 2 * towerOfCol col + 1].foldl (fun s k =>
      s.modStack k fun x => { x with scrubLast := x.scrubNow, scrubNow := 0 })
      ((if col = 0 then t.drainWaves else t).drainMgmt (towerOfCol col)))

/-! ### Host interrupts (R234, R239) -/

/-- R234: `CYC` has reached `HTCMP`; a host core that holds in `wfi` goes on if TIMER is enabled. -/
def execHostTimer (col : Nat) (s : State) : Host.Outcome State Fault Refusal :=
  .next (if bitOf (s.hip col) 3 && (s.host col).hie.getLsbD 3 then s.modHost col fun h => { h with wfi := false } else s)

/-- R239: the host core takes an interrupt between two instructions. -/
def execInterruptTaken (col : Nat) (s : State) : Host.Outcome State Fault Refusal :=
  .next (
    let h := s.host col
    if h.stopped || h.wait = .answer || h.pending.isSome then s
    else match s.takeable col with
      | none => s
      | some n => s.interrupt col n)

end Sys2Proof.Machine
end

