-- ==== Sys2Proof/Machine/Reliability.lean ====
section
/-! DEFINITION. Scrubs, errors and poison, the error log, failed columns, HBM channels, and the service of a column
(R344 to R351, R355 to R357). -/

namespace Sys2Proof.Machine

/-! ### Records of errors that no core is named for (R350) -/

/-- An error record of a column, for a unit that no core, job or lane applies to. -/
def State.plainError (s : State) (col unit cls addr : Nat) (synd : DWord) : ErrRec :=
  { w0 := BitVec.ofNat 64 (2 ^ 60 * unit + 2 ^ 58 * cls + addr % 2 ^ 52)
    w1 := BitVec.ofNat 64 ((s.cyc col).toNat % 2 ^ 32)
    w2 := synd }

/-! ### Scrubs (R346, R351) -/

/-- What a scrub finds in one lane of a register row: a corrected entry sets ECCC, an uncorrectable one is poisoned. -/
def State.scrubLane (s : State) (t g row : Nat) (e : Nat × ScrubResult) : State :=
  let tm := s.team t
  let recd := fun (cls : Nat) (synd : DWord) => s.errorRec 0 cls row tm.core (lrJob tm.launch) e.1 synd
  match e.2 with
  | .clean => s
  | .corrected synd =>
    (s.modGroup t g fun x => { x with regs := x.regs.raise 0x2000 }).corrected (colOfCore tm.core) (recd 0 synd)
  | .uncorrectable synd =>
    (s.modGroup t g fun x => { x with badRegs := insertNat (32 * row + e.1) x.badRegs }).logError (colOfCore tm.core) (recd 1 synd)

/-- R346: the scrub of one allocated row of a resident group. -/
def execRfScrub (team g row : Nat) (errs : List (Nat × ScrubResult)) (s : State) : Host.Outcome State Fault Refusal :=
  .next (
    let tm := s.team team
    if (tabFind team s.teams).isSome && tm.state = .resident && !(s.group team g).retired && row < lrRegs tm.launch
        && errs.all fun e => e.1 < 32 then
      errs.foldl (fun s e => s.scrubLane team g row e) s
    else s)

/-- What is found in a line, logged in a column's log by the records that `recd` gives for a class and syndrome. -/
def State.foundLine (s : State) (col pa : Nat) (recd : Nat → DWord → ErrRec) : ScrubResult → State
  | .clean => s
  | .corrected synd => s.corrected col (recd 0 synd)
  | .uncorrectable synd => (s.poisonLine pa).logError col (recd 1 synd)

/-- What a scrub finds in a line of a slice or of HBM. -/
def State.scrubLine (s : State) (col unit pa : Nat) (r : ScrubResult) : State :=
  s.foundLine col pa (fun cls synd => s.plainError col unit cls pa synd) r

/-- What is found in a line of a vault, whose segment is a core's. -/
def State.scrubVault (s : State) (line : Nat) (r : ScrubResult) : State :=
  let core := (128 * line - segmentBase) / 0x200000
  s.foundLine (colOfCore core) (128 * line) (fun cls synd => s.errorRec 2 cls (128 * line) core 0 0 synd) r

/-- R351, R342: the scrub of one line of HBM within the budget of its stack, which column 0 of the tower sets. -/
def execHbmScrub (line : Nat) (res : ScrubResult) (s : State) : Host.Outcome State Fault Refusal :=
  .next (
    let pa := 128 * line
    let k := pa / 2 ^ 36
    let col := firstCol (k / 2)
    let limit := (tabGet Budget.zero 1 (s.col col).budgets).limit.toNat
    if s.place pa = .hbm && !s.isFreed pa && (s.stack k).scrubNow + 128 ≤ 1024 * limit then
      (s.modStack k fun x => { x with scrubNow := x.scrubNow + 128 }).scrubLine col 6 pa res
    else s)

/-- What a scrub finds in a word of an accumulator bank. -/
def State.scrubWord (s : State) (t bank word : Nat) (res : ScrubResult) : State :=
  let tm := s.team t
  let recd := fun (cls : Nat) (synd : DWord) =>
    s.errorRec 1 cls (32 * bank + word / 32) tm.core (lrJob tm.launch) 0 synd
  match res with
  | .clean => s
  | .corrected synd => s.corrected (colOfCore tm.core) (recd 0 synd)
  | .uncorrectable synd =>
    (s.modTeam t fun tm => { tm with acc := tm.acc.map fun e =>
      if e.1 = bank then (e.1, { e.2 with bad := insertNat word e.2.bad }) else e }).logError (colOfCore tm.core) (recd 1 synd)

/-- R351: the scrub of a vault line, of a line that a slice holds, or of an accumulator word. -/
def execVaultSliceAccumScrub (site : ScrubSite) (res : ScrubResult) (s : State) : Host.Outcome State Fault Refusal :=
  .next (match site with
    | .vault line =>
      if s.place (128 * line) = .vault then s.scrubVault line res else s
    | .slice col line => if (tabFind line (s.col col).coh.lines).isSome then s.scrubLine col 5 (128 * line) res else s
    | .accum t bank word =>
      if (tabFind t s.teams).isSome && (s.team t).state = .resident && word < 1024 && (tabFind bank (s.team t).acc).isSome then
        s.scrubWord t bank word res
      else s)

/-! ### A column that fails (R348) -/

/-- Regions whose home is a column, by their valid entries in its tower's table. -/
def State.regionsOf (s : State) (col : Nat) : List Nat :=
  let base := (s.tower (towerOfCol col)).rgtbase.toNat
  let valid := s.mem.filter fun c => base ≤ c.1 && c.1 < base + 2 ^ 26 && (c.1 - base) % 4 = 3 && c.2.getLsbD 7
  (valid.map fun c => (c.1 - base) / 4 * 65536).filter fun pa => s.homeSlice (towerOfCol col) pa = some col

/-- A column's regions are released as by `rgrel`. -/
def State.releaseColumn (s : State) (col : Nat) : State :=
  (s.regionsOf col).foldl (fun s pa =>
    (s.dropRange pa 65536).physWrite (s.regionEntry (towerOfCol col) pa) (toBytes 4 0)) s

/-- The lowest-numbered working column of a tower. -/
def State.workingCol (s : State) (tower : Nat) : Nat :=
  ((span (firstCol tower) 16).find? fun c => (s.col c).works).getD (firstCol tower)

/-- R348: the column's host core stops, its teams are lost, and it behaves as retired. -/
def State.columnFails (s : State) (col : Nat) (synd : DWord) : State :=
  let t := s.modCol col fun c => { c with host := { c.host with stopped := true }, svc := { c.svc with failed := true } }
  let lost := (s.teams.filter fun e =>
    (colOfCore e.2.core = col && e.2.state ≠ .saved) || colOfCore (homeOf e.1) = col).map (·.1)
  let to_ := t.workingCol (towerOfCol col)
  let t := lost.foldl (fun s u => s.loseTeam u to_) t
  let t := (t.releaseColumn col).logError col (s.plainError col 8 3 0 synd)
  { t with hertor := { t.hertor with malrt := true } }

/-- R348: an uncorrectable error in a host core's registers or data cache. -/
def execColumnFailure (col : Nat) (s : State) : Host.Outcome State Fault Refusal := 
  .next (s.columnFails col (Sys2Proof.Config.syndrome 8 col 0))

/-! ### Errors found in use (R344, R348) -/

/-- A correctable error is counted; an uncorrectable one has its effect and is logged. -/
def State.foundError (s : State) (col : Nat) (recd : Nat → DWord → ErrRec) (bad : State → State) : ScrubResult → State
  | .clean => s
  | .corrected synd => s.corrected col (recd 0 synd)
  | .uncorrectable synd => (bad s).logError col (recd 1 synd)

/-- Syndrome bits of what was found. -/
def foundSyndrome : ScrubResult → DWord
  | .clean => 0
  | .corrected synd => synd
  | .uncorrectable synd => synd

/-- R348: a line whose state in a cache is not known any more is invalidated. A holder that owned it may have written it, so its line
is poisoned. -/
def State.loseWay (s : State) (state : Nat → Option Moesi) (drop : State → Nat → State) (line : Nat) : State :=
  drop (if ((state line).map Moesi.owns).getD false then s.poisonLine (128 * line) else s) line

/-- R348: the home agent has probed every tower for a line whose directory state it lost. A copy that one returns is current; where
none holds the line, memory is, if every tower could answer. -/
def State.probedBad (s : State) (line : Nat) (badCopy : Bool) : Bool :=
  if (tabFind line s.directory).isSome then badCopy else (upto 8).any fun w => !(s.tower w).powered

/-- The job of the team that holds a core's activation table. -/
def State.tableJob (s : State) (core : Nat) : Nat := ((s.core core).table.holder.map fun t => lrJob (s.team t).launch).getD 0

/-- An error in a storage structure. -/
def State.storageError (s : State) (site : ErrSite) (r : ScrubResult) : State :=
  match site with
  | .reg t g row lane =>
    if (tabFind t s.teams).isSome && (s.team t).state = .resident && lane < 32 then s.scrubLane t g row (lane, r) else s
  | .accum t bank word => if word < 1024 && (tabFind bank (s.team t).acc).isSome then s.scrubWord t bank word r else s
  | .vault line =>
    if s.place (128 * line) = .vault then s.scrubVault line r else s
  | .slice col line => if (tabFind line (s.col col).coh.lines).isSome then s.scrubLine col 5 (128 * line) r else s
  | .readOnly core line =>
    if r = .clean then s
    else (s.modCore core fun c => { c with roCache := tabDel line c.roCache }).corrected (colOfCore core)
      (s.errorRec 4 0 (128 * line) core 0 0 (foundSyndrome r))
  | .hostInst col line =>
    if r = .clean then s
    else (s.modHost col fun h => { h with icache := tabDel line h.icache }).corrected col
      (s.plainError col 8 0 (128 * line) (foundSyndrome r))
  | .hostCore col => match r with
    | .clean => s
    | .corrected synd => s.corrected col (s.plainError col 8 0 0 synd)
    | .uncorrectable synd => s.columnFails col synd
  | .l1 core line =>
    if (tabFind line (s.core core).l1).isNone then s
    else s.foundError (colOfCore core) (fun c d => s.errorRec 3 c (128 * line) core 0 0 d) (fun t => t.poisonLine (128 * line)) r
  | .hbm line => if s.place (128 * line) = .hbm then s.scrubLine (firstCol (128 * line / 2 ^ 37)) 6 (128 * line) r else s
  | .table core second entry =>
    s.foundError (colOfCore core) (fun c d => s.errorRec 7 c entry core (s.tableJob core) 0 d)
      (fun t => t.modCore core fun k => { k with table :=
        if second then { k.table with bad1 := insertNat entry k.table.bad1 } else { k.table with bad0 := insertNat entry k.table.bad0 } }) r
  | .l1Tags core lines =>
    let ls := lines.filter fun l => (tabFind l (s.core core).l1).isSome
    s.foundError (colOfCore core) (fun c d => s.errorRec 3 c (128 * ls.headD 0) core 0 0 d)
      (fun t => ls.foldl (fun t l => t.loseWay (fun l => tabFind l (t.core core).l1) (fun t l => t.leaveL1 core l) l) t) r
  | .sliceTags col lines =>
    let ls := lines.filter fun l => (tabFind l (s.col col).coh.lines).isSome
    s.foundError col (s.plainError col 5 · (128 * ls.headD 0) ·)
      (fun t => ls.foldl (fun t l => t.loseWay (fun l => tabFind l (t.col col).coh.lines) (fun t l => t.dropLine l) l) t) r
  | .snoopTags col lines =>
    let ls := lines.filter fun l => (tabFind l (s.col col).coh.snoop).isSome
    s.foundError col (s.plainError col 5 · (128 * ls.headD 0) ·)
      (fun t => ls.foldl (fun t l => t.loseWay
          (fun l => ((t.snoopOf col l).holders.filterMap fun a => tabFind l (t.l1Of a)).find? Moesi.owns)
        (fun t l => t.evictSnoop col l) l) t) r
  | .directory line badCopy =>
    s.foundError (firstCol (128 * line / 2 ^ 37)) (s.plainError (firstCol (128 * line / 2 ^ 37)) 6 · (128 * line) ·)
      (fun t => if t.probedBad line badCopy then t.poisonLine (128 * line) else t) r

/-- R349: a second is over; more corrected errors than `ERCTHR` push one ERROR record. -/
def execErrorRateCheck (col : Nat) (s : State) : Host.Outcome State Fault Refusal :=
  .next (
    let c := s.col col
    if s.now < c.errSince + 1000000000 then s
    else
      let t := s.modCol col fun c => { c with errRecent := 0, errSince := s.now }
      if c.errThr ≠ 0 && c.errThr.toNat < c.errRecent then
        let r := s.plainError col 9 0 0 0
        t.pushHost col (BitVec.ofNat 256 (0x30 + r.w0.toNat + 2 ^ 64 * r.w1.toNat))
      else t)

/-! ### The error and loss logs (R307, R349, R345) -/

/-- R349. -/
def execErlpop (col : Nat) (s : State) : Host.Outcome State Fault Refusal :=
  .next (s.modCol col fun c => { c with errs := c.errs.drop 1, errOvf := false })

/-- R307. -/
def execLosspop (tower : Nat) (s : State) : Host.Outcome State Fault Refusal :=
  .next (s.modTower tower fun w => { w with losses := w.losses.drop 1, lossOvf := false })

/-- R345: 128 zero bytes are written to a line of HBM, and its poison goes. -/
def execErpclr (v : DWord) (s : State) : Host.Outcome State Fault Refusal :=
  .next (
    let pa := bitsOf v.toNat 7 45 * 128
    if s.place pa = .hbm then
      ((((s.dropLine (pa / 128)).physWrite pa (zeros 128)).countWrite pa 128).clearPoison pa)
    else s)

/-! ### Columns that leave service (R355, R356) -/

/-- A column's service state changed. -/
def State.modSvc (s : State) (col : Nat) (f : Service → Service) : State := s.modCol col fun c => { c with svc := f c.svc }

/-- DRAIN is set and no team is resident on the column's cores. -/
def State.drained (s : State) (col : Nat) : Bool :=
  (s.col col).svc.drain && (s.teamsOn fun c => colOfCore c = col).isEmpty

/-- R355: DRAIN set or cleared. -/
def execColsvcDrain (_col target : Nat) (on : Bool) (s : State) : Host.Outcome State Fault Refusal :=
  .next (s.modSvc target fun v => { v with drain := on, status := stOK })

/-- Every line of a column's L1s and slice is written back, and they are empty. -/
def State.flushColumn (s : State) (col : Nat) : State :=
  let s := (hostAgent col :: span (8 * col) 8).foldl (fun s a => (s.l1Of a).foldl (fun s e => s.leaveL1 a e.1) s) s
  (s.col col).coh.lines.foldl (fun s e =>
    let s := s.evictSnoop col e.1
    let s := s.setTowerLine col e.1 none
    match tabFind e.1 s.directory with
    | none => s
    | some d => { s with directory := match d.written (towerOfCol col) false with
        | none => tabDel e.1 s.directory
        | some x => tabSet e.1 x s.directory }) s

/-- Every generation of a core advances. -/
def Core.advanceGens (c : Core) : Core := { c with gens := (upto 64).map fun i => (i, tabGet 0 i c.gens + 1) }

/-- R355: a column starts again: its caches written back, its host core at machine level in its firmware, its staged
image in use, and the teams homed on it lost. -/
def State.resetColumn (s : State) (col : Nat) : State :=
  let s := s.flushColumn col
  let s := s.modCol col fun c =>
    { c with host := HostCore.reset, cycBase := s.now, gseq := 0, svc := { c.svc with
        staged := none, status := stOK,
        running := match c.svc.staged with
          | none => c.svc.running
          | some (ty, svn) => tabSet ty.toNat svn c.svc.running } }
  let homed := (s.teams.filter fun e => colOfCore (homeOf e.1) = col).map (·.1)
  let s := homed.foldl (fun s t => s.loseTeam t col) s
  (span (8 * col) 8).foldl (fun s c => s.modCore c Core.advanceGens) s

/-- R355: RESET of a drained column by another one. -/
def execColsvcReset (col target : Nat) (s : State) : Host.Outcome State Fault Refusal :=
  .next (
    if col = target then s.modSvc target fun v => { v with status := stDENIED }
    else if !s.drained target || !(s.col target).works then s.modSvc target fun v => { v with status := stBUSY }
    else s.resetColumn target)

/-- R356: a drained column is retired. -/
def execColsvcRetire (_col target : Nat) (s : State) : Host.Outcome State Fault Refusal :=
  .next (
    if !s.drained target then s.modSvc target fun v => { v with status := stBUSY }
    else (s.modSvc target fun v => { v with retired := true, status := stOK }).releaseColumn target)

/-! ### HBM channels (R357) -/

/-- Bytes that a leaf of a level maps from `leafPa`. -/
def leafRange (e level : Nat) : Nat × Nat := (leafPa e level 0, if level = 1 then 2 ^ 27 else if bitOf e 56 then 2 ^ 21 else 2 ^ 16)

/-- A valid leaf under a table node maps a byte of a range. -/
def State.mapsRange (s : State) (lo n : Nat) : Nat → Nat → Bool
  | level, node => (upto (if level = 3 then 256 else 2048)).any fun i =>
    let e := ofBytes (s.physRead (node + 8 * i) 8)
    if entryMalformed level e then false
    else match entryType e with
      | 1 => match level with
        | 0 => false
        | l + 1 => s.mapsRange lo n l (bitsOf e 14 38 * 2 ^ 14)
      | 2 => let r := leafRange e level; r.1 < lo + n && lo < r.1 + r.2
      | 3 => let r := leafRange e level; r.1 < lo + n && lo < r.1 + r.2
      | _ => false
  termination_by structural level => level

/-- Range 31 of a stack is mapped by a valid entry of some valid job. -/
def State.topMapped (s : State) (stack : Nat) : Bool :=
  s.jobs.any fun j => s.jobValid j.1 && s.mapsRange (2 ^ 36 * stack + 2 ^ 31 * 31) (2 ^ 31) 3 (s.rootOf j.1)

/-- Lines that a channel holds of ranges 0 to 30. -/
def channelLines : Nat := 31 * (2 ^ 31 / 32 / 128)

/-- R357: the retirement of a channel begins, or is refused. -/
def execHbmret (v : DWord) (s : State) : Host.Outcome State Fault Refusal :=
  .next (
    let k := bitsOf v.toNat 0 4
    let s := { s with hbmLast := k }
    let x := s.stack k
    if x.retired ≠ 0 || x.moving.isSome || s.topMapped k then s.modStack k fun x => { x with status := stDENIED }
    else s.modStack k fun x =>
      { x with moving := some (bitsOf v.toNat 8 5), status := stBUSY, toMove := BitVec.ofNat 32 channelLines })

/-- R357: the home agent moves the next line of the channel: it reads it, so that an uncorrectable one is poisoned and logged,
and one line fewer is left to move. A line moves in one step, so that every access falls before or after it. -/
def State.moveLine (s : State) (stack : Nat) (found : ScrubResult) : State :=
  let x := s.stack stack
  match x.moving with
  | none => s
  | some c =>
    if x.toMove = 0 then s
    else
      let pa := 2 ^ 36 * stack + 128 * (Sys2Proof.Config.channelLine c (channelLines - x.toMove.toNat) % (31 * 2 ^ 24))
      (s.modStack stack fun x => { x with toMove := x.toMove - 1 }).scrubLine (firstCol (stack / 2)) 6 pa found

/-- R357: the last line of the channel has been moved: range 31 of the stack has no contents. -/
def execHbmChannelMoveDone (stack : Nat) (s : State) : Host.Outcome State Fault Refusal :=
  .next (match (s.stack stack).moving with
    | none => s
    | some c =>
      if (s.stack stack).toMove ≠ 0 then s else
      let lo := 2 ^ 36 * stack + 2 ^ 31 * 31
      let t := s.dropRange lo (2 ^ 31)
      { t.modStack stack fun x =>
          { x with retired := x.retired ||| ((1 : Word) <<< c), moving := none, status := stOK, toMove := 0,
                   range31gone := true }
        with mem := memZero t.mem lo (2 ^ 31), poison := t.poison.filter fun p => !(lo ≤ 128 * p && 128 * p < lo + 2 ^ 31) })

end Sys2Proof.Machine
end

