-- ==== Sys2Proof/Machine/Security.lean ====
section
/-! DEFINITION. Job control and keys, links and Sahlin datagrams, and service over the telemetry ring (R234, R302, R305,
R306, R317, R318, R322, R323, R349). -/

namespace Sys2Proof.Machine

/-! ### Jobs (R234, R305, R306) -/

/-- `JOBCTL` after a write: DISC is cleared by a 1, and the other fields are written. -/
def jobctlNext (old v : DWord) : DWord :=
  let disc := if v.getLsbD 62 then 0 else old &&& 0x4000000000000000
  (v &&& 0x8000FFFF0000FFFF) ||| disc

/-- A tower's counters of a job at 0. -/
def TowerJob.restart (t : TowerJob) : TowerJob := { t with inj := 0, con := 0, lost := 0 }

/-- The grids of a job that wait in a column's grid table place no further team, nor do the records of its open batches (R224). -/
def Column.denyJob (k : Column) (job : Nat) : Column :=
  let part := fun (p : GridPart) => if lrJob p.launch = job && p.next < lrTeams p.launch then { p with denied := true } else p
  let batch := fun (_ : Nat) (b : Batch) =>
    if !b.closed && lrJob (b.records.headD (0, 0)).2 = job then { b with denied := b.records.length } else b
  { k with grids := k.grids.map fun g => { g with parts := g.parts.map part }, batches := tabMap batch k.batches }

/-- R305: a write of `JOBCTL`; VALID from 0 to 1 clears `MCFAIL` and starts the counters again. A job that is valid no
longer has no further team of its waiting grids placed, even if it becomes valid again (R224, R226). -/
def execJobctlWrite (job : Nat) (v : DWord) (s : State) : Host.Outcome State Fault Refusal :=
  .next (
    let was := s.jobValid job
    let t := s.modJob job fun b => { b with ctl := jobctlNext b.ctl v }
    let t := if v.getLsbD 63 && !was then
        t.modJob job fun b => { b with mcfail := 0, towers := tabMap (fun _ x => TowerJob.restart x) b.towers }
      else t
    let t := if v.getLsbD 63 || !was then t else { t with cols := tabMap (fun _ k => Column.denyJob k job) t.cols }
    t.settle)

/-- R305: half of a job's key, for every interface of the package. -/
def execJobkeyWrite (job : Nat) (hi : Bool) (v : DWord) (s : State) : Host.Outcome State Fault Refusal :=
  .next (s.modJob job fun b => if hi then { b with key1 := v } else { b with key0 := v })

/-- R234: a write of `TRBASE` or `TRSIZE` sets `TRHEAD` and `TRTAIL` to 0; a size outside 4 to 20 is ignored. -/
def execTelemetryRingSet (job : Nat) (size : Bool) (v : DWord) (s : State) : Host.Outcome State Fault Refusal :=
  .next (
    let n := bitsOf v.toNat 0 5
    if size then
      if 4 ≤ n && n ≤ 20 then
        s.modJob job fun b => { b with trsize := BitVec.ofNat 64 n, trhead := 0, trtail := 0 }
      else s
    else s.modJob job fun b => { b with trbase := v &&& 0xFFFFFFFFFFFFF000, trhead := 0, trtail := 0 })

/-! ### Links (R302, R316 to R318) -/

/-- R317: planes and Ethernet ports taken out of service. -/
def execLnkdrainWrite (v : DWord) (s : State) : Host.Outcome State Fault Refusal :=
  .next { s with lnkdrain := v &&& 0xFFFFFFFFF }

/-- R317: a plane or port goes up or down: bits of `LNKSTAT`. -/
def execLinkStateChange (link : Nat) (up : Bool) (s : State) : Host.Outcome State Fault Refusal :=
  .next (
    let bit := (1 : BitVec 38) <<< link
    { s with links := if up then s.links ||| bit else s.links &&& ~~~bit })

/-- R302, R316: a flit is sent again as it is stored; that changes timing only. -/
def execLinkRetry (_link : Nat) (s : State) : Host.Outcome State Fault Refusal := .next s

/-- R318: a rotation starts: new flits use the staged key under the next identifier, and the old key is kept. -/
def execUkctlRotate (plane : Nat) (s : State) : Host.Outcome State Fault Refusal :=
  .next (s.modPlane plane fun p =>
    if p.busy then p else { p with old := some p.key, key := p.staged, keyId := p.keyId + 1, busy := true })

/-- The secure controller delivers a plane's new key to the partner receiver, inside the SPDM session that it holds with the
switch port (R318, R354). -/
def State.deliverKey (s : State) (plane : Nat) : State :=
  let p := tabGet Plane.reset plane s.planes
  let h := s.hertor
  if p.busy && h.portSessions.contains plane then { s with hertor := { h with keysOut := h.keysOut ++ [(plane, p.key)] } } else s

/-- A plane or Ethernet port that is taken out of service is drained for recalibration: nothing it sent waits for replay, or for
an answer that would have it send again (R317). -/
def State.linkDrained (s : State) (link : Nat) : Bool :=
  s.lnkdrain.getLsbD link && if link < 32 then (tabGet Plane.reset link s.planes).replay.isEmpty
    else !(s.sent.any fun x => x.port = some link)

/-- R318: once no flit in the replay buffer uses the old key, which is the one before the current identifier, it is
retired. -/
def execKeyRetire (plane : Nat) (s : State) : Host.Outcome State Fault Refusal :=
  .next (s.modPlane plane fun p =>
    if p.busy && p.replay.all fun f => f.2 = p.keyId then { p with old := none, busy := false } else p)

/-! ### The Sahlin transport (R322, R323, R349) -/

/-- A Sahlin key pair changed. -/
def State.modShlkey (s : State) (pod : Nat) (f : ShlKey → ShlKey) : State :=
  { s with shlkeys := tabMod ShlKey.reset pod f s.shlkeys }

/-- A 64-bit word of a 256-bit key replaced. -/
def setKeyWord (k : BitVec 256) (i : Nat) (v : DWord) : BitVec 256 :=
  let m := (BitVec.allOnes 64).setWidth 256 <<< (64 * i)
  (k &&& ~~~m) ||| (v.setWidth 256 <<< (64 * i))

/-- R349: the write of the last word: the staged key applies to datagrams sent from now on. -/
def execShlkeyWrite (pod : Nat) (v : DWord) (s : State) : Host.Outcome State Fault Refusal :=
  .next (s.modShlkey pod fun k =>
    let x := setKeyWord k.staged 3 v
    { staged := x, key := x, old := some k.key, changed := s.now })

/-- R349: the previous key is accepted for 1 ms after a change. -/
def execShlkeyOldExpire (pod : Nat) (s : State) : Host.Outcome State Fault Refusal :=
  .next (if (tabGet ShlKey.reset pod s.shlkeys).changed + 1000000 ≤ s.now then
    s.modShlkey pod fun k => { k with old := none } else s)

/-- The previous key of a pair is still accepted. -/
def ShlKey.takesOld (k : ShlKey) (now : Nat) : Bool := k.old.isSome && now < k.changed + 1000000

/-- The message that a datagram's header answers: of the stream to its sender, with its sequence number. -/
def State.answeredBy (s : State) (h : Nat) : Option SentMsg :=
  s.sent.find? fun x =>
    x.msg.dnode.toNat = bitsOf h 172 20 && x.msg.dtwr.toNat = bitsOf h 231 3 && x.msg.stwr.toNat = bitsOf h 228 3
      && x.msg.seqNo.toNat = bitsOf h 192 32

/-- CLASS of R312 read back. -/
def classOf (n : Nat) : Option MsgClass :=
  [.rput, .barRarv, .msgs, .stp, .atomp, .gauge, .chunk, .ldp].find? fun c => c.code = n

/-- Fields of the item in a payload, whose layout no rule gives (log 104): 0 capability, 1 register, 2 flags (wide, broadcast,
release, to a gauge, poison, physical address, of a pool, whole order tag), 3 mask, 4 header, 5 address, 6 size, 7 operation,
8 comparand, 9 number of the byte values and 10 of the lane values that follow from 64 and from 8,192 on, 11 priority. -/
def payloadField (payload : List Byte) (i : Nat) : Nat := Sys2Proof.Config.wireField payload i

/-- The message of a data datagram or a WRITEOFF: its ends, stream, number, class and job from the header (R322), the rest from
the payload. -/
def State.wireMsg (s : State) (h : Nat) (payload : List Byte) (cls : MsgClass) (off : Bool) : Msg :=
  let f := payloadField payload
  { id := s.fresh, cls := cls, snode := BitVec.ofNat 20 (bitsOf h 172 20), stwr := BitVec.ofNat 3 (bitsOf h 231 3),
    score := BitVec.ofNat 10 (f 12), dnode := s.node, dtwr := BitVec.ofNat 3 (bitsOf h 228 3), seqNo := BitVec.ofNat 32 (bitsOf h 192 32),
    tag := bitsOf h 234 6, job := BitVec.ofNat 8 (bitsOf h 240 8), pri := BitVec.ofNat 3 (bitsOf h 149 3), cap := BitVec.ofNat 128 (f 0),
    reg := BitVec.ofNat 4 (f 1), wide := bitOf (f 2) 0, bcast := bitOf (f 2) 1, rel := bitOf (f 2) 2, toGauge := bitOf (f 2) 3,
    mask := BitVec.ofNat 32 (f 3), lanes := (upto (f 10 % 1025)).map fun i => BitVec.ofNat 64 (f (8192 + i)),
    header := BitVec.ofNat 64 (f 4), addr := f 5 % 2 ^ 57, phys := bitOf (f 2) 5, kept := false, pool := bitOf (f 2) 6,
    onode := s.node, ova := f 5 % 2 ^ 57, size := f 6, op := BitVec.ofNat 4 (f 7), cmp := BitVec.ofNat 64 (f 8),
    bytes := (upto (f 9 % 4097)).map fun i => BitVec.ofNat 8 (f (64 + i)), bad := bitOf (f 2) 4, redirects := 0, fault := none,
    writeoff := off }

/-- A pass number from its low 32 bits: the first one from the last known on that has them. -/
def passFrom (last : DWord) (low : Nat) : DWord := last + BitVec.ofNat 64 ((low + 2 ^ 32 - last.toNat % 2 ^ 32) % 2 ^ 32)

/-- The wave packet of a datagram (R314, R322). -/
def State.wirePacket (s : State) (h : Nat) (payload : List Byte) : WavePacket :=
  let j := bitsOf h 240 8
  let f := payloadField payload
  let low := bitsOf h 192 32
  let p := passFrom (s.job j).wave.pass low
  match bitsOf h 248 4 with
  | 4 => .wave j p
  | 5 => .reply j p (BitVec.ofNat 20 (bitsOf h 172 20)) (BitVec.ofNat 64 (f 0)) (BitVec.ofNat 64 (f 1)) (BitVec.ofNat 64 (f 2)) (bitOf (f 3) 0)
  | _ => .quiet j (passFrom (s.towerJob 0 j).qpass low) (BitVec.ofNat 64 (f 0)) (bitOf (f 1) 0)

/-- What a datagram of an answering type says. -/
def wireAnswer (h : Nat) (payload : List Byte) : AckKind :=
  let st := bitsOf h 144 5
  let f := payloadField payload
  match bitsOf h 248 4 with
  | 1 => .decided (BitVec.ofNat 4 st) (BitVec.ofNat 4 (f 0)) (bitOf (f 1) 0) (BitVec.ofNat 128 (ofBytes payload))
  | 3 => if st = Sys2Proof.Config.acceptedCode.toNat then .accepted else .performed (BitVec.ofNat 4 st)
  | _ => if bitOf (f 0) 0 then .redirect (BitVec.ofNat 20 (f 1)) (bitOf (f 0) 1) (f 2) else .retranslate

/-- An answer to a message that is still waited for. -/
def State.wireAck (s : State) (h : Nat) (payload : List Byte) : State :=
  match s.answeredBy h with
  | none => s
  | some x =>
    let xl := payloadField payload 3
    let a : Ack := { id := x.msg.id, kind := wireAnswer h payload, xlate := if bitOf xl 0 then some (xl / 2) else none }
    { s with acks := s.acks ++ [a] }

/-- The cumulative acknowledgement in a header: messages of the reverse stream before ACKSEQ have been decided, and are not sent
again. Each one's own answer still ends its operation with its status (R309, R322; log 113). -/
def SentMsg.coveredBy (h : Nat) (x : SentMsg) : SentMsg :=
  let back := x.msg.dnode.toNat = bitsOf h 172 20 && x.msg.dtwr.toNat = bitsOf h 231 3 && x.msg.stwr.toNat = bitsOf h 228 3
  let ahead := (BitVec.ofNat 32 (bitsOf h 96 32) - x.msg.seqNo).toNat
  if back && 0 < ahead && ahead < 2 ^ 31 then { x with resent := true } else x

/-- R322, R323: a datagram of this version for this node whose tag verifies under the key of the pair of pods, with a payload
of at most 4,096 bytes of the length that its header says, delivers the item that it carries. Any other is discarded
uncounted. A status that R34 does not know makes an answer no answer. -/
def execSahlinDatagram (dg : Datagram) (s : State) : Host.Outcome State Fault Refusal :=
  .next (
    let h := dg.header.toNat
    let key := tabGet ShlKey.reset (bitsOf h 172 20 / 512) s.shlkeys
    let good := dg.tagCurrent || (dg.tagPrevious && key.takesOld s.now)
    let type := bitsOf h 248 4
    let st := bitsOf h 144 5
    if !good || bitsOf h 252 4 ≠ 1 || bitsOf h 152 20 ≠ s.node.toNat || bitsOf h 128 16 ≠ dg.payload.length
        || 4096 < dg.payload.length then s
    else
      let s := { s with shlrx := s.shlrx ++ [(dg.header, dg.payload)], sent := s.sent.map (SentMsg.coveredBy h) }
      if type = 0 || type = 2 then match classOf (bitsOf h 224 4) with
        | none => s
        | some cls => { s with inbound := s.inbound ++ [s.wireMsg h dg.payload cls (decide (type = 2))], fresh := s.fresh + 1 }
      else if type = 1 || type = 3 || type = 7 then
        (if type = 1 && 11 < st || type = 3 && 11 < st && st ≠ Sys2Proof.Config.acceptedCode.toNat then s else s.wireAck h dg.payload)
      else if type ≤ 6 then { s with waves := s.waves ++ [s.wirePacket h dg.payload] }
      else s)

end Sys2Proof.Machine
end

