-- ==== Sys2Proof/Machine/Outside.lean ====
section
/-! DEFINITION. What reaches the package from outside, and the passing of time (logs 4, 5). -/

namespace Sys2Proof.Machine

/-- The instruction is a step of the package that no word encodes. -/
def isEvent (i : Instr) : Bool := (encode i).isNone

/-- A translation invalidation arrives from a target, or a sharer's acknowledgement of one that was sent (R320). -/
def State.receiveInval (s : State) (v : Inval) : State :=
  if v.acked then
    { s with invals := s.invals.filter fun w =>
        !(w.out && w.node = v.node && w.target = v.target && w.job = v.job && w.page = v.page && w.flood = v.flood) }
  else { s with invals := s.invals ++ [v] }

/-- The oldest event of a host core is told to the host by MSI-X, where the host has enabled it (R324). -/
def State.tellHost (s : State) (port col : Nat) : State :=
  match (s.host col).q6 with
  | [] => s
  | r :: _ => s.modPcie port fun p =>
      if p.inReset || !p.msixOn.contains col then p else { p with msix := p.msix ++ [(col, r)] }

/-- An agenda entry that is no step of the opcode table and no issue. -/
def State.outside (s : State) : Agenda → State
  | .elapse ns => { (s.noteAllHeads).noteIdle ns with now := s.now + ns }
  | .evictTlb n => { s with tlb := delAt n s.tlb }
  | .evictRo core line => s.modCore core fun c => { c with roCache := tabDel line c.roCache }
  | .evictL1 agent line => s.leaveL1 agent line
  | .evictIcache col line => s.modHost col fun h => { h with icache := tabDel line h.icache }
  | .receive m => { s with inbound := s.inbound ++ [m] }
  | .receiveLaunch l => { s with launches := s.launches ++ [l] }
  | .receiveAck a => { s with acks := s.acks ++ [a] }
  | .receiveInval v => s.receiveInval v
  | .receiveWave w => { s with waves := s.waves ++ [w] }
  | .towerSnapshot job tower => s.towerSnapshot job tower
  | .inject src dst what cause => s.injectPacket src dst what cause
  | .credit output chan nonmin => s.addCredit output chan nonmin
  | .flitTaken plane id => s.modPlane plane (Plane.taken id)
  | .planeKey plane key =>
    if s.hertor.portSessions.contains plane then s.modPlane plane fun p => { p with rx := key, rxOld := some p.rx } else s
  | .deliverKey plane => s.deliverKey plane
  | .moveLine stack found => s.moveLine stack found
  | .planeRetire plane => s.modPlane plane fun p => { p with rxOld := none }
  | .msix port col => s.tellHost port col
  | .storageError site found => s.storageError site found
  | .event _ => s
  | .issue _ => s

end Sys2Proof.Machine
end

