-- ==== Sys2Proof/Machine/Crypto.lean ====
section
/-! DEFINITION. The hash and the two signature schemes that accept() of R352 names: SHA-384, RSASSA-PSS and
SLH-DSA-SHA2-192s. PRESUMED (log 123): the spec gives their names and parameters; their steps are those of the public
standards FIPS 180-4, RFC 8017 and FIPS 205. -/

namespace Sys2Proof.Machine

/-! ### SHA-2 -/

/-- What a hash of the SHA-2 family fixes beside its first value: rounds, the rotations of the four functions (the third of the
small ones is a shift), and the round constants. -/
structure ShaKind (w : Nat) where
  rounds : Nat
  big0 : Nat × Nat × Nat
  big1 : Nat × Nat × Nat
  small0 : Nat × Nat × Nat
  small1 : Nat × Nat × Nat
  consts : List (BitVec w)

/-- The three rotations of a word together. -/
def shaBig {w : Nat} (r : Nat × Nat × Nat) (x : BitVec w) : BitVec w :=
  x.rotateRight r.1 ^^^ x.rotateRight r.2.1 ^^^ x.rotateRight r.2.2

/-- Two rotations and a shift of a word together. -/
def shaSmall {w : Nat} (r : Nat × Nat × Nat) (x : BitVec w) : BitVec w :=
  x.rotateRight r.1 ^^^ x.rotateRight r.2.1 ^^^ (x >>> r.2.2)

/-- `n` further words of the message schedule, the newest first. -/
def shaSchedule {w : Nat} (k : ShaKind w) : Nat → List (BitVec w) → List (BitVec w)
  | 0, ws => ws
  | n + 1, ws =>
    let x := shaSmall k.small1 (ws.getD 1 0) + ws.getD 6 0 + shaSmall k.small0 (ws.getD 14 0) + ws.getD 15 0
    shaSchedule k n (x :: ws)

/-- One round on the eight working words. -/
def shaRound {w : Nat} (k : ShaKind w) (v : List (BitVec w)) (x : BitVec w × BitVec w) : List (BitVec w) :=
  let a := v.getD 0 0
  let b := v.getD 1 0
  let c := v.getD 2 0
  let e := v.getD 4 0
  let f := v.getD 5 0
  let g := v.getD 6 0
  let t1 := v.getD 7 0 + shaBig k.big1 e + ((e &&& f) ^^^ (~~~e &&& g)) + x.1 + x.2
  let t2 := shaBig k.big0 a + ((a &&& b) ^^^ (a &&& c) ^^^ (b &&& c))
  [t1 + t2, a, b, c, v.getD 3 0 + t1, e, f, g]

/-- The bytes of a number, the most significant first. -/
def bigBytes (n x : Nat) : List Byte := (toBytes n x).reverse

/-- The number that bytes spell, the most significant first. -/
def ofBigBytes (bs : List Byte) : Nat := ofBytes bs.reverse

/-- The hash value after one block. -/
def shaBlock {w : Nat} (k : ShaKind w) (h : List (BitVec w)) (block : List Byte) : List (BitVec w) :=
  let word := fun i => BitVec.ofNat w (ofBigBytes ((block.drop (w / 8 * i)).take (w / 8)))
  let ws := (shaSchedule k (k.rounds - 16) ((upto 16).map word).reverse).reverse
  (h.zip ((k.consts.zip ws).foldl (shaRound k) h)).map fun p => p.1 + p.2

/-- A message with its padding: a 1 bit, zeros, and its length in bits in the last 2 words of a block. -/
def shaPad (w : Nat) (bs : List Byte) : List Byte :=
  let size := 2 * w
  let fill := (2 * size - 1 - w / 4 - bs.length % size) % size
  bs ++ (0x80 : Byte) :: zeros fill ++ bigBytes (w / 4) (8 * bs.length)

/-- The hash of a message: blocks of 16 words, from a first value. -/
def shaHash {w : Nat} (k : ShaKind w) (first : List (BitVec w)) (bs : List Byte) : List Byte :=
  let m := shaPad w bs
  let h := (upto (m.length / (2 * w))).foldl (fun h i => shaBlock k h ((m.drop (2 * w * i)).take (2 * w))) first
  h.flatMap fun x => bigBytes (w / 8) x.toNat

/-- Round constants 0 to 19. -/
def shaK0 : List DWord :=
  [0x428A2F98D728AE22, 0x7137449123EF65CD, 0xB5C0FBCFEC4D3B2F, 0xE9B5DBA58189DBBC,
   0x3956C25BF348B538, 0x59F111F1B605D019, 0x923F82A4AF194F9B, 0xAB1C5ED5DA6D8118,
   0xD807AA98A3030242, 0x12835B0145706FBE, 0x243185BE4EE4B28C, 0x550C7DC3D5FFB4E2,
   0x72BE5D74F27B896F, 0x80DEB1FE3B1696B1, 0x9BDC06A725C71235, 0xC19BF174CF692694,
   0xE49B69C19EF14AD2, 0xEFBE4786384F25E3, 0x0FC19DC68B8CD5B5, 0x240CA1CC77AC9C65]

/-- Round constants 20 to 39. -/
def shaK1 : List DWord :=
  [0x2DE92C6F592B0275, 0x4A7484AA6EA6E483, 0x5CB0A9DCBD41FBD4, 0x76F988DA831153B5,
   0x983E5152EE66DFAB, 0xA831C66D2DB43210, 0xB00327C898FB213F, 0xBF597FC7BEEF0EE4,
   0xC6E00BF33DA88FC2, 0xD5A79147930AA725, 0x06CA6351E003826F, 0x142929670A0E6E70,
   0x27B70A8546D22FFC, 0x2E1B21385C26C926, 0x4D2C6DFC5AC42AED, 0x53380D139D95B3DF,
   0x650A73548BAF63DE, 0x766A0ABB3C77B2A8, 0x81C2C92E47EDAEE6, 0x92722C851482353B]

/-- Round constants 40 to 59. -/
def shaK2 : List DWord :=
  [0xA2BFE8A14CF10364, 0xA81A664BBC423001, 0xC24B8B70D0F89791, 0xC76C51A30654BE30,
   0xD192E819D6EF5218, 0xD69906245565A910, 0xF40E35855771202A, 0x106AA07032BBD1B8,
   0x19A4C116B8D2D0C8, 0x1E376C085141AB53, 0x2748774CDF8EEB99, 0x34B0BCB5E19B48A8,
   0x391C0CB3C5C95A63, 0x4ED8AA4AE3418ACB, 0x5B9CCA4F7763E373, 0x682E6FF3D6B2B8A3,
   0x748F82EE5DEFB2FC, 0x78A5636F43172F60, 0x84C87814A1F0AB72, 0x8CC702081A6439EC]

/-- Round constants 60 to 79. -/
def shaK3 : List DWord :=
  [0x90BEFFFA23631E28, 0xA4506CEBDE82BDE9, 0xBEF9A3F7B2C67915, 0xC67178F2E372532B,
   0xCA273ECEEA26619C, 0xD186B8C721C0C207, 0xEADA7DD6CDE0EB1E, 0xF57D4F7FEE6ED178,
   0x06F067AA72176FBA, 0x0A637DC5A2C898A6, 0x113F9804BEF90DAE, 0x1B710B35131C471B,
   0x28DB77F523047D84, 0x32CAAB7B40C72493, 0x3C9EBE0A15C9BEBC, 0x431D67C49C100D4C,
   0x4CC5D4BECB3E42B6, 0x597F299CFC657E2A, 0x5FCB6FAB3AD6FAEC, 0x6C44198C4A475817]

/-- The kind with words of 64 bits. -/
def sha64 : ShaKind 64 :=
  { rounds := 80, big0 := (28, 34, 39), big1 := (14, 18, 41), small0 := (1, 8, 7), small1 := (19, 61, 6)
    consts := shaK0 ++ shaK1 ++ shaK2 ++ shaK3 }

/-- The kind with words of 32 bits: its constants are the upper halves of the first 64. -/
def sha32 : ShaKind 32 :=
  { rounds := 64, big0 := (2, 13, 22), big1 := (6, 11, 25), small0 := (7, 18, 3), small1 := (17, 19, 10)
    consts := (sha64.consts.take 64).map fun (x : DWord) => (x >>> 32).setWidth 32 }

/-- First value of SHA-512. -/
def sha512First : List DWord :=
  [0x6A09E667F3BCC908, 0xBB67AE8584CAA73B, 0x3C6EF372FE94F82B, 0xA54FF53A5F1D36F1,
   0x510E527FADE682D1, 0x9B05688C2B3E6C1F, 0x1F83D9ABFB41BD6B, 0x5BE0CD19137E2179]

/-- First value of SHA-384. -/
def sha384First : List DWord :=
  [0xCBBB9D5DC1059ED8, 0x629A292A367CD507, 0x9159015A3070DD17, 0x152FECD8F70E5939,
   0x67332667FFC00B31, 0x8EB44A8768581511, 0xDB0C2E0D64F98FA7, 0x47B5481DBEFA4FA4]

/-- SHA-512 of bytes. -/
def sha512 (bs : List Byte) : List Byte := shaHash sha64 sha512First bs

/-- SHA-384 of bytes (R352). -/
def sha384 (bs : List Byte) : List Byte := (shaHash sha64 sha384First bs).take 48

/-- SHA-256 of bytes; its first value is the upper half of that of SHA-512. -/
def sha256 (bs : List Byte) : List Byte := shaHash sha32 (sha512First.map fun (x : DWord) => (x >>> 32).setWidth 32) bs

/-- The mask generation function MGF1 over a hash of `size` bytes. -/
def mgf1 (hash : List Byte → List Byte) (size : Nat) (seed : List Byte) (n : Nat) : List Byte :=
  ((upto ((n + size - 1) / size)).flatMap fun i => hash (seed ++ bigBytes 4 i)).take n

/-! ### RSASSA-PSS with SHA-384, a salt of 48 bytes and the exponent 65,537 (R352) -/

/-- `n` squarings of a number modulo `m`. -/
def squareMod (m : Nat) : Nat → Nat → Nat
  | 0, x => x % m
  | n + 1, x => squareMod m n (x * x % m)

/-- An encoded message of `bits` bits is that of a hash value. -/
def pssHolds (bits : Nat) (em mHash : List Byte) : Bool :=
  let size := (bits + 7) / 8
  let n := size - 49
  let h := (em.drop n).take 48
  let top := 2 ^ (8 - (8 * size - bits))
  let db := ((em.take n).zip (mgf1 sha384 48 h n)).map fun p => p.1 ^^^ p.2
  let db := db.mapIdx fun i b => if i = 0 then BitVec.ofNat 8 (b.toNat % top) else b
  98 ≤ size && em.getLast? = some 0xBC && (em.headD 0).toNat < top && db.take (n - 49) = zeros (n - 49)
    && db.getD (n - 49) 0 = 1 && h = sha384 (zeros 8 ++ mHash ++ db.drop (n - 48))

/-- A signature of a message holds under a modulus; both numbers are little-endian, as fields of a header are. -/
def rsaPssVerify (modulus signature msg : List Byte) : Bool :=
  let n := ofBytes modulus
  let x := ofBytes signature
  let bits := bitLen n - 1
  let em := squareMod n 16 x * x % n
  x < n && em < 256 ^ ((bits + 7) / 8) && pssHolds bits (bigBytes ((bits + 7) / 8) em) (sha384 msg)

/-! ### SLH-DSA-SHA2-192s (R352): values of 24 bytes, 7 layers of trees of height 9, 17 FORS trees of height 14 -/

/-- An address in its short form of 22 bytes: layer, tree, type and three words. -/
structure SlhAddr where
  layer : Nat
  tree : Nat
  type : Nat
  a : Nat
  b : Nat
  c : Nat

/-- The bytes of an address. -/
def SlhAddr.bytes (x : SlhAddr) : List Byte :=
  bigBytes 1 x.layer ++ bigBytes 8 x.tree ++ bigBytes 1 x.type ++ bigBytes 4 x.a ++ bigBytes 4 x.b ++ bigBytes 4 x.c

/-- The function F: of one value. -/
def slhF (seed : List Byte) (x : SlhAddr) (m : List Byte) : List Byte := (sha256 (seed ++ zeros 40 ++ x.bytes ++ m)).take 24

/-- The functions H and T: of several values. -/
def slhT (seed : List Byte) (x : SlhAddr) (m : List Byte) : List Byte := (sha512 (seed ++ zeros 104 ++ x.bytes ++ m)).take 24

/-- Value `i` of a run of values of 24 bytes. -/
def slhPart (bs : List Byte) (i : Nat) : List Byte := (bs.drop (24 * i)).take 24

/-- `n` digits of `b` bits, the most significant first. -/
def slhDigits (bs : List Byte) (b n : Nat) : List Nat :=
  let x := ofBigBytes bs
  (upto n).map fun i => bitsOf x (8 * bs.length - b * (i + 1)) b

/-- `n` steps of a chain from position `i`. -/
def slhChain (seed : List Byte) (x : SlhAddr) : Nat → Nat → List Byte → List Byte
  | 0, _, m => m
  | n + 1, i, m => slhChain seed x n (i + 1) (slhF seed { x with c := i } m)

/-- A root from a leaf number, a value and the values beside its path; the address keeps layer, tree, type and first word. -/
def slhRoot (seed : List Byte) (x : SlhAddr) (leaf : Nat) (path : List (List Byte)) (m : List Byte) : List Byte :=
  (path.foldl (fun (p : Nat × List Byte) q =>
    let i := leaf / 2 ^ p.1
    (p.1 + 1, slhT seed { x with b := p.1 + 1, c := i / 2 } (if i % 2 = 0 then p.2 ++ q else q ++ p.2))) (0, m)).2

/-- The key of a one-time signature: 48 digits of the value, then 3 of their check sum. -/
def slhWots (seed : List Byte) (layer tree leaf : Nat) (sig m : List Byte) : List Byte :=
  let ds := slhDigits m 4 48
  let sum := sumNat (ds.map fun d => 15 - d)
  let ds := ds ++ slhDigits (bigBytes 2 (16 * sum)) 4 3
  let ends := ds.mapIdx fun i d =>
    slhChain seed { layer := layer, tree := tree, type := 0, a := leaf, b := i, c := 0 } (15 - d) d (slhPart sig i)
  slhT seed { layer := layer, tree := tree, type := 1, a := leaf, b := 0, c := 0 } ends.flatten

/-- The root of the tree of one layer: a one-time signature of 51 values and a path of 9. -/
def slhLayer (seed : List Byte) (layer tree leaf : Nat) (sig m : List Byte) : List Byte :=
  slhRoot seed { layer := layer, tree := tree, type := 2, a := 0, b := 0, c := 0 } leaf
    ((upto 9).map fun i => slhPart sig (51 + i)) (slhWots seed layer tree leaf sig m)

/-- The root of the topmost of the 7 layers: each layer's leaf number is 9 bits of the tree number below. -/
def slhTop (seed sig : List Byte) (tree leaf : Nat) (m : List Byte) : List Byte :=
  ((upto 7).foldl (fun (p : Nat × Nat × List Byte) j =>
    (p.1 / 512, p.1 % 512, slhLayer seed j p.1 p.2.1 (sig.drop (1440 * j)) p.2.2)) (tree, leaf, m)).2.2

/-- The key of a FORS signature: 17 trees, each with a value and a path of 14. -/
def slhFors (seed sig : List Byte) (tree leaf : Nat) (md : List Byte) : List Byte :=
  let x : SlhAddr := { layer := 0, tree := tree, type := 3, a := leaf, b := 0, c := 0 }
  let roots := (slhDigits md 14 17).mapIdx fun i d =>
    let n := 2 ^ 14 * i + d
    slhRoot seed x n ((upto 14).map fun j => slhPart sig (15 * i + 1 + j)) (slhF seed { x with c := n } (slhPart sig (15 * i)))
  slhT seed { x with type := 4 } roots.flatten

/-- A signature of a message holds under a public key: pure, with an empty context. -/
def slhDsaVerify (key signature msg : List Byte) : Bool :=
  let seed := slhPart key 0
  let r := slhPart signature 0
  let digest := mgf1 sha512 64 (r ++ seed ++ sha512 (r ++ seed ++ slhPart key 1 ++ zeros 2 ++ msg)) 39
  let tree := ofBigBytes ((digest.drop 30).take 7) % 2 ^ 54
  let leaf := ofBigBytes (digest.drop 37) % 2 ^ 9
  let fors := slhFors seed (signature.drop 24) tree leaf (digest.take 30)
  signature.length = 16224 && slhTop seed (signature.drop 6144) tree leaf fors = slhPart key 1

end Sys2Proof.Machine
end

