-- ==== Sys2Proof/Machine/Bringup.lean ====
section
/-! DEFINITION. The secure controller, firmware images, power and reset of the package, PCIe requests and SPDM (R2, R324,
R325, R343, R352 to R359). -/

namespace Sys2Proof.Machine

/-! ### Images (R352) -/

/-- Bytes `o` to `o + n - 1`. -/
def sliceOf (bs : List Byte) (o n : Nat) : List Byte := (bs.drop o).take n

/-- A little-endian field of a header. -/
def fieldOf (bs : List Byte) (o n : Nat) : Nat := ofBytes (sliceOf bs o n)

/-- TYPE of an image. -/
def imageType (bs : List Byte) : Nat := fieldOf bs 4 2
/-- FLAGS of an image. -/
def imageFlags (bs : List Byte) : Nat := fieldOf bs 6 2
/-- Security version of an image. -/
def imageSvn (bs : List Byte) : Nat := fieldOf bs 8 4
/-- KSLOT of an image. -/
def imageSlot (bs : List Byte) : Nat := fieldOf bs 0x50 1
/-- Payload of an image. -/
def imagePayload (bs : List Byte) : List Byte := sliceOf bs 0x4400 (fieldOf bs 0xC 4)

/-- Why a copy is not accepted, with the failure codes of R359. -/
inductive Verdict where
  | accepted
  | unverified
  | rollback
  | missing
  deriving DecidableEq, Repr

/-- Failure code of the boot status word. -/
def Verdict.code : Verdict → BitVec 16
  | .accepted => 0
  | .unverified => 1
  | .rollback => 2
  | .missing => 4

/-- First 16 bytes of SHA-384 of the identity key. -/
def partBind : Nat := ofBytes ((sha384 Sys2Proof.Config.identityKey).take 16)

/-- MAGIC, TYPE, reserved fields and BIND of a header. -/
def headerGood (ty : Nat) (bs : List Byte) : Bool :=
  let bind := fieldOf bs 0x10 16
  fieldOf bs 0 4 = 0x41443849 && imageType bs = ty && imageFlags bs < 4 && imageSlot bs < 4
    && fieldOf bs 0x51 47 = 0 && fieldOf bs 0x230 208 = 0 && (if bind = 0 then ty ≠ 4 else bind = partBind)

/-- The keys of a header are those of an unrevoked slot, and both signatures and the digest hold. -/
def Hertor.signedGood (h : Hertor) (bs : List Byte) : Bool :=
  let k := imageSlot bs
  let hdr := sliceOf bs 0 0x300
  !h.revoked.getLsbD k
    && ofBytes (sha384 (sliceOf bs 0x80 384)) = (Sys2Proof.Config.fusedHash false k).toNat
    && ofBytes (sha384 (sliceOf bs 0x200 48)) = (Sys2Proof.Config.fusedHash true k).toNat
    && rsaPssVerify (sliceOf bs 0x80 384) (sliceOf bs 0x300 384) hdr
    && slhDsaVerify (sliceOf bs 0x200 48) (sliceOf bs 0x480 16224) hdr
    && sha384 (imagePayload bs) = sliceOf bs 0x20 48

/-- Acceptance of a copy of a TYPE. -/
def Hertor.accept (h : Hertor) (ty : Nat) (bs : List Byte) : Verdict :=
  if bs.length < 0x4400 || (imagePayload bs).length < fieldOf bs 0xC 4 then .missing
  else if !headerGood ty bs || !h.signedGood bs then .unverified
  else if imageSvn bs < (tabGet 0 ty h.minsvn).toNat then .rollback
  else .accepted

/-- Copy A, then copy B, of a TYPE: the copy that is accepted, or the verdict on the last one. -/
def Hertor.firstGood (h : Hertor) (ty : Nat) : List FlashCopy → Verdict × Option FlashCopy
  | [] => (.missing, none)
  | [c] => match h.accept ty c.bytes with
    | .accepted => (.accepted, some c)
    | v => (v, none)
  | c :: t => match h.accept ty c.bytes with
    | .accepted => (.accepted, some c)
    | _ => h.firstGood ty t

/-! ### Boot (R354, R358, R359) -/

/-- A boot that stops at a step with a failure code asserts `MALRT`. -/
def Hertor.stop (h : Hertor) (step : Nat) (code : BitVec 16) : Hertor :=
  { h with step := BitVec.ofNat 32 step, failure := code, malrt := true }

/-- A TYPE tried at a step. -/
def Hertor.load (h : Hertor) (ty : Nat) : Verdict × Hertor :=
  match h.firstGood ty (tabGet [] ty h.flash) with
  | (v, some c) => (v, { h with accepted := tabSet ty c h.accepted })
  | (v, none) => (v, h)

/-- What the accepted configuration record fixes; without engine microcode every column is held retired. -/
def Hertor.configure (h : Hertor) (microcode : Bool) : Hertor :=
  let p := match tabFind 4 h.accepted with
    | none => []
    | some c => imagePayload c.bytes
  { h with
    serial := Sys2Proof.Config.recordSerial p
    calibration := Sys2Proof.Config.recordCalibration p
    cfgRetired := (upto 8).map fun t =>
      (t, if microcode then Sys2Proof.Config.recordColumns p t else BitVec.allOnes 16)
    cfgChannels := (upto 16).map fun k => (k, (Sys2Proof.Config.recordChannels p k).setWidth 64)
    malrt := h.malrt || !microcode }

/-- The alias key, from the identity key and the digests of the accepted images, and its certificate (R354). -/
def Hertor.withAlias (h : Hertor) : Hertor :=
  let key := Sys2Proof.Config.aliasKey (h.accepted.map fun e => sliceOf e.2.bytes 0x20 48)
  { h with aliasKey := some (key, Sys2Proof.Config.certificate key) }

/-- What Hertor loses when it starts again: accepted images, keys and sessions. -/
def Hertor.cleared (h : Hertor) : Hertor :=
  { h with accepted := [], calibration := [], aliasKey := none, portSessions := [], keysOut := [], sessions := 0, answers := [] }

/-- Steps 1 to 4: Hertor runs, the images are accepted, and `HRDY` is asserted. -/
def Hertor.boot (h : Hertor) : Hertor :=
  let h := { h.cleared with aux := true, hrdy := false, malrt := false, step := 2, failure := 0 }
  match h.load 1 with
  | (.accepted, h) => match h.load 4 with
    | (.accepted, h) => match h.load 2 with
      | (.accepted, h) =>
        let (v, h) := h.load 3
        let h := (h.configure (decide (v = .accepted))).withAlias
        { h with hrdy := true, step := 4 }
      | (v, h) => h.stop 3 v.code
    | (v, h) => h.stop 3 v.code
  | (v, h) => h.stop 2 v.code

/-- Security versions committed by the accepted images (R352). -/
def commitSvns (acc : Tab FlashCopy) (m : Tab Word) : Tab Word :=
  acc.foldl (fun m e =>
    let svn := BitVec.ofNat 32 (imageSvn e.2.bytes)
    if bitOf (imageFlags e.2.bytes) 0 then tabMod 0 e.1 (fun x => if x < svn then svn else x) m else m) m

/-- Key slots below that of an accepted TYPE 1 image with REVLOWER (R353). -/
def revokedBy (acc : Tab FlashCopy) : BitVec 4 :=
  match tabFind 1 acc with
  | none => 0
  | some c => if bitOf (imageFlags c.bytes) 1 then BitVec.ofNat 4 (2 ^ imageSlot c.bytes - 1) else 0

/-- Steps 7 and 8: a session with each switch port is open, versions are committed, slots revoked, and boot is complete. -/
def Hertor.finish (h : Hertor) : Hertor :=
  { h with
    main := true, step := 8, failure := 0
    portSessions := upto 32
    minsvn := commitSvns h.accepted h.minsvn
    revoked := h.revoked ||| revokedBy h.accepted
    kslot := match tabFind 1 h.accepted with
      | none => h.kslot
      | some c => BitVec.ofNat 2 (imageSlot c.bytes) }

/-- The package as bring-up leaves it (steps 5 to 8), with its columns and channels as the configuration record says. What
lies outside the package stays. -/
def State.broughtUp (s : State) (h : Hertor) : State :=
  let gone := fun (c : Nat) => (tabGet 0 (c / 16) h.cfgRetired).getLsbD (c % 16)
  let col := fun (c : Nat) =>
    { Column.reset s.now with errSince := s.now, svc := { Service.reset with retired := gone c } }
  let stack := fun (k : Nat) =>
    let r : Word := (tabGet 0 k h.cfgChannels).setWidth 32
    { Stack.reset with retired := r, range31gone := r != 0 }
  { State.reset with
    cur := s.cur, agenda := s.agenda, fresh := s.fresh, now := s.now, node := s.node, claims := s.claims, hertor := h
    cols := (upto 128).map fun c => (c, col c)
    hbm := (upto 16).map fun k => (k, stack k) }

/-- The package held in reset or without main power: no host core runs. -/
def State.heldDown (s : State) (h : Hertor) : State :=
  let t := s.broughtUp h
  { t with
    links := 0
    cols := tabMap (fun _ (c : Column) => { c with host := { c.host with stopped := true } }) t.cols }

/-- R359: the auxiliary input powers Hertor, which boots. -/
def execAuxPowerOn (s : State) : Host.Outcome State Fault Refusal :=
  .next (if s.hertor.aux then s else s.heldDown s.hertor.boot)

/-- R359, R343: the main input is applied after `HRDY`; a failed training of HBM holds the towers in reset. -/
def execMainPowerOn (trained : Bool) (s : State) : Host.Outcome State Fault Refusal :=
  .next (
    let h := s.hertor
    if !h.aux || !h.hrdy || h.main || h.mrstnLow then s
    else if trained then s.broughtUp h.finish
    else s.heldDown ({ h with main := true }.stop 5 3))

/-- R358: `MRSTN` holds the package in reset while it is low; bring-up runs when it rises. -/
def execMrstn (low : Bool) (s : State) : Host.Outcome State Fault Refusal :=
  .next (
    let h := s.hertor
    if low then s.heldDown { h with mrstnLow := true, hrdy := false, step := 0, failure := 0 }
    else if !h.mrstnLow then s
    else
      let h := { h with mrstnLow := false }
      if !h.aux then { s with hertor := h }
      else
        let b := h.boot
        if b.hrdy && h.main then s.broughtUp b.finish else s.heldDown b)

/-- R343: the main input goes first, then the auxiliary one. -/
def execPowerRemoval (aux : Bool) (s : State) : Host.Outcome State Fault Refusal :=
  .next (
    let h := s.hertor
    if aux then
      if h.main || !h.aux then s
      else s.heldDown { h.cleared with aux := false, hrdy := false, malrt := false, step := 0, failure := 0 }
    else if h.main then s.heldDown { h with main := false, step := 4, portSessions := [] } else s)

/-! ### The image of a column (R355) -/

/-- R355: the image at `COLIMG` of a column is verified, and staged for its next RESET. -/
def execColsvcLoad (_col target : Nat) (s : State) : Host.Outcome State Fault Refusal :=
  .next (
    let v := (s.col target).svc
    let bs := s.physRead v.image.toNat (0x4400 + ofBytes (s.physRead (v.image.toNat + 0xC) 4))
    let ty := imageType bs
    if !(s.col target).works then s.modSvc target fun v => { v with status := stBUSY }
    else if (ty = 2 || ty = 3) && s.hertor.accept ty bs = .accepted then
      s.modSvc target fun v => { v with staged := some (BitVec.ofNat 16 ty, BitVec.ofNat 32 (imageSvn bs)), status := stOK }
    else s.modSvc target fun v => { v with status := stDENIED })

/-! ### PCIe and CXL (R324, R325, R358) -/

/-- Bytes written into HBM from outside: no cache keeps an older copy, and memory gauges count them. -/
def State.inboundWrite (s : State) (pa : Nat) (bs : List Byte) : State :=
  let s := (linesOf pa bs.length).foldl State.dropLine s
  (bs.mapIdx fun i b => (i, b)).foldl (fun s e => s.physWrite (pa + e.1) [e.2]) s |>.countWrite pa bs.length

/-- The port that owns a window address (R245, R308). -/
def State.portOf (_s : State) (pa : Nat) : Nat := if pa < 2 ^ 51 then 0 else 1

/-- An answer to the host. -/
def State.answerHost (s : State) (port : Nat) (bs : List Byte) : State :=
  s.modPcie port fun p => { p with answers := p.answers ++ [bs] }

/-- A line of HBM read through CXL.mem: its owner keeps it shared, and the host holds it until it is told otherwise (R325). -/
def State.hostReads (s : State) (port pa : Nat) : State :=
  let t := (s.agentRead pa 128).answerHost port (s.physRead pa 128)
  t.modPcie port fun p => { p with held := insertNat (pa / 128) p.held }

/-- R324, R325: a request of the host through BAR 0 (device registers), BAR 2 (HBM), CXL.mem or CXL.cache, or an access of a
device behind the port. The mailbox gives no answer (log 16). -/
def execPcieInboundRequest (port : Nat) (req : PcieReq) (s : State) : Host.Outcome State Fault Refusal :=
  .next (
    if 2 ≤ port || (tabGet PciePort.reset port s.pcie).inReset || !s.hertor.aux then s
    else match req with
      | .read bar off len =>
        if bar = 0 && off + len ≤ 2 ^ 32 && !inMailbox (deviceBase + off) then s.answerHost port (s.physRead (deviceBase + off) len)
        else if bar = 2 && off + len ≤ 2 ^ 40 then (s.agentRead off len).answerHost port (s.physRead off len)
        else s
      | .write bar off bytes => if bar = 2 && off + bytes.length ≤ 2 ^ 40 then s.inboundWrite off bytes else s
      | .memRead pa => if pa < 2 ^ 40 then s.hostReads port (pa / 128 * 128) else s
      | .memWrite pa bytes => if pa / 128 * 128 + bytes.length ≤ 2 ^ 40 then s.inboundWrite (pa / 128 * 128) bytes else s
      | .deviceWrite pa bytes => if pa + bytes.length ≤ 2 ^ 40 then s.inboundWrite pa bytes else s
      | .deviceRead pa len => if pa + len ≤ 2 ^ 40 then (s.agentRead pa len).answerHost port (s.physRead pa len) else s
      | .takeBack pa => if s.place pa = .window && s.portOf pa = port then s.dropLine (pa / 128) else s
      | .msixEnable col on => s.modPcie port fun p =>
          { p with msixOn := if on then insertNat col p.msixOn else p.msixOn.filter (· ≠ col) })

/-- R358: a PCIe port is held in reset while its signal is low. -/
def execPerstn (port : Nat) (low : Bool) (s : State) : Host.Outcome State Fault Refusal :=
  .next (s.modPcie port fun p => if low then { PciePort.reset with inReset := true } else { p with inReset := false })

/-! ### SPDM (R354) -/

/-- A measurement: 1 to 4 the digests of the accepted images, 5 MINSVN of each TYPE, 6 REVOKED and KSLOT. -/
def Hertor.measure (h : Hertor) (i : Nat) : Option (List Byte) :=
  if 1 ≤ i && i ≤ 4 then (tabFind i h.accepted).map fun c => toBytes 48 (fieldOf c.bytes 0x20 48)
  else if i = 5 then some ([1, 2, 3, 4].flatMap fun ty => toBytes 4 (tabGet 0 ty h.minsvn).toNat)
  else if i = 6 then
    some [BitVec.ofNat 8 h.revoked.toNat, BitVec.ofNat 8 (match tabFind 1 h.accepted with
      | none => h.kslot.toNat
      | some c => imageSlot c.bytes)]
  else none

/-- The certificates that Hertor shows: the identity key's, and the alias key's under it (R354). -/
def Hertor.chain (h : Hertor) : List Byte :=
  Sys2Proof.Config.identityCertificate ++ match h.aliasKey with
    | none => []
    | some k => k.2

/-- An answer's content signed with the alias key (R354). -/
def Hertor.signed (h : Hertor) (bs : List Byte) : List Byte :=
  bs ++ match h.aliasKey with
    | none => []
    | some k => Sys2Proof.Config.aliasSign k.1 bs

/-- What Hertor says to a request: of messages whose content R354 does not give, a free value (log 15). -/
def Hertor.content (h : Hertor) : SpdmReq → Option (List Byte)
  | .getVersion => some (Sys2Proof.Config.spdmContent 0)
  | .getCapabilities => some (Sys2Proof.Config.spdmContent 1)
  | .negotiateAlgorithms => some (Sys2Proof.Config.spdmContent 2)
  | .getDigests => some (sha384 h.chain)
  | .getCertificate => some h.chain
  | .challenge => some (h.signed (Sys2Proof.Config.spdmContent 3))
  | .getMeasurements i => h.measure i
  | .keyExchange => some (h.signed (Sys2Proof.Config.spdmContent 4))
  | .finish => some (Sys2Proof.Config.spdmContent 5)
  | .other => none

/-- Hertor answers a request. -/
def Hertor.reply (h : Hertor) (r : SpdmReq) (bs : List Byte) : Hertor := { h with answers := h.answers ++ [(r, bs)] }

/-- R354: the requests that Hertor answers; FINISH ends the opening of a session. -/
def execSpdmRequest (req : SpdmReq) (s : State) : Host.Outcome State Fault Refusal :=
  .next (
    let h := s.hertor
    if !h.aux || h.mrstnLow then s
    else match h.content req with
      | none => s
      | some bs =>
        let h := h.reply req bs
        { s with hertor := if req = .finish then { h with sessions := h.sessions + 1 } else h })

end Sys2Proof.Machine
end

