-- ==== Sys2Proof/Machine/Integer.lean ====
section
/-! DEFINITION. Integer arithmetic, logic, bit fields, compares, immediates and predicate logic (R85 to R100). -/

namespace Sys2Proof.Machine

/-! ### Functions of W-bit values -/

/-- How the result of `add` and `sub` is brought to W bits (R88). -/
def saturate (n : Nat) (code : BitVec 3) (op : Int → Int → Int) (a b : BitVec n) : BitVec n :=
  match code.toNat with
  | 0 => BitVec.ofInt n (op a.toInt b.toInt)
  | 1 => BitVec.ofInt n (clampInt (-(2 ^ (n - 1))) (2 ^ (n - 1) - 1) (op a.toInt b.toInt))
  | _ => BitVec.ofInt n (clampInt 0 (2 ^ n - 1) (op a.toNat b.toNat))

/-- R88. -/
def opAdd (code : BitVec 3) (n : Nat) (a b : BitVec n) : BitVec n := saturate n code (· + ·) a b
/-- R88. -/
def opSub (code : BitVec 3) (n : Nat) (a b : BitVec n) : BitVec n := saturate n code (· - ·) a b
/-- R89: low half of the product. -/
def opMul (n : Nat) (a b : BitVec n) : BitVec n := a * b
/-- R89: bits [2W−1:W] of the signed product. -/
def opMulh (n : Nat) (a b : BitVec n) : BitVec n := BitVec.ofInt n ((a.toInt * b.toInt) / 2 ^ n)
/-- R89: bits [2W−1:W] of the unsigned product. -/
def opMulhU (n : Nat) (a b : BitVec n) : BitVec n := BitVec.ofNat n (a.toNat * b.toNat / 2 ^ n)
/-- R90: the lesser, signed. -/
def opMin (n : Nat) (a b : BitVec n) : BitVec n := if a.toInt ≤ b.toInt then a else b
/-- R90: the greater, signed. -/
def opMax (n : Nat) (a b : BitVec n) : BitVec n := if b.toInt ≤ a.toInt then a else b
/-- R90: the lesser, unsigned. -/
def opMinU (n : Nat) (a b : BitVec n) : BitVec n := if a.toNat ≤ b.toNat then a else b
/-- R90: the greater, unsigned. -/
def opMaxU (n : Nat) (a b : BitVec n) : BitVec n := if b.toNat ≤ a.toNat then a else b
/-- R90: absolute value; that of −2^(W−1) is itself. -/
def opAbs (n : Nat) (a : BitVec n) : BitVec n := if a.msb then -a else a
/-- R90: number of 1 bits. -/
def opPopc (n : Nat) (a : BitVec n) : BitVec n := BitVec.ofNat n (popCount n a.toNat)
/-- R90: number of leading 0 bits. -/
def opClz (n : Nat) (a : BitVec n) : BitVec n := BitVec.ofNat n (n - bitLen a.toNat)
/-- R90: bit order reversed. -/
def opBrev (n : Nat) (a : BitVec n) : BitVec n := a.reverse
/-- R92. -/
def opShl (n : Nat) (a b : BitVec n) : BitVec n := if n ≤ b.toNat then 0 else a <<< b.toNat
/-- R92: zero fill. -/
def opShr (n : Nat) (a b : BitVec n) : BitVec n := if n ≤ b.toNat then 0 else a >>> b.toNat
/-- R92: sign fill. -/
def opSar (n : Nat) (a b : BitVec n) : BitVec n := a.sshiftRight (min b.toNat n)
/-- R92: rotation left by the amount mod W. -/
def opRot (n : Nat) (a b : BitVec n) : BitVec n := a.rotateLeft (b.toNat % n)
/-- R93: position [7:0] and length [15:8]. -/
def opBfx (signed : Bool) (n : Nat) (a b : BitVec n) : BitVec n :=
  let p := bitsOf b.toNat 0 8
  let len := bitsOf b.toNat 8 8
  let f := bitsOf a.toNat p (min len n)
  if signed && 0 < len && len ≤ n && f.testBit (len - 1) then BitVec.ofInt n ((f : Int) - 2 ^ len) else BitVec.ofNat n f
/-- R93: the low bits of `a` placed in `d`. -/
def opBfi (n : Nat) (a b d : BitVec n) : BitVec n :=
  let p := bitsOf b.toNat 0 8
  let len := bitsOf b.toNat 8 8
  let m : BitVec n := (BitVec.ofNat n (2 ^ (min len n) - 1)) <<< p
  (d &&& ~~~m) ||| ((a <<< p) &&& m)
/-- R94. -/
def opLea (sh : BitVec 3) (n : Nat) (a b : BitVec n) : BitVec n := a + (b <<< sh.toNat)
/-- R95: signed quotient, truncated toward 0. -/
def opDiv (n : Nat) (a b : BitVec n) : BitVec n := if b = 0 then BitVec.allOnes n else BitVec.ofInt n (a.toInt.tdiv b.toInt)
/-- R95: unsigned quotient. -/
def opDivU (n : Nat) (a b : BitVec n) : BitVec n := if b = 0 then BitVec.allOnes n else a / b
/-- R95: signed remainder, with the sign of `a`. -/
def opRem (n : Nat) (a b : BitVec n) : BitVec n := if b = 0 then a else BitVec.ofInt n (a.toInt.tmod b.toInt)
/-- R95: unsigned remainder. -/
def opRemU (n : Nat) (a b : BitVec n) : BitVec n := if b = 0 then a else a % b

/-- Compares of R97 on exact values: `eq`, `ne`, `lt`, `le`, `gt`, `ge`. -/
def cmpInt (cc : BitVec 3) (a b : Int) : Bool :=
  match cc.toNat with
  | 0 => a == b
  | 1 => a != b
  | 2 => a < b
  | 3 => a ≤ b
  | 4 => b < a
  | _ => b ≤ a

/-! ### Shared forms -/

/-- A two-source function applied in each lane at width `n`. -/
def lift2 (n : Nat) (f : (n : Nat) → BitVec n → BitVec n → BitVec n) (x y : Lanes) : Lanes :=
  fun l => (f n ((x l).setWidth n) ((y l).setWidth n)).setWidth 128

/-- A three-source function applied in each lane at width `n`. -/
def lift3 (n : Nat) (f : (n : Nat) → BitVec n → BitVec n → BitVec n → BitVec n) (x y z : Lanes) : Lanes :=
  fun l => (f n ((x l).setWidth n) ((y l).setWidth n) ((z l).setWidth n)).setWidth 128

/-- `d := f(a, b)` at the form's width (R85). -/
def aluBin (f : (n : Nat) → BitVec n → BitVec n → BitVec n) (d a b : RegNum) (alt : Bool) (s : State) : Res := do
  let w := s.width alt [d, a, b]
  let (xs, t) ← s.operands [srcAny a (w / 32), srcAny b (w / 32), dstAny d (w / 32)]
  .ok (t.writeOpd (dstAny d (w / 32)) (lift2 w f (nthLanes xs 0) (nthLanes xs 1))).advance

/-- `d := f(a)`. -/
def aluUn (f : (n : Nat) → BitVec n → BitVec n) (d a : RegNum) (alt : Bool) (s : State) : Res := do
  let w := s.width alt [d, a]
  let (xs, t) ← s.operands [srcAny a (w / 32), dstAny d (w / 32)]
  .ok (t.writeOpd (dstAny d (w / 32)) (lift2 w (fun n x _ => f n x) (nthLanes xs 0) (fun _ => 0))).advance

/-- `d := f(a, b, d)`: `d` is read as a third source (R89, R93). -/
def aluTri (f : (n : Nat) → BitVec n → BitVec n → BitVec n → BitVec n) (d a b : RegNum) (alt : Bool) (s : State) : Res := do
  let w := s.width alt [d, a, b]
  let (xs, t) ← s.operands [srcAny a (w / 32), srcAny b (w / 32), bothAny d (w / 32)]
  .ok (t.writeOpd (dstAny d (w / 32)) (lift3 w f (nthLanes xs 0) (nthLanes xs 1) (nthLanes xs 2))).advance

/-- A division, which sets DZ when a computing lane divides by zero (R87, R95). -/
def aluDiv (f : (n : Nat) → BitVec n → BitVec n → BitVec n) (d a b : RegNum) (alt : Bool) (s : State) : Res := do
  let w := s.width alt [d, a, b]
  let (xs, t) ← s.operands [srcAny a (w / 32), srcAny b (w / 32), dstAny d (w / 32)]
  let y := nthLanes xs 1
  let fl := orFlags (t.computing d) fun l => if (y l).setWidth w = 0 then flagDZ else 0
  .ok ((t.writeOpd (dstAny d (w / 32)) (lift2 w f (nthLanes xs 0) y)).raiseFlags fl).advance

/-- A compare into a predicate (R97); `exact` reads a W-bit value. -/
def aluCmp (exact : (n : Nat) → BitVec n → Int) (p : BitVec 3) (a b : RegNum) (alt : Bool) (cc : BitVec 3) (s : State) :
    Res := do
  let w := s.width alt [a, b]
  let (xs, t) ← s.operands [srcAny a (w / 32), srcAny b (w / 32)]
  .ok (t.setPred p.toNat fun l =>
    cmpInt cc (exact w ((nthLanes xs 0 l).setWidth w)) (exact w ((nthLanes xs 1 l).setWidth w))).advance

/-- An immediate form: `d := f(a, imm)` with the immediate sign-extended to W (R98). -/
def aluImm (f : (n : Nat) → BitVec n → BitVec n → BitVec n) (d a : RegNum) (i : BitVec 11) (s : State) : Res := do
  let w := s.width false [d, a]
  let (xs, t) ← s.operands [srcAny a (w / 32), dstAny d (w / 32)]
  .ok (t.writeOpd (dstAny d (w / 32)) (lift2 w f (nthLanes xs 0) (fun _ => (i.signExtend w).setWidth 128))).advance

/-- A predicate form (R100). -/
def predForm (f : Bool → Bool → Bool) (d a b : BitVec 3) (s : State) : Res :=
  let x := s.pred a.toNat
  let y := s.pred b.toNat
  .ok (s.setPred d.toNat fun l => f (x.getLsbD l) (y.getLsbD l)).advance

/-! ### Meanings -/

/-- R88. -/
def execAdd (d a b : RegNum) (w : Bool) (c : BitVec 3) (s : State) := conclude s (aluBin (opAdd c) d a b w s)
/-- R88. -/
def execSub (d a b : RegNum) (w : Bool) (c : BitVec 3) (s : State) := conclude s (aluBin (opSub c) d a b w s)
/-- R89. -/
def execMul (d a b : RegNum) (w : Bool) (s : State) := conclude s (aluBin opMul d a b w s)
/-- R89. -/
def execMulh (d a b : RegNum) (w : Bool) (s : State) := conclude s (aluBin opMulh d a b w s)
/-- R89. -/
def execMulhU (d a b : RegNum) (w : Bool) (s : State) := conclude s (aluBin opMulhU d a b w s)
/-- R89: `d` is read as a third source. -/
def execMad (d a b : RegNum) (w : Bool) (s : State) := conclude s (aluTri (fun _ x y z => x * y + z) d a b w s)
/-- R90. -/
def execMin (d a b : RegNum) (w : Bool) (s : State) := conclude s (aluBin opMin d a b w s)
/-- R90. -/
def execMax (d a b : RegNum) (w : Bool) (s : State) := conclude s (aluBin opMax d a b w s)
/-- R90. -/
def execMinU (d a b : RegNum) (w : Bool) (s : State) := conclude s (aluBin opMinU d a b w s)
/-- R90. -/
def execMaxU (d a b : RegNum) (w : Bool) (s : State) := conclude s (aluBin opMaxU d a b w s)
/-- R90. -/
def execAbs (d a : RegNum) (w : Bool) (s : State) := conclude s (aluUn opAbs d a w s)
/-- R90. -/
def execPopc (d a : RegNum) (w : Bool) (s : State) := conclude s (aluUn opPopc d a w s)
/-- R90. -/
def execClz (d a : RegNum) (w : Bool) (s : State) := conclude s (aluUn opClz d a w s)
/-- R90. -/
def execBrev (d a : RegNum) (w : Bool) (s : State) := conclude s (aluUn opBrev d a w s)
/-- R91. -/
def execAnd (d a b : RegNum) (w : Bool) (s : State) := conclude s (aluBin (fun _ x y => x &&& y) d a b w s)
/-- R91. -/
def execOr (d a b : RegNum) (w : Bool) (s : State) := conclude s (aluBin (fun _ x y => x ||| y) d a b w s)
/-- R91. -/
def execXor (d a b : RegNum) (w : Bool) (s : State) := conclude s (aluBin (fun _ x y => x ^^^ y) d a b w s)
/-- R91. -/
def execAndn (d a b : RegNum) (w : Bool) (s : State) := conclude s (aluBin (fun _ x y => x &&& ~~~y) d a b w s)
/-- R92. -/
def execShl (d a b : RegNum) (w : Bool) (s : State) := conclude s (aluBin opShl d a b w s)
/-- R92. -/
def execShr (d a b : RegNum) (w : Bool) (s : State) := conclude s (aluBin opShr d a b w s)
/-- R92. -/
def execSar (d a b : RegNum) (w : Bool) (s : State) := conclude s (aluBin opSar d a b w s)
/-- R92. -/
def execRot (d a b : RegNum) (w : Bool) (s : State) := conclude s (aluBin opRot d a b w s)
/-- R93. -/
def execBfx (d a b : RegNum) (w sx : Bool) (s : State) := conclude s (aluBin (opBfx sx) d a b w s)
/-- R93. -/
def execBfi (d a b : RegNum) (w : Bool) (s : State) := conclude s (aluTri opBfi d a b w s)
/-- R96: `a` where `pN` is true, `b` elsewhere. -/
def execSel (d a b : RegNum) (w : Bool) (p : BitVec 3) (s : State) :=
  conclude s (do
    let wd := s.width w [d, a, b] / 32
    let m := s.pred p.toNat
    let (xs, t) ← s.operands [srcAny a wd, srcAny b wd, dstAny d wd]
    let wide := fun (x : BitVec 128) => BitVec.ofNat 128 (x.toNat % 2 ^ (32 * wd))
    .ok (t.writeOpd (dstAny d wd) fun l => wide (if m.getLsbD l then nthLanes xs 0 l else nthLanes xs 1 l)).advance)
/-- R97. -/
def execCmp (p : BitVec 3) (a b : RegNum) (w : Bool) (c : BitVec 3) (s : State) :=
  conclude s (aluCmp (fun _ x => x.toInt) p a b w c s)
/-- R97. -/
def execCmpU (p : BitVec 3) (a b : RegNum) (w : Bool) (c : BitVec 3) (s : State) :=
  conclude s (aluCmp (fun _ x => (x.toNat : Int)) p a b w c s)
/-- R94. -/
def execLea (d a b : RegNum) (w : Bool) (sh : BitVec 3) (s : State) := conclude s (aluBin (opLea sh) d a b w s)
/-- R95. -/
def execDiv (d a b : RegNum) (w : Bool) (s : State) := conclude s (aluDiv opDiv d a b w s)
/-- R95. -/
def execDivU (d a b : RegNum) (w : Bool) (s : State) := conclude s (aluDiv opDivU d a b w s)
/-- R95. -/
def execRem (d a b : RegNum) (w : Bool) (s : State) := conclude s (aluDiv opRem d a b w s)
/-- R95. -/
def execRemU (d a b : RegNum) (w : Bool) (s : State) := conclude s (aluDiv opRemU d a b w s)
/-- R98. -/
def execAddi (d a : RegNum) (i : BitVec 11) (s : State) := conclude s (aluImm (fun _ x y => x + y) d a i s)
/-- R98. -/
def execAndi (d a : RegNum) (i : BitVec 11) (s : State) := conclude s (aluImm (fun _ x y => x &&& y) d a i s)
/-- R98. -/
def execOri (d a : RegNum) (i : BitVec 11) (s : State) := conclude s (aluImm (fun _ x y => x ||| y) d a i s)
/-- R98. -/
def execXori (d a : RegNum) (i : BitVec 11) (s : State) := conclude s (aluImm (fun _ x y => x ^^^ y) d a i s)
/-- R98: amounts at W and above give 0. -/
def execShli (d a : RegNum) (n : BitVec 6) (s : State) := conclude s (aluImm opShl d a (n.setWidth 11) s)
/-- R99: the immediate sign-extended to the width of `d`. -/
def execMovi (d : RegNum) (i : BitVec 18) (s : State) :=
  conclude s (do
    let w := s.width false [d]
    let (_, t) ← s.operands [dstAny d (w / 32)]
    .ok (t.writeOpd (dstAny d (w / 32)) fun _ => (i.signExtend w).setWidth 128).advance)
/-- R99: `(D << 18) OR imm`; `d` is read. -/
def execMovh (d : RegNum) (i : BitVec 18) (s : State) :=
  conclude s (do
    let w := s.width false [d]
    let (xs, t) ← s.operands [bothAny d (w / 32)]
    .ok (t.writeOpd (dstAny d (w / 32))
      (lift2 w (fun n x y => (x <<< 18) ||| y) (nthLanes xs 0) fun _ => i.setWidth 128)).advance)
/-- R100. -/
def execPand (d a b : BitVec 3) (s : State) := conclude s (predForm (· && ·) d a b s)
/-- R100. -/
def execPor (d a b : BitVec 3) (s : State) := conclude s (predForm (· || ·) d a b s)
/-- R100. -/
def execPxor (d a b : BitVec 3) (s : State) := conclude s (predForm (fun x y => x != y) d a b s)
/-- R100. -/
def execPnot (d a : BitVec 3) (s : State) := conclude s (predForm (fun x _ => !x) d a 0 s)

end Sys2Proof.Machine
end

