-- ==== Sys2Proof/Machine/Lane.lean ====
section
/-! DEFINITION. Lane instructions (R36, R114 to R120). -/

namespace Sys2Proof.Machine

/-- Lane numbers of a tile, rising. -/
def tileLanes (size tile : Nat) : List Nat := span (size * tile) size

/-- Contributing lanes for what lane `l` receives: the active lanes of its tile, or of the whole split for a
destination that takes one value (R114). -/
def State.contributing (s : State) (d : RegNum) (l : Nat) : List Nat :=
  if s.oneResult d then s.lanes
  else
    let size := tileSize s.myGroup.part
    (tileLanes size (l / size)).filter fun i => (s.ctxMask s.cur).getLsbD i

/-- Position of a lane in what its contribution is read by: its tile position, or its number (R114). -/
def State.lanePos (s : State) (d : RegNum) (l : Nat) : Nat :=
  if s.oneResult d then l else l % tileSize s.myGroup.part

/-- The summary of R115 over the contributing lanes: `f` is the predicate, `pos` the lane's bit in a map. -/
def voteOf (kind : Nat) (ls : List Nat) (f : Nat → Bool) (pos : Nat → Nat) : Nat :=
  match kind with
  | 0 => b2n (ls.any f)
  | 1 => b2n (ls.all f)
  | 2 => sumNat ((ls.filter f).map fun l => 2 ^ pos l)
  | 3 => b2n (ls.all f || ls.all fun l => !f l)
  | _ => (ls.filter f).length

/-- R115. -/
def execVote (d : RegNum) (p : BitVec 3) (k : BitVec 4) (s : State) :=
  conclude s (do
    s.needKind (.vote d p k) [.group]
    let o : Opd := { reg := d, role := .dst, words := 1, set := .vu }
    let m := s.pred p.toNat
    let (_, t) ← s.operands [o]
    .ok (t.writeOpd o fun l =>
      BitVec.ofNat 128 (voteOf k.toNat (t.contributing d l) (fun i => m.getLsbD i) (t.lanePos d))).advance)

/-- The source position of R116 for tile position `t`, operand `b` and tile size `n`. -/
def shflSource (kind t b n : Nat) : Option Nat :=
  match kind with
  | 0 => if b < n then some b else none
  | 1 => if b ≤ t then some (t - b) else none
  | 2 => if t + b < n then some (t + b) else none
  | 3 => if b < n then some (t ^^^ b) else none
  | _ => some ((t + b) % n)

/-- R116: `d` is read as well, because a lane without a source keeps it. -/
def execShfl (d a b : RegNum) (k : BitVec 4) (s : State) :=
  conclude s (do
    s.needKind (.shfl d a b k) [.group]
    let (xs, t) ← s.operands [srcAny a 1, srcAny b 1, { reg := d, role := .both, words := 1, set := .v }]
    let n := tileSize t.myGroup.part
    .ok (t.writeOpd (dstAny d 1) fun l =>
      match shflSource k.toNat (l % n) ((nthLanes xs 1 l).toNat % 2 ^ 32) n with
      | none => nthLanes xs 2 l
      | some p =>
        let src := l / n * n + p
        if (t.ctxMask t.cur).getLsbD src then nthLanes xs 0 src else nthLanes xs 2 l).advance)

/-- A combination of R117, with its flags. -/
def combine (op : Nat) (x y : Nat) : Nat × Word :=
  let a := BitVec.ofNat 32 x
  let b := BitVec.ofNat 32 y
  match op with
  | 0 => ((a + b).toNat, 0)
  | 1 => ((if a.toInt ≤ b.toInt then a else b).toNat, 0)
  | 2 => ((if b.toInt ≤ a.toInt then a else b).toNat, 0)
  | 3 => ((a &&& b).toNat, 0)
  | 4 => ((a ||| b).toNat, 0)
  | 5 => ((a ^^^ b).toNat, 0)
  | 6 => fAdd fp32 0 false x y
  | _ => fMinMax true x y

/-- Two positions combined; an absent one leaves the other (R117). -/
def combine2 (op : Nat) : Option (Nat × Word) → Option (Nat × Word) → Option (Nat × Word)
  | none, y => y
  | x, none => x
  | some x, some y => let r := combine op x.1 y.1; some (r.1, x.2 ||| y.2 ||| r.2)

/-- One level of the tree. -/
def treeLevel (op : Nat) : List (Option (Nat × Word)) → List (Option (Nat × Word))
  | x :: y :: t => combine2 op x y :: treeLevel op t
  | t => t

/-- The tree over 32 or fewer positions. -/
def tree (op : Nat) : Nat → List (Option (Nat × Word)) → Option (Nat × Word)
  | 0, xs => xs.headD none
  | n + 1, xs => tree op n (treeLevel op xs)

/-- Values of the contributing lanes at their positions, the others absent. -/
def State.positions (s : State) (d : RegNum) (l : Nat) (f : Lanes) : List (Option (Nat × Word)) :=
  let ls := s.contributing d l
  (upto 32).map fun p => (ls.find? fun i => s.lanePos d i = p).map fun i => ((f i).toNat % 2 ^ 32, 0)

/-- R117: no rule names a class for `d` (R74), so any destination may stand there (log 53). -/
def execRed (d a : RegNum) (o : BitVec 3) (s : State) :=
  conclude s (do
    s.needKind (.red d a o) [.group]
    let dst := dstAny d 1
    let (xs, t) ← s.operands [srcAny a 1, dst]
    let r := fun l => (tree o.toNat 5 (t.positions d l (nthLanes xs 0))).getD (0, 0)
    let t := t.raiseFlags (orFlags (t.computing d) fun l => (r l).2)
    .ok (t.writeOpd dst fun l => BitVec.ofNat 128 (r l).1).advance)

/-- The identity of R118. -/
def scanIdentity (op : Nat) : Nat :=
  match op with
  | 1 => 0x7FFFFFFF
  | 2 => 0x80000000
  | 3 => 0xFFFFFFFF
  | 6 => 0x80000000
  | 7 => 0xFF800000
  | _ => 0

/-- Values combined one after the other; none for an empty list. -/
def chainOf (op : Nat) : List Nat → Option (Nat × Word)
  | [] => none
  | x :: t => some (t.foldl (fun (acc : Nat × Word) y => let r := combine op acc.1 y; (r.1, acc.2 ||| r.2)) (x, 0))

/-- R118: any destination but a `k` register (log 53). -/
def execScan (d a : RegNum) (ex : Bool) (o : BitVec 3) (s : State) :=
  conclude s (do
    s.needKind (.scan d a ex o) [.group]
    let dst : Opd := { reg := d, role := .dst, words := 1, set := .laneDst }
    let (xs, t) ← s.operands [srcAny a 1, dst]
    let r := fun l =>
      let ls := (t.contributing d l).filter fun i => i < l || (i = l && !ex)
      (chainOf o.toNat (ls.map fun i => (nthLanes xs 0 i).toNat % 2 ^ 32)).getD (scanIdentity o.toNat, 0)
    let t := t.raiseFlags (orFlags t.lanes fun l => (r l).2)
    .ok (t.writeOpd dst fun l => BitVec.ofNat 128 (r l).1).advance)

/-- R119: the partition code of the whole group. -/
def execPart (n : BitVec 3) (s : State) :=
  conclude s (do
    s.needKind (.part n) [.group]
    .ok (s.modMyGroup fun g => { g with part := n }).advance)

/-- R120: the issuing split's mask. -/
def execLmask (d : RegNum) (s : State) :=
  conclude s (do
    s.needKind (.lmask d) [.group]
    let o : Opd := { reg := d, role := .dst, words := 1, set := .vu }
    let (_, t) ← s.operands [o]
    .ok (t.writeOpd o fun _ => (t.ctxMask t.cur).setWidth 128).advance)

end Sys2Proof.Machine
end

