-- ==== Sys2Proof/Machine/Memory.lean ====
section
/-! DEFINITION. Loads, stores, atomics, fences, prefetch and cache control (R144 to R158). -/

namespace Sys2Proof.Machine

/-- One lane of an access to global space. -/
def State.globalLane (s : State) (x : Nat × Nat × Xlat) : LaneAcc :=
  { LaneAcc.at x.1 x.2.1 (.phys x.2.2.pa) with ro := s.cacheable x.2.2 }

/-- A load from global space. -/
def loadForm (d a : RegNum) (z : BitVec 3) (off : BitVec 8) (f : Access → Access) (s : State) : Res := do
  let n := sizeBytes z
  let (xs, t) ← s.operands [globalAddr a, dataDst d (sizeWords n)]
  t.memGate
  t.countRoom true
  let eas := (t.accessLanes d).map fun l => (l, effective (nthLanes xs 0 l) off n)
  let (ls, t) ← counting .load (t.globalLanes .read n eas)
  let acc := { t.newAccess .load n with
    signed := sizeSigned z, wide := t.oneResult d, dst := t.destOf (dataDst d (sizeWords n)), lanes := ls.map t.globalLane }
  t.issueAccess (f acc)

/-- A store to global space. -/
def storeForm (d a : RegNum) (z : BitVec 3) (off : BitVec 8) (f : Access → Access) (s : State) : Res := do
  let n := sizeBytes z
  let (xs, t) ← s.operands [globalAddr a, dataSrc d (sizeWords n)]
  t.memGate
  t.countRoom false
  let eas := t.lanes.map fun l => (l, effective (nthLanes xs 0 l) off n)
  let (ls, t) ← counting .store (t.globalLanes .write n eas)
  let acc := { t.newAccess .store n with lanes := ls.map fun x => { t.globalLane x with data := nthLanes xs 1 x.1 } }
  t.issueAccess (f acc)

/-- R144. -/
def execLd (d a : RegNum) (z : BitVec 3) (o : BitVec 8) (s : State) := conclude s (loadForm d a z o id s)
/-- R144. -/
def execSt (d a : RegNum) (z : BitVec 3) (o : BitVec 8) (s : State) := conclude s (storeForm d a z o id s)
/-- R148. -/
def execLdAcq (d a : RegNum) (z c : BitVec 3) (s : State) :=
  conclude s (loadForm d a z 0 (fun x => { x with acq := true, scope := c }) s)
/-- R148. -/
def execLdSc (d a : RegNum) (z c : BitVec 3) (s : State) :=
  conclude s (loadForm d a z 0 (fun x => { x with acq := true, sc := true, scope := c }) s)
/-- R148. -/
def execStRel (d a : RegNum) (z c : BitVec 3) (s : State) :=
  conclude s (storeForm d a z 0 (fun x => { x with rel := true, scope := c }) s)
/-- R148: later memory forms of the split wait for it, so it carries `acq` as well. -/
def execStSc (d a : RegNum) (z c : BitVec 3) (s : State) :=
  conclude s (storeForm d a z 0 (fun x => { x with acq := true, rel := true, sc := true, scope := c }) s)
/-- R150: the read-only cache is used when the load is performed. -/
def execLdro (d a : RegNum) (z : BitVec 3) (o : BitVec 8) (s : State) :=
  conclude s (do
    s.needKind (.ldro d a z o) [.group, .seq]
    loadForm d a z o (fun x => { x with ro := true }) s)

/-- Alignment unit of `ldt` for a format code; reserved codes are refused later (R154). -/
def typedAlign (code raw : Nat) : Nat := if 10 < code then 1 else max 1 (elemSize code raw)

/-- Byte and nibble of element `n` from address `a` (R154). -/
def elemAddr (code raw a n : Nat) : Nat × Bool :=
  let sz := elemSize (min code 10) raw
  if sz = 0 then (a + n / 2, n % 2 = 1) else (a + n * sz, false)

/-- The codes of a page. -/
def leafCodes (e : Nat) : Nat × Nat := (leafFmt e, leafGeom e)

/-- R154: the page that holds the base gives the codes, and the element's own page must agree. The faults of step 5 are
those of the element: its page's permission, and its address in `TINFO` (log 96). -/
def execLdt (d a b : RegNum) (x : Bool) (s : State) :=
  conclude s (do
    s.needKind (.ldt d a b x) [.group, .seq]
    let n := if x then 8 else 4
    let (xs, t) ← s.operands [globalAddr a, { reg := b, role := .src, words := 1, set := .data }, dataDst d (sizeWords n)]
    t.memGate
    t.countRoom true
    let r := t.requester t.cur
    let base := (t.accessLanes d).map fun l => (l, (nthLanes xs 0 l).toNat % 2 ^ 64)
    checkAddr (2 ^ 57) base
    let (bx, t) ← counting .load (t.xlateLanes r .read base)
    firstErr (fun e => checkAlign (typedAlign (leafFmt e.2.2.entry) n) [(e.1, e.2.1)]) bx
    let index := fun l => (nthLanes xs 1 l).toNat % 2 ^ 32
    let elems := bx.map fun e => (e.1, elemAddr (leafFmt e.2.2.entry) n e.2.1 (index e.1))
    let eas := elems.map fun e => (e.1, e.2.1)
    checkAddr (2 ^ 57) eas
    let (ex, t) ← counting .load (t.xlateLanes r .read eas)
    t.permitLanes r .read ex
    firstErr (fun p =>
      let be := p.1.2.2.entry
      let ee := p.2.2.2.entry
      if formatBad ee p.2.2.2.pa || leafCodes be ≠ leafCodes ee then
        .error (Stop.trap 6 (accInfo 2 p.2.2.1) 0) else .ok ()) (bx.zip ex)
    let acc := { t.newAccess .load n with
      typed := true, wide := t.oneResult d, dst := t.destOf (dataDst d (sizeWords n)),
      lanes := ex.map fun e =>
        { t.globalLane e with
          fmt := BitVec.ofNat 4 (leafFmt e.2.2.entry)
          nib := (elems.find? fun q => q.1 = e.1 && q.2.2).isSome } }
    t.issueAccess acc)

/-- R152. -/
def execLdv (d a : RegNum) (z : BitVec 3) (o : BitVec 8) (s : State) :=
  conclude s (do
    s.needKind (.ldv d a z o) [.group, .seq]
    let n := sizeBytes z
    let (xs, t) ← s.operands [vaultAddr a, dataDst d (sizeWords n)]
    t.memGate
    t.countRoom true
    let ls ← t.vaultLanes n ((t.accessLanes d).map fun l => (l, effectiveVault (nthLanes xs 0 l) o n))
    t.issueAccess { t.newAccess .load n with
      signed := sizeSigned z, wide := t.oneResult d, dst := t.destOf (dataDst d (sizeWords n)),
      lanes := ls.map fun e => LaneAcc.at e.1 e.2.1 (.vault e.2.2.1 e.2.2.2) })

/-- R152. -/
def execStv (d a : RegNum) (z : BitVec 3) (o : BitVec 8) (s : State) :=
  conclude s (do
    s.needKind (.stv d a z o) [.group, .seq]
    let n := sizeBytes z
    let (xs, t) ← s.operands [vaultAddr a, dataSrc d (sizeWords n)]
    t.memGate
    t.countRoom false
    let ls ← t.vaultLanes n (t.lanes.map fun l => (l, effectiveVault (nthLanes xs 0 l) o n))
    t.issueAccess { t.newAccess .store n with
      lanes := ls.map fun e =>
        { LaneAcc.at e.1 e.2.1 (.vault e.2.2.1 e.2.2.2) with data := nthLanes xs 1 e.1 } })

/-- R153: the gauge quads are checked after the data addresses. -/
def execStvG (d a b : RegNum) (z : BitVec 3) (s : State) :=
  conclude s (do
    s.needKind (.stvG d a b z) [.group, .seq]
    let n := sizeBytes z
    let (xs, t) ← s.operands [vaultAddr a, vaultAddr b, dataSrc d (sizeWords n)]
    t.memGate
    t.countRoom false
    let ls ← t.vaultLanes n (t.lanes.map fun l => (l, effectiveVault (nthLanes xs 0 l) 0 n))
    let gs ← t.vaultLanes 16 (t.lanes.map fun l => (l, effectiveVault (nthLanes xs 1 l) 0 16))
    t.issueAccess { t.newAccess .store n with
      lanes := ls.map fun e =>
        { LaneAcc.at e.1 e.2.1 (.vault e.2.2.1 e.2.2.2) with
          data := nthLanes xs 2 e.1
          gauge := (gs.find? fun q => q.1 = e.1).map fun q => (q.2.2.1, q.2.2.2) } })

/-- An atomic of `n` bytes. `cas` reads `d` (R155); `b` may be a lane index too (R156). -/
def atomForm (d a b : RegNum) (n : Nat) (op : BitVec 4) (s : State) : Res := do
  let w := sizeWords n
  let dst : Opd := { reg := d, role := if op = 9 then .both else .dst, words := w, set := .atomDst }
  let (xs, t) ← s.operands [globalAddr a, dataSrc b w, dst]
  t.memGate
  t.countRoom true
  let (ls, t) ← counting .atomic (t.globalLanes .atomic n (t.lanes.map fun l => (l, effective (nthLanes xs 0 l) 0 n)))
  t.issueAccess { t.newAccess .atomic n with
    op := op, wide := t.oneResult d, dst := t.destOf dst,
    lanes := ls.map fun e =>
      { t.globalLane e with
        data := BitVec.ofNat 128 ((nthLanes xs 1 e.1).toNat % 2 ^ (8 * n)), cmp := (nthLanes xs 2 e.1).setWidth 64 } }

/-- R155. -/
def execAtom (d a b : RegNum) (o : BitVec 4) (s : State) := conclude s (atomForm d a b 4 o s)
/-- R155. -/
def execAtomD (d a b : RegNum) (o : BitVec 4) (s : State) := conclude s (atomForm d a b 8 o s)

/-- One lane of a prefetch: its line goes to the cache that the level names; a failure or an uncached address drops it. Every
level asks for RD = 1 alone (R257). -/
def State.prefetch (s : State) (level va : Nat) : State :=
  if 2 ^ 57 ≤ va then s
  else match s.access (s.requester s.cur) .read va with
    | .error (.page f) => s.homeReads f
    | .error (.perm _) => s
    | .ok (x, t) =>
      if !t.cacheable x then t
      else
        let a := t.agent t.cur
        let line := x.pa / 128
        match t.homeFor (agentCol a) x.pa with
        | (none, _) => t
        | (some h, u) => if level = 0 then u.cohRead a h line else if level = 1 then u.cohSlice (agentCol a) h line
          else u.cohClaim a h line

/-- R157. -/
def execPf (l : BitVec 2) (a : RegNum) (i : BitVec 11) (s : State) :=
  conclude s (do
    let (xs, t) ← s.operands [globalAddr a]
    t.memGate
    let va := fun n => wrapInt 64 (((nthLanes xs 0 n).toNat % 2 ^ 64 : Nat) + i.toInt)
    .ok (t.lanes.foldl (fun u n => u.prefetch l.toNat (va n)) t).advance)

/-- Every line of a core's read-only cache is invalidated. -/
def State.dropRo (s : State) (core : Nat) : State := s.modCore core fun c => { c with roCache := [] }

/-- R158: `.roinv` acts at once; the others count in `STC` until the line has reached its state. -/
def execCctl (a : RegNum) (o : BitVec 4) (s : State) :=
  conclude s (do
    if o = 3 then
      s.needKind (.cctl a o) [.group, .seq]
      s.memGate
      .ok (s.dropRo (s.ctxCore s.cur)).advance
    else
      let (xs, t) ← s.operands [globalAddr a]
      t.memGate
      t.countRoom false
      let (ls, t) ← counting .maint (t.globalLanes .read 1 (t.lanes.map fun l => (l, effective (nthLanes xs 0 l) 0 1)))
      t.issueAccess { t.newAccess .maint 1 with op := o, lanes := ls.map t.globalLane })

/-- Outstanding accesses that a fence of an order waits for (R149): stores, atomics and `cctl` before a release,
loads and atomics before an acquire. -/
def fenceHolds (order : Nat) (a : Access) : Bool :=
  let relOf := order = 2 || order = 3 || order = 4
  let acqOf := order = 1 || order = 3 || order = 4
  (relOf && a.kind ≠ .load) || (acqOf && (a.kind = .load || a.kind = .atomic))

/-- The loads of the issuing lanes that are outstanding come before those lanes' later writes (R268). -/
def State.fenceLoads (s : State) : State :=
  let m := s.ctxMask s.cur
  s.modRegs s.cur fun r =>
    { r with outs := r.outs.map fun a => if a.kind = .load then { a with fenced := a.fenced ||| (a.mask &&& m) } else a }

/-- `.ro`: the core's read-only cache, or a host core's instruction cache, holds nothing (R149, R259). -/
def State.dropReadOnly (s : State) : State :=
  match s.cur with
  | .host c => s.modHost c fun h => { h with icache := [] }
  | c => s.dropRo (s.ctxCore c)

/-- R149: the split passes once what it waits for is performed, at every scope at once (log 9); loads that it does not wait
for stay before the lanes' later writes (R268). -/
def execFence (o : BitVec 4) (x : Bool) (_c : BitVec 3) (s : State) :=
  conclude s (
    if (s.ctxRegs s.cur).outs.any (fenceHolds o.toNat) then .error .stall
    else
      let t := if o = 2 then s.fenceLoads else s
      .ok (if x then t.dropReadOnly else t).advance)

/-- R146: `LDC` ≤ l and `STC` ≤ s. -/
def execWaitc (l n : BitVec 6) (s : State) :=
  conclude s (do
    s.needKind (.waitc l n) [.group, .seq]
    let r := s.ctxRegs s.cur
    if r.ldc ≤ l.toNat && r.stc ≤ n.toNat then .ok s.advance else .error (.wait (.counts l n)))

end Sys2Proof.Machine
end

