-- ==== Sys2Proof/Machine/Serve.lean ====
section
/-! DEFINITION. Resolving a fault record: what waits on it is tried again, or told that it cannot be served (R69, R136,
R141, R170, R184, R186, R205, R214, R226, R228, R260, R261). -/

namespace Sys2Proof.Machine

/-- The record leaves the buffer (R261). -/
def State.dropRecord (s : State) (col id : Nat) : State :=
  s.modCol col fun k => { k with faults := k.faults.filter fun f => f.id ≠ id }

/-- Resident contexts parked on a record, with the address of each one's fault. -/
def State.parkedOn (s : State) (col id : Nat) : List (Ctx × Nat) :=
  let va := fun (w : Wait) => match w with
    | .parked c i a => if c = col && i = id then some a else none
    | _ => none
  s.teams.flatMap fun e =>
    if e.2.state ≠ .resident then []
    else
      (e.2.groups.mapIdx fun g gr => (gr.splits.mapIdx fun p x =>
        if x.valid then ((va x.wait).map fun a => (Ctx.group e.1 g p, a)).toList else []).flatten).flatten
      ++ (e.2.seq.toList.flatMap fun q => ((va q.wait).map fun a => (Ctx.seq e.1, a)).toList)

/-- A parked context's instruction does not execute again: the splits held with it are free, it counts no longer, and what it
had popped is gone (R17, R141). -/
def State.unpark (s : State) (c : Ctx) : State :=
  let s := (s.setWait c .none).modRegs c fun r => { r with parked := tabDel (ctxSplit c) r.parked }
  match c with
  | .group t g p => s.modGroup t g fun gr =>
      { gr with latch := [], splits := if gr.parksBeside p then gr.splits else gr.splits.map fun x => { x with parkHeld := false } }
  | _ => s

/-- The wait of a context, wherever its team's state is held. -/
def State.viewWait (s : State) (c : Ctx) : Wait :=
  match c with
  | .group t g p => (((s.view t).groups.getD g Group.none).splits.getD p Split.none).wait
  | .seq t => match (s.view t).seq with
    | none => .none
    | some q => q.wait
  | .host _ => .none

/-- The wait of a context set, wherever its team's state is held. -/
def State.setViewWait (s : State) (c : Ctx) (w : Wait) : State :=
  match c with
  | .group t g p => s.modView t false fun tm =>
      { tm with groups := modAt g (fun gr => { gr with splits := modAt p (fun x => { x with wait := w }) gr.splits }) tm.groups }
  | .seq t => s.modView t false fun tm => { tm with seq := tm.seq.map fun q => { q with wait := w } }
  | .host _ => s

/-- A fault that waited for a record takes one if it can; a context that no longer waits for one has none (R260). -/
def State.fileAgain (s : State) (col : Nat) (e : Ctx × Nat × FaultAt) : State :=
  match s.viewWait e.1 with
  | .parked _ 256 va =>
    match s.fileFault col (s.asid (s.ctxJob e.1)) (s.ctxJob e.1) e.2.1 (s.ctxCore e.1) e.2.2 with
    | none => s.modCol col fun k => { k with unfiled := k.unfiled ++ [e] }
    | some (i, t) => t.setViewWait e.1 (.parked col i va)
  | _ => s

/-- A record is free: faults that waited for one, oldest first. -/
def State.fileWaiting (s : State) (col : Nat) : State :=
  ((s.col col).unfiled).foldl (fun s e => s.fileAgain col e) (s.modCol col fun k => { k with unfiled := [] })

/-- The saved teams with a split that waits on a record: its resolution is an event for them (R297). -/
def State.noteResolved (s : State) (col id : Nat) : State :=
  let waits := fun (w : Wait) => match w with
    | .parked c i _ => c = col && i = id
    | _ => false
  let here := fun (t : Nat) =>
    let v := s.view t
    v.state = .saved && (v.groups.any (fun g => g.splits.any fun p => p.valid && waits p.wait) || v.seq.any fun q => waits q.wait)
  ((s.teams.map (·.1)).filter here).foldl (fun s t => s.modView t true fun tm => tm) s

/-- A fault mark on a record is taken away. -/
def clearMark (w : Nat × Nat) (m : Option (Nat × Nat)) : Option (Nat × Nat) := if m = some w then none else m

/-- No split of a group is itself parked. -/
def Group.noneParked (g : Group) : Bool := g.splits.all fun x => match x.wait with
  | .parked _ _ _ => false
  | _ => true

/-- Reissued loads of a group that waited on a record are tried again; with the last of them the splits held so are free. -/
def Group.clearMarks (w : Nat × Nat) (g : Group) : Group :=
  let outs := g.regs.outs.map fun a => { a with fault := clearMark w a.fault }
  let free := (g.regs.outs.any fun a => a.fault = some w) && (outs.all fun a => a.fault.isNone) && g.noneParked
  { g with
    regs := { g.regs with outs := outs }
    splits := if free then g.splits.map fun x => { x with parkHeld := false } else g.splits }

/-- Engine commands, batches, stores and requests that waited on a record are tried again. -/
def State.clearMarks (s : State) (w : Nat × Nat) : State :=
  let core := fun (_ : Nat) (k : Core) =>
    { k with
      mq := k.mq.map fun m => { m with fault := clearMark w m.fault }
      cq := k.cq.map fun c => { c with faults := c.faults.filter fun f => (f.1, f.2.1) ≠ w }
      chains := k.chains.map fun ch => { ch with auditFault := clearMark w ch.auditFault } }
  let col := fun (_ : Nat) (k : Column) =>
    { k with batches := tabMap (fun _ (b : Batch) => { b with fault := clearMark w b.fault }) k.batches }
  let regs := fun (r : Regs) => { r with outs := r.outs.map fun a => { a with fault := clearMark w a.fault } }
  let team := fun (_ : Nat) (tm : Team) =>
    { tm with
      groups := tm.groups.map (Group.clearMarks w)
      seq := tm.seq.map fun q => { q with regs := regs q.regs } }
  { s with
    teams := tabMap team s.teams
    cores := tabMap core s.cores
    cols := tabMap col s.cols
    notices := s.notices.map fun n => { n with fault := clearMark w n.fault }
    notifies := s.notifies.map fun n => { n with fault := clearMark w n.fault }
    inbound := s.inbound.map fun m => { m with fault := clearMark w m.fault } }

/-- R261: RETRY. Resident waiters execute again from the translation, until when the splits held with them stay held; a
saved team's wait is over. -/
def execFbactRetry (col id : Nat) (s : State) : Host.Outcome State Fault Refusal :=
  .next (
    if (s.col col).faults.any fun f => f.id = id then
      let waiters := s.parkedOn col id
      let t := ((s.noteResolved col id).dropRecord col id).clearMarks (col, id)
      ((waiters.foldl (fun t w => t.setWait w.1 .none) t).fileWaiting col).evalWakes
    else s)

/-! ### UNSERVABLE -/

/-- A parked context's permission fault with SUB UNMAPPED (R141). -/
def State.unmapped (s : State) (c : Ctx) (va : Nat) : State :=
  let s := s.unpark c
  s.takeRecoverable c 6 (accInfo 5 va) (s.ctxPc c) (s.ctxPc c + 4) (s.ctxMask c)

/-- DENIED written to the destination of a context's instruction, which is then passed. -/
def State.passDenied (s : State) (c : Ctx) (d : RegNum) : State :=
  let s := s.unpark c
  (s.deliverReg c d 1 stDENIED.toNat).advanceOf c

/-- The region that a parked `gset` names. -/
def State.regionOf (s : State) (b : RegNum) : Nat × Nat :=
  match s.operands [srcKp b] with
  | .error _ => (0, 0)
  | .ok (xs, t) =>
    let x := (nthLanes xs 0 t.low).toNat
    (bitsOf x 0 64, bitsOf x 64 64)

/-- The bytes of a `tblld` before the one that cannot be served are written (R136). -/
def State.fillBefore (s : State) (c : Ctx) (a b : RegNum) : State :=
  match { s with cur := c }.operands [srcU a, srcU b] with
  | .error _ => s
  | .ok (xs, t) =>
    let addr := (nthLanes xs 0 t.low).toNat % 2 ^ 64
    let n := (nthLanes xs 1 t.low).toNat % 2 ^ 64
    let core := s.ctxCore c
    if (s.core core).table.holder ≠ some (ctxTeam c) then s
    else
      let (f, u) := s.fillBytes (s.requester c) addr (n / 8)
      u.modTable core fun k => { k.fillBank f.bytes with fill := none }

/-- What a parked context is told. The `gset` of an unservable region and an `nvsub` are DENIED (R186, R228). -/
def State.tellContext (s : State) (w : Ctx × Nat) : State :=
  let u := { s with cur := w.1 }
  let i := match u.fetch with
    | .error _ => none
    | .ok (x, _) => (instrOf x).toOption
  match i with
  | some (.gset d _ b) =>
    let r := u.regionOf b
    if r.1 ≤ w.2 && w.2 < r.1 + r.2 then s.passDenied w.1 d else s.unmapped w.1 w.2
  | some (.nvsub d _ _ _) => s.passDenied w.1 d
  | some (.tblld a b) => (s.fillBefore w.1 a b).unmapped w.1 w.2
  | _ => s.unmapped w.1 w.2

/-- Recorded loads of resident contexts that wait on the record: the trap of their access. -/
def State.tellReissued (s : State) (w : Nat × Nat) (f : FaultRec) : State :=
  let ctxs := s.teams.flatMap fun e =>
    if e.2.state ≠ .resident then []
    else (upto e.2.groups.length).map (fun g => Ctx.group e.1 g 0) ++ (if e.2.seq.isSome then [Ctx.seq e.1] else [])
  let va := fun (a : Access) => match a.lanes.find? fun l => l.va / 65536 = f.va / 65536 with
    | none => f.va
    | some l => l.va
  ctxs.foldl (fun s c =>
    ((s.ctxRegs c).outs.filter fun a => a.fault = some w).foldl (fun s a => s.postTrap c a 6 (accInfo 5 (va a))) s) s

/-- Engine commands of a core that wait on the record end with DENIED; an audit record is dropped. -/
def State.tellCore (s : State) (w : Nat × Nat) (core : Nat) : State :=
  let c := s.core core
  let s := (c.mq.filter fun m => m.fault = some w).foldl (fun s m =>
    if (s.core core).mq.any fun x => x.id = m.id then s.abortMma core m stDENIED else s) s
  let s := c.cq.foldl (fun s q =>
    let n := shapeChunks (s.copyRows q)
    (q.faults.filter fun f => (f.1, f.2.1) = w).foldl (fun s f => s.failChunk core q.id f.2.2 n stDENIED) s) s
  (c.chains.filter fun ch => ch.auditFault = some w).foldl (fun s ch =>
    let t := s.ringDrop (lrJob (s.team ch.team).launch)
    (t.modChain core ch.id fun x => { x with audits := x.audits.drop 1, auditFault := none }).settleChains core) s

/-- The first notice, NOTIFY store or remote request that waits on the record is dropped or refused; `n` bounds how many
there are. -/
def State.tellStores (s : State) (w : Nat × Nat) : Nat → State
  | 0 => s
  | n + 1 =>
    match s.notices.findIdx? fun q => q.fault = some w with
    | some i => match s.notices[i]? with
      | none => s
      | some q => ((s.noticeFail q 5).endNotice i q).tellStores w n
    | none => match s.notifies.findIdx? fun q => q.fault = some w with
      | some i => match s.notifies[i]? with
        | none => s
        | some q => (s.endNotify i q true).tellStores w n
      | none => match s.inbound.find? fun m => m.fault = some w with
        | some m => (s.refuse m 5).tellStores w n
        | none => s

/-- Batches that wait on the record close with their table unwritten (log 38). -/
def State.tellBatches (s : State) (w : Nat × Nat) : State :=
  let due := s.cols.flatMap fun e => (e.2.batches.filter fun b => b.2.fault = some w).map fun b => (e.1, b.1, b.2)
  due.foldl (fun s e =>
    let base := ((s.col e.1).aggOf (lrJob (e.2.2.records.headD (0, 0)).2)).toNat + 4096 * e.2.1
    (s.modCol e.1 fun c => c.closeBatch e.2.1 base e.2.2).settleCol e.1) s

/-- R261: UNSERVABLE. -/
def execFbactUnservable (col id : Nat) (s : State) : Host.Outcome State Fault Refusal :=
  .next (match (s.col col).faults.find? fun f => f.id = id with
    | none => s
    | some f =>
      let cur := s.cur
      let w := (col, id)
      let t := (s.parkedOn col id).foldl State.tellContext ((s.noteResolved col id).dropRecord col id)
      let t := (t.tellReissued w f).tellBatches w
      let t := (t.cores.map (·.1)).foldl (fun t c => t.tellCore w c) t
      let t := t.tellStores w (t.notices.length + t.notifies.length + t.inbound.length)
      { ((t.clearMarks w).fileWaiting col).evalWakes with cur := cur })

end Sys2Proof.Machine
end

