-- ==== Sys2Proof/Machine/Registers.lean ====
section
/-! DEFINITION. System registers: who may reach each number, what a read gives, and what a write does (R10, R232 to R235,
R261, R278, R307, R326, R330, R349). -/

namespace Sys2Proof.Machine

/-! ### Assigned numbers and their levels -/

/-- Numbers of the machine level. -/
def machineNumber (n : Nat) : Bool :=
  n = 0x00A || (0x011 ≤ n && n ≤ 0x014) || n = 0x023 || n = 0x024 || (0x140 ≤ n && n ≤ 0x143) || (0x150 ≤ n && n ≤ 0x155)
    || n = 0x161 || n = 0x221 || n = 0x230 || (0x300 ≤ n && n ≤ 0x307) || (0x310 ≤ n && n ≤ 0x312) || n = 0x318 || n = 0x319
    || n = 0x320 || (0x328 ≤ n && n ≤ 0x32C) || (0x330 ≤ n && n ≤ 0x333)

/-- Numbers of the supervisor level. -/
def supervisorNumber (n : Nat) : Bool :=
  n ≤ 0x009 || n = 0x00B || (0x020 ≤ n && n ≤ 0x022) || n = 0x025 || (0x028 ≤ n && n ≤ 0x02C) || (0x040 ≤ n && n ≤ 0x046)
    || (0x050 ≤ n && n ≤ 0x058) || (0x080 ≤ n && n ≤ 0x088) || (0x100 ≤ n && n ≤ 0x103) || (0x108 ≤ n && n ≤ 0x10C)
    || (0x110 ≤ n && n ≤ 0x11F) || (0x120 ≤ n && n ≤ 0x124) || n = 0x130 || n = 0x160
    || (0x200 ≤ n && n ≤ 0x206) || (0x208 ≤ n && n ≤ 0x20A) || n = 0x210 || n = 0x211 || n = 0x220 || n = 0x222

/-- The lowest level that may reach a number; none when it is not assigned. -/
def numberLevel (n : Nat) : Option Nat :=
  if n = 0x00C || n = 0x00D then some 0
  else if supervisorNumber n then some 1
  else if machineNumber n then some 3
  else none

/-! ### Reads -/

/-- A field of a number at a position. -/
def field (x lo : Nat) : Nat := x * 2 ^ lo

/-- `HSTATUS` (R235). -/
def HostCore.status (h : HostCore) : Nat :=
  field (b2n h.ie) 7 + field (b2n h.pie) 6 + field h.ppl.toNat 2 + h.pl.toNat

/-- Registers of the host core itself, 0x000 to 0x014 (R234). -/
def State.readCore (s : State) (c n : Nat) : Nat :=
  let h := s.host c
  match n with
  | 0x000 => h.status
  | 0x001 => h.strap.cause.toNat
  | 0x002 => h.strap.info.toNat
  | 0x003 => h.strap.epc.toNat
  | 0x004 => h.strap.vec.toNat
  | 0x005 => h.hscratch.toNat
  | 0x006 => h.hmbsel.toNat
  | 0x007 => h.hie.toNat
  | 0x008 => s.hip c
  | 0x009 => h.htcmp.toNat
  | 0x00A => h.hdeleg.toNat
  | 0x00B => h.hevdrop.toNat
  | 0x00C => (s.cyc c).toNat
  | 0x00D => field s.node.toNat 12 + field c 4
  | 0x011 => h.mtrap.cause.toNat
  | 0x012 => h.mtrap.info.toNat
  | 0x013 => h.mtrap.epc.toNat
  | 0x014 => h.mtrap.vec.toNat
  | _ => 0

/-- Registers of the selected job, 0x020 to 0x02C (R234). -/
def State.readJob (s : State) (c n : Nat) : Nat :=
  let h := s.host c
  let j := s.job (s.ctxJob (.host c))
  match n with
  | 0x020 => h.jobsel.toNat
  | 0x021 => j.ctl.toNat
  | 0x022 => j.root.toNat
  | 0x025 => j.wdog.toNat
  | 0x028 => j.trbase.toNat
  | 0x029 => j.trsize.toNat
  | 0x02A => j.trhead.toNat
  | 0x02B => j.trtail.toNat
  | 0x02C => j.trdrop.toNat
  | _ => 0

/-- A word of a fault record (R261). -/
def FaultRec.word (r : FaultRec) (i : Nat) : Nat :=
  match i with
  | 0 => r.va % 2 ^ 57
  | 1 => field r.asid.toNat 48 + field r.job.toNat 40 + field r.kind.toNat 37 + field r.agent.toNat 34
      + field r.core.toNat 24 + field (r.waiters % 256) 16 + field (r.id % 256) 8
  | 2 => r.entry.toNat
  | _ => field (b2n r.malf) 63 + field r.level.toNat 61 + r.eaddr.toNat

/-- The fault buffer, 0x040 to 0x046 (R261). -/
def State.readFaults (s : State) (c n : Nat) : Nat :=
  let fs := (s.col c).faults
  let sel := bitsOf (s.host c).fbsel.toNat 0 8
  if n = 0x040 then fs.length
  else if 0x041 ≤ n && n ≤ 0x044 then match fs[sel]? with
    | none => 0
    | some r => r.word (n - 0x041)
  else if n = 0x045 then sel else 0

/-- State of a team in `TMREC`. -/
def TeamState.code : TeamState → Nat
  | .resident => 1
  | .saved => 2
  | _ => 3

/-- `TMREC` for the team that `TMSEL` names. -/
def State.tmrec (s : State) (c : Nat) : Nat :=
  let x := (s.host c).tmsel.toNat
  match s.findTeam (bitsOf x 16 10) (bitsOf x 0 16) with
  | none => 0
  | some t =>
    let tm := s.team t
    field tm.state.code 62 + field tm.core 52 + field (bitsOf tm.recPa 16 36) 16

/-- The scheduler, 0x050 to 0x058 (R278). -/
def State.readSched (s : State) (c n : Nat) : Nat :=
  let job := s.ctxJob (.host c)
  match n with
  | 0x050 => (s.host c).schctl.toNat
  | 0x051 => (s.job job).savebase.toNat
  | 0x052 => (s.job job).savelen.toNat
  | 0x053 => if s.hasPool job then s.poolFree job else 0
  | 0x054 => ((s.col c).aggOf job).toNat
  | 0x055 => ((s.col c).wakes.filter fun w => w.swap).length
  | 0x056 => (s.host c).tmsel.toNat
  | 0x057 => s.tmrec c
  | _ => 0

/-- The selected storage queue, 0x080 to 0x088 (R326). -/
def State.readNvme (s : State) (c n : Nat) : Nat :=
  let q := s.nvq (bitsOf (s.host c).nvqsel.toNat 0 6)
  match n with
  | 0x080 => (s.host c).nvqsel.toNat
  | 0x081 => q.ctl.toNat
  | 0x082 => q.sqb.toNat
  | 0x083 => q.cqb.toNat
  | 0x084 => q.sqdb.toNat
  | 0x085 => q.cqdb.toNat
  | 0x086 => q.qid.toNat
  | 0x087 => q.pab.toNat
  | 0x088 => field q.slots.length 16 + q.sqhead.toNat
  | _ => 0

/-- A word of a loss record. -/
def LossRec.word (r : LossRec) (i : Nat) : Nat :=
  match i with
  | 0 => r.w0.toNat
  | 1 => r.w1.toNat
  | _ => r.w2.toNat

/-- A word of an error record. -/
def ErrRec.word (r : ErrRec) (i : Nat) : Nat :=
  match i with
  | 0 => r.w0.toNat
  | 1 => r.w1.toNat
  | _ => r.w2.toNat

/-- Counters, waves and the loss log of the fabric interface, 0x100 to 0x124 (R307). -/
def State.readFabric (s : State) (c n : Nat) : Nat :=
  let t := towerOfCol c
  let job := s.ctxJob (.host c)
  let j := s.job job
  let m := s.towerJob t job
  let w := s.tower t
  if 0x110 ≤ n && n ≤ 0x11F then (tabGet 0 (n - 0x110) j.wvkid).toNat
  else if 0x121 ≤ n && n ≤ 0x123 then match w.losses.head? with
    | none => 0
    | some r => r.word (n - 0x121)
  else match n with
    | 0x100 => m.inj.toNat
    | 0x101 => m.con.toNat
    | 0x102 => m.lost.toNat
    | 0x103 => j.mcfail.toNat
    | 0x108 => j.wvctl.toNat
    | 0x109 => j.wvkids.toNat
    | 0x10A => j.wave.replied.toNat
    | 0x10B => m.qpass.toNat
    | 0x10C => m.qlost.toNat
    | 0x120 => w.losses.length + field (b2n w.lossOvf) 7
    | _ => 0

/-- Forwarding, the Sahlin transport, UALinkSec and the links, 0x130 to 0x161 (R307). -/
def State.readLinks (s : State) (c n : Nat) : Nat :=
  let h := s.host c
  match n with
  | 0x130 => (s.job (s.ctxJob (.host c))).fwctl.toNat
  | 0x140 => s.shlport.toNat
  | 0x141 => h.shlsel.toNat
  | 0x142 => (tabGet 0 (bitsOf h.shlsel.toNat 0 11) s.shlpfx).toNat
  | 0x143 => s.shliid.toNat
  | 0x150 => h.uksel.toNat
  | 0x155 =>
    let p := tabGet Plane.reset (bitsOf h.uksel.toNat 0 5) s.planes
    field (b2n p.busy) 8 + field p.keyId.toNat 16
  | 0x160 => s.links.toNat
  | 0x161 => s.lnkdrain.toNat
  | _ => 0

/-- Column that keeps a budget for a column: its own for telemetry, else the first of its tower, whose stacks, interface and
flits the other budgets are of (R342). -/
def budgetCol (c k : Nat) : Nat := if k = 3 then c else firstCol (towerOfCol c)

/-- `BGLIM` of the selected activity: the refresh limit is at least what the hotter stack of the tower asks for. -/
def State.readBglim (s : State) (c : Nat) : Nat :=
  let k := bitsOf (s.host c).bgsel.toNat 0 3
  let lim := (tabGet Budget.zero k (s.col (budgetCol c k)).budgets).limit.toNat
  let t := towerOfCol c
  let need := fun (i : Nat) => (Sys2Proof.Config.refreshRate (s.stack i).ref).toNat
  if k = 0 then max lim (max (need (2 * t)) (need (2 * t + 1))) else if k ≤ 4 then lim else 0

/-- `BGUSE` of the selected activity. What refresh used of its limit in a tower's period is the device's (log 44). -/
def State.readBguse (s : State) (c : Nat) : Nat :=
  let k := bitsOf (s.host c).bgsel.toNat 0 3
  let t := towerOfCol c
  if k = 1 then max (s.stack (2 * t)).scrubLast (s.stack (2 * t + 1)).scrubLast / 1024
  else if 2 ≤ k && k ≤ 4 then (tabGet Budget.zero k (s.col (budgetCol c k)).budgets).last
  else if k = 0 then min (s.readBglim c) (Sys2Proof.Config.refreshUse t (s.now / 10000)).toNat
  else 0

/-- Islands, governor, HBM and budgets, 0x200 to 0x222 (R330, R340, R342). -/
def State.readPower (s : State) (c n : Nat) : Nat :=
  let h := s.host c
  let i := s.island (bitsOf h.isel.toNat 0 9)
  let g := (s.col c).gov
  let k := s.stack (bitsOf h.hbmsel.toNat 0 4)
  match n with
  | 0x200 => h.isel.toNat
  | 0x202 => i.status.toNat + field i.point.toNat 8 + field i.target.toNat 16 + field (b2n i.step) 20 + field (b2n i.capped) 21
  | 0x203 => field i.sample.toNat 32 + field i.busyr.toNat 16 + i.stallr.toNat
  | 0x204 => g.level.toNat + field (g.tj % 4096) 4 + field g.events.toNat 16
  | 0x205 => g.thcap.toNat
  | 0x206 => (s.col c).pgate.toNat
  | 0x208 => ((tabGet 0 (s.ctxJob (.host c)) (s.col c).energy.ej).toNat) % 2 ^ 32
  | 0x209 => h.ejhi.toNat
  | 0x20A => (s.col c).energy.eh.toNat % 2 ^ 32
  | 0x210 => h.hbmsel.toNat
  | 0x211 => field k.reads.toNat 32 + field k.cap.toNat 12 + field k.ref.toNat 10 + k.temp.toNat
  | 0x220 => h.bgsel.toNat
  | 0x221 => s.readBglim c
  | 0x222 => s.readBguse c
  | _ => 0

/-- `COLSVC` of a column (R355). -/
def State.readColsvc (s : State) (c : Nat) : Nat :=
  let v := (s.col c).svc
  field v.status.toNat 8 + field (b2n (s.drained c)) 1 + b2n v.drain

/-- Retired columns of a tower: those that behave so. -/
def State.readRetired (s : State) (t : Nat) : Nat :=
  sumNat ((upto 16).map fun i => field (b2n !(s.col (firstCol t + i)).works) i)

/-- Errors, service and configuration, 0x300 to 0x333 (R349). -/
def State.readErrors (s : State) (c n : Nat) : Nat :=
  let h := s.host c
  let col := s.col c
  let t := towerOfCol c
  let svc := bitsOf h.svcsel.toNat 0 7
  let last := s.stack s.hbmLast
  if 0x301 ≤ n && n ≤ 0x303 then match col.errs.head? with
    | none => 0
    | some r => r.word (n - 0x301)
  else match n with
    | 0x300 => col.errs.length + field (b2n col.errOvf) 7
    | 0x305 => col.errCount.toNat
    | 0x306 => col.errThr.toNat
    | 0x310 => h.svcsel.toNat
    | 0x311 => s.readColsvc svc
    | 0x312 => (s.col svc).svc.image.toNat
    | 0x319 => last.status.toNat + field last.toMove.toNat 16
    | 0x320 => (s.tower t).rgtbase.toNat
    | 0x328 => h.shlksel.toNat
    | 0x330 => s.readRetired t
    | 0x331 => (s.stack (2 * t)).retired.toNat + field (s.stack (2 * t + 1)).retired.toNat 32
    | 0x332 => s.hertor.serial.toNat
    | 0x333 => s.hertor.revoked.toNat + field s.hertor.kslot.toNat 4
    | _ => 0

/-- The value of a host system register; a register that cannot be read gives 0 (R10). -/
def State.sysValue (s : State) (c n : Nat) : DWord :=
  BitVec.ofNat 64 (
    if n < 0x020 then s.readCore c n
    else if n < 0x040 then s.readJob c n
    else if n < 0x050 then s.readFaults c n
    else if n < 0x080 then s.readSched c n
    else if n < 0x100 then s.readNvme c n
    else if n < 0x130 then s.readFabric c n
    else if n < 0x200 then s.readLinks c n
    else if n < 0x300 then s.readPower c n
    else s.readErrors c n)

/-- A read of `EJLO` or `EHLO` latches the upper half (R341). -/
def State.latchEnergy (s : State) (c n : Nat) : State :=
  let e := (s.col c).energy
  let hi := fun (x : DWord) => BitVec.ofNat 32 (x.toNat / 2 ^ 32)
  if n = 0x208 then s.modHost c fun h => { h with ejhi := hi (tabGet 0 (s.ctxJob (.host c)) e.ej) }
  else if n = 0x20A then s.modHost c fun h => { h with ejhi := hi e.eh }
  else s

/-- The system registers of a sequencer (R233). -/
def State.seqValue (s : State) (t n : Nat) : DWord :=
  let c := s.core (s.team t).core
  let chain := (s.seqr t).regs.chain.isSome
  let follow := match c.followOn with
    | none => false
    | some m => m.team = t
  BitVec.ofNat 64 (
    if n = 0 then field (homeOf t) 16 + s.handle t
    else if n = 1 then field c.cq.length 8 + c.mq.length
    else field (b2n chain) 1 + b2n follow)

/-! ### Writes -/

/-- `HSTATUS` after a write: IE, PIE, and PPL but for 2, and 3 at supervisor level (R235). -/
def HostCore.setStatus (h : HostCore) (v : DWord) : HostCore :=
  let p := bitsOf v.toNat 2 2
  { h with
    ie := v.getLsbD 7, pie := v.getLsbD 6
    ppl := if p = 2 || (p = 3 && h.pl.toNat < 3) then h.ppl else BitVec.ofNat 2 p }

/-- A write of a register of the host core itself. -/
def HostCore.writeCore (h : HostCore) (n : Nat) (v : DWord) : HostCore :=
  match n with
  | 0x000 => h.setStatus v
  | 0x001 => { h with strap := { h.strap with cause := v } }
  | 0x002 => { h with strap := { h.strap with info := v } }
  | 0x003 => { h with strap := { h.strap with epc := v } }
  | 0x004 => { h with strap := { h.strap with vec := v } }
  | 0x005 => { h with hscratch := v }
  | 0x006 => { h with hmbsel := v &&& 0x7FFFF }
  | 0x007 => { h with hie := v &&& 0xF }
  | 0x009 => { h with htcmp := v }
  | 0x00A => { h with hdeleg := v &&& 0xFFFFFFFFE }
  | 0x00B => if v.getLsbD 0 then { h with hevdrop := 0 } else h
  | 0x011 => { h with mtrap := { h.mtrap with cause := v } }
  | 0x012 => { h with mtrap := { h.mtrap with info := v } }
  | 0x013 => { h with mtrap := { h.mtrap with epc := v } }
  | 0x014 => { h with mtrap := { h.mtrap with vec := v } }
  | 0x020 => { h with jobsel := v &&& 0xFF }
  | 0x045 => { h with fbsel := v &&& 0xFF }
  | 0x050 => { h with schctl := v &&& 0x30000FFFF }
  | 0x056 => { h with tmsel := v &&& 0x3FFFFFF }
  | 0x080 => { h with nvqsel := v &&& 0x3F }
  | 0x141 => { h with shlsel := v &&& 0x7FF }
  | 0x150 => { h with uksel := v &&& 0x1F }
  | 0x200 => { h with isel := v &&& 0x1FF }
  | 0x210 => { h with hbmsel := v &&& 0xF }
  | 0x220 => { h with bgsel := v &&& 0x7 }
  | 0x310 => { h with svcsel := v &&& 0x7F }
  | 0x328 => { h with shlksel := v &&& 0x7FF }
  | _ => h

/-- The next state of an outcome that has one. -/
def afterOf (o : Host.Outcome State Fault Refusal) (s : State) : State :=
  match o with
  | .next t => t
  | _ => s

/-- A write of a register of the selected job. -/
def State.writeJob (s : State) (job n : Nat) (v : DWord) : State :=
  match n with
  | 0x021 => afterOf (execJobctlWrite job v s) s
  | 0x022 => s.modJob job fun b => { b with root := v &&& 0xFFFFFFFFFC000 }
  | 0x023 => afterOf (execJobkeyWrite job false v s) s
  | 0x024 => afterOf (execJobkeyWrite job true v s) s
  | 0x025 => s.modJob job fun b => { b with wdog := v }
  | 0x028 => afterOf (execTelemetryRingSet job false v s) s
  | 0x029 => afterOf (execTelemetryRingSet job true v s) s
  | 0x02B => s.modJob job fun b => { b with trtail := v.setWidth 32 }
  | 0x02C => if v.getLsbD 0 then s.modJob job fun b => { b with trdrop := 0 } else s
  | _ => s

/-- A write of `FBACT`: actions 2 and 3 are ignored (R261). -/
def State.writeFbact (s : State) (c : Nat) (v : DWord) : State :=
  let id := bitsOf v.toNat 8 8
  match bitsOf v.toNat 0 2 with
  | 0 => afterOf (execFbactRetry c id s) s
  | 1 => afterOf (execFbactUnservable c id s) s
  | _ => s

/-- A write of a scheduler register; the save pool is set only while the job is not valid (R278). -/
def State.writeSched (s : State) (c job n : Nat) (v : DWord) : State :=
  match n with
  | 0x051 => if s.jobValid job then s else s.modJob job fun b => { b with savebase := v &&& 0xFFFFFFFFF0000 }
  | 0x052 => if s.jobValid job then s else s.modJob job fun b => { b with savelen := v &&& 0xFFFFFFFFFFFF0000 }
  | 0x054 => s.modCol c fun k => { k with aggbase := tabSet job (v &&& 0x1FFFFFFFFFF0000) k.aggbase }
  | 0x058 => afterOf (execSaverel v s) s
  | _ => s

/-- A write of a storage queue's register; while EN is 1 only a write that clears EN acts (R326). -/
def State.writeNvme (s : State) (c n : Nat) (v : DWord) : State :=
  let i := bitsOf (s.host c).nvqsel.toNat 0 6
  if n = 0x081 then afterOf (execNvqctlWrite i v s) s
  else if n < 0x082 || 0x087 < n then s
  else s.modNvq i fun q =>
    if q.on then q
    else match n with
      | 0x082 => { q with sqb := v &&& 0xFFFFFFFFFFFFF000 }
      | 0x083 => { q with cqb := v &&& 0xFFFFFFFFFFFFF000 }
      | 0x084 => { q with sqdb := v }
      | 0x085 => { q with cqdb := v }
      | 0x086 => { q with qid := v &&& 0xFFFFFFFF }
      | 0x087 => { q with pab := v }
      | _ => q

/-- A write of a fabric register. Registers of a valid job that hold for the package are not written, but for `WVCTL`.EN
(R307). -/
def State.writeFabric (s : State) (c job n : Nat) (v : DWord) : State :=
  let free := !s.jobValid job
  if n = 0x108 then afterOf (execWvctlWrite job v s) s
  else if n = 0x109 then if free then s.modJob job fun b => { b with wvkids := v &&& 0x1F } else s
  else if 0x110 ≤ n && n ≤ 0x11F then
    if free then s.modJob job fun b => { b with wvkid := tabSet (n - 0x110) (v &&& 0xFFFFF) b.wvkid } else s
  else if n = 0x124 then afterOf (execLosspop (towerOfCol c) s) s
  else if n = 0x130 then if free then s.modJob job fun b => { b with fwctl := v &&& 0x7 } else s
  else s

/-- A write of a register of the links. -/
def State.writeLinks (s : State) (c n : Nat) (v : DWord) : State :=
  let h := s.host c
  let plane := bitsOf h.uksel.toNat 0 5
  if 0x151 ≤ n && n ≤ 0x154 then s.modPlane plane fun p => { p with staged := setKeyWord p.staged (n - 0x151) v }
  else match n with
    | 0x140 => { s with shlport := v &&& 0xFFFF }
    | 0x142 => { s with shlpfx := tabSet (bitsOf h.shlsel.toNat 0 11) v s.shlpfx }
    | 0x143 => { s with shliid := v &&& 0xFFFFFFFFFFFFFE00 }
    | 0x155 => if v.getLsbD 0 then afterOf (execUkctlRotate plane s) s else s
    | 0x161 => afterOf (execLnkdrainWrite v s) s
    | _ => s

/-- A write of a power register. -/
def State.writePower (s : State) (c n : Nat) (v : DWord) : State :=
  match n with
  | 0x201 => afterOf (execIsreq c v s) s
  | 0x205 => afterOf (execThcapWrite c v s) s
  | 0x206 => s.modCol c fun k => { k with pgate := v.setWidth 8 }
  | 0x221 =>
    let i := bitsOf (s.host c).bgsel.toNat 0 3
    if i ≤ 4 then s.modCol (budgetCol c i) fun k => { k with budgets := tabMod Budget.zero i (fun b => { b with limit := v }) k.budgets } else s
  | 0x230 => afterOf (execTwrpwr v s) s
  | _ => s

/-- A write of `COLSVC`: its commands act on the state that they find, and DRAIN is written with them (R355). -/
def State.writeColsvc (s : State) (c target : Nat) (v : DWord) : State :=
  let on := v.getLsbD 0
  let s := if v.getLsbD 4 then afterOf (execColsvcLoad c target s) s else s
  let s := if v.getLsbD 2 then afterOf (execColsvcReset c target s) s else s
  let s := if v.getLsbD 3 then afterOf (execColsvcRetire c target s) s else s
  if v.getLsbD 4 || v.getLsbD 2 || v.getLsbD 3 then s.modSvc target fun x => { x with drain := on }
  else afterOf (execColsvcDrain c target on s) s

/-- A write of an error, service or configuration register. -/
def State.writeErrors (s : State) (c n : Nat) (v : DWord) : State :=
  let h := s.host c
  let target := bitsOf h.svcsel.toNat 0 7
  let pod := bitsOf h.shlksel.toNat 0 11
  if 0x329 ≤ n && n ≤ 0x32B then s.modShlkey pod fun k => { k with staged := setKeyWord k.staged (n - 0x329) v }
  else match n with
    | 0x304 => afterOf (execErlpop c s) s
    | 0x306 => s.modCol c fun k => { k with errThr := v.setWidth 32 }
    | 0x307 => afterOf (execErpclr v s) s
    | 0x311 => s.writeColsvc c target v
    | 0x312 => s.modSvc target fun x => { x with image := v &&& 0xFFFFFFFFF0000 }
    | 0x318 => afterOf (execHbmret v s) s
    | 0x320 => s.modTower (towerOfCol c) fun w => { w with rgtbase := v &&& 0xFFFFFFC000000 }
    | 0x32C => afterOf (execShlkeyWrite pod v s) s
    | _ => s

/-- A write of a host system register; one that cannot be written is ignored (R10, R232). -/
def State.sysWrite (s : State) (c n : Nat) (v : DWord) : State :=
  let job := s.ctxJob (.host c)
  let s := s.modHost c fun h => h.writeCore n v
  if n < 0x021 then s
  else if n < 0x040 then s.writeJob job n v
  else if n = 0x046 then s.writeFbact c v
  else if n < 0x080 then s.writeSched c job n v
  else if n < 0x100 then s.writeNvme c n v
  else if n < 0x140 then s.writeFabric c job n v
  else if n < 0x200 then s.writeLinks c n v
  else if n < 0x300 then s.writePower c n v
  else s.writeErrors c n v

/-! ### `sysr` and `sysw` (R232) -/

/-- What both forms check: the context, the number and its level. -/
def State.sysCheck (s : State) (i : Instr) (n : Nat) : Except Stop Unit :=
  match s.kind with
  | .group => notProvided i 3
  | .seq => if n < 3 then .ok () else notProvided i 1
  | .host => match numberLevel n with
    | none => notProvided i 1
    | some l => if s.ctxLevel s.cur < l then notProvided i 4 else .ok ()

/-- R232: read of a system register. -/
def execSysr (d : RegNum) (n : BitVec 11) (s : State) :=
  conclude s (do
    s.sysCheck (.sysr d n) n.toNat
    let (_, t) ← s.operands [dstU d]
    .ok (match s.cur with
      | .host c => ((t.latchEnergy c n.toNat).writeOpd (dstU d) fun _ => (s.sysValue c n.toNat).setWidth 128).advance
      | c => (t.writeOpd (dstU d) fun _ => (s.seqValue (ctxTeam c) n.toNat).setWidth 128).advance))

/-- R232: write of a system register; those of a sequencer are read only. A write of `WVCTL` waits while a team of the
job is between two places. -/
def execSysw (d : RegNum) (n : BitVec 11) (s : State) :=
  conclude s (do
    s.sysCheck (.sysw d n) n.toNat
    let (xs, t) ← s.operands [srcU d]
    match s.cur with
    | .host c =>
      if n.toNat = 0x108 && t.jobTransit (t.ctxJob s.cur) then .error (.wait (.resource .any))
      else .ok (t.advance.sysWrite c n.toNat ((nthLanes xs 0 0).setWidth 64))
    | _ => .ok t.advance)

end Sys2Proof.Machine
end

