-- ==== Sys2Proof/Machine/Sequencer.lean ====
section
/-! DEFINITION. Starting the sequencer of a core and meeting it (R217, R218). -/

namespace Sys2Proof.Machine

/-- The `k` registers that `fork` copies: those up to the one named, or none for `z`. -/
def forkRegs (d : RegNum) : List RegNum :=
  match regClass .group d with
  | .k n => (upto (n + 1)).map fun i => BitVec.ofNat 7 (96 + i)
  | _ => []

/-- A sequencer as `fork` starts it (R217). -/
def Seqr.start (pc : Addr) (ks : Tab DWord) : Seqr := { Seqr.none with pc := pc, k := { vals := ks, states := [] } }

/-- R217: a running sequencer of the core, for any team, makes the split wait. -/
def execFork (d : RegNum) (i : BitVec 18) (s : State) :=
  conclude s (do
    s.needKind (.fork d i) [.group]
    let opd := fun (r : RegNum) => ({ reg := r, role := .src, words := 2, set := .k } : Opd)
    match regClass .group d with
    | .k _ => .ok ()
    | .z => .ok ()
    | _ => illegalOperand 0
    let (xs, t) ← s.operands ((forkRegs d).map opd)
    let core := t.ctxCore t.cur
    if (t.core core).seqOwner.isSome then .error (.wait (.resource .sequencer))
    else
      let ks : Tab DWord := xs.mapIdx fun j f => (j, (f t.low).setWidth 64)
      let pc := t.ctxPc t.cur + (i.signExtend 57) * 4
      let u := t.modCore core fun k => { k with seqOwner := some (ctxTeam t.cur) }
      .ok (u.modTeam (ctxTeam t.cur) fun tm => { tm with seq := some (Seqr.start pc ks) }).advance)

/-- R218: with no sequencer of the team running, it passes. -/
def execJoin (s : State) :=
  conclude s (do
    s.needKind .join [.group]
    if (s.team (ctxTeam s.cur)).seq.isNone then .ok s.advance else .error (.wait .join))

/-- R218: a release, so the sequencer's accesses are performed first. -/
def execRdv (s : State) :=
  conclude s (do
    s.needKind .rdv [.seq]
    s.releaseGate
    .ok (s.modTeam (ctxTeam s.cur) Team.releaseJoins).advance)

end Sys2Proof.Machine
end

