-- ==== Sys2Proof/Machine/Dispatch.lean ====
section
/-! DEFINITION. One arm per instruction: its meaning. -/

namespace Sys2Proof.Machine

/-- The outcome of an instruction or event in a state. -/
def exec (i : Instr) (s : State) : Host.Outcome State Fault Refusal :=
  match i with
  | .add d a b w s1 => Sys2Proof.Machine.execAdd d a b w s1 s
  | .sub d a b w s1 => Sys2Proof.Machine.execSub d a b w s1 s
  | .mul d a b w => Sys2Proof.Machine.execMul d a b w s
  | .mulh d a b w => Sys2Proof.Machine.execMulh d a b w s
  | .mulhU d a b w => Sys2Proof.Machine.execMulhU d a b w s
  | .mad d a b w => Sys2Proof.Machine.execMad d a b w s
  | .min d a b w => Sys2Proof.Machine.execMin d a b w s
  | .max d a b w => Sys2Proof.Machine.execMax d a b w s
  | .minU d a b w => Sys2Proof.Machine.execMinU d a b w s
  | .maxU d a b w => Sys2Proof.Machine.execMaxU d a b w s
  | .abs d a w => Sys2Proof.Machine.execAbs d a w s
  | .popc d a w => Sys2Proof.Machine.execPopc d a w s
  | .clz d a w => Sys2Proof.Machine.execClz d a w s
  | .brev d a w => Sys2Proof.Machine.execBrev d a w s
  | .and d a b w => Sys2Proof.Machine.execAnd d a b w s
  | .or d a b w => Sys2Proof.Machine.execOr d a b w s
  | .xor d a b w => Sys2Proof.Machine.execXor d a b w s
  | .andn d a b w => Sys2Proof.Machine.execAndn d a b w s
  | .shl d a b w => Sys2Proof.Machine.execShl d a b w s
  | .shr d a b w => Sys2Proof.Machine.execShr d a b w s
  | .sar d a b w => Sys2Proof.Machine.execSar d a b w s
  | .rot d a b w => Sys2Proof.Machine.execRot d a b w s
  | .bfx d a b w s1 => Sys2Proof.Machine.execBfx d a b w s1 s
  | .bfi d a b w => Sys2Proof.Machine.execBfi d a b w s
  | .sel d a b w p => Sys2Proof.Machine.execSel d a b w p s
  | .cmp p a b w c => Sys2Proof.Machine.execCmp p a b w c s
  | .cmpU p a b w c => Sys2Proof.Machine.execCmpU p a b w c s
  | .lea d a b w s1 => Sys2Proof.Machine.execLea d a b w s1 s
  | .div d a b w => Sys2Proof.Machine.execDiv d a b w s
  | .divU d a b w => Sys2Proof.Machine.execDivU d a b w s
  | .rem d a b w => Sys2Proof.Machine.execRem d a b w s
  | .remU d a b w => Sys2Proof.Machine.execRemU d a b w s
  | .addi d a i1 => Sys2Proof.Machine.execAddi d a i1 s
  | .andi d a i1 => Sys2Proof.Machine.execAndi d a i1 s
  | .ori d a i1 => Sys2Proof.Machine.execOri d a i1 s
  | .xori d a i1 => Sys2Proof.Machine.execXori d a i1 s
  | .shli d a n => Sys2Proof.Machine.execShli d a n s
  | .movi d i1 => Sys2Proof.Machine.execMovi d i1 s
  | .movh d i1 => Sys2Proof.Machine.execMovh d i1 s
  | .br o => Sys2Proof.Machine.execBr o s
  | .bp n p o => Sys2Proof.Machine.execBp n p o s
  | .call o => Sys2Proof.Machine.execCall o s
  | .jr a => Sys2Proof.Machine.execJr a s
  | .ret => Sys2Proof.Machine.execRet s
  | .loop a l => Sys2Proof.Machine.execLoop a l s
  | .loopI n l => Sys2Proof.Machine.execLoopI n l s
  | .exit => Sys2Proof.Machine.execExit s
  | .brk c => Sys2Proof.Machine.execBrk c s
  | .trap c => Sys2Proof.Machine.execTrap c s
  | .fadd d a b s1 r => Sys2Proof.Machine.execFadd d a b s1 r s
  | .fsub d a b s1 r => Sys2Proof.Machine.execFsub d a b s1 r s
  | .fmul d a b s1 r => Sys2Proof.Machine.execFmul d a b s1 r s
  | .fma d a b s1 r => Sys2Proof.Machine.execFma d a b s1 r s
  | .fmin d a b => Sys2Proof.Machine.execFmin d a b s
  | .fmax d a b => Sys2Proof.Machine.execFmax d a b s
  | .fcmp p a b c => Sys2Proof.Machine.execFcmp p a b c s
  | .fdiv d a b s1 r => Sys2Proof.Machine.execFdiv d a b s1 r s
  | .fsqrt d a s1 r => Sys2Proof.Machine.execFsqrt d a s1 r s
  | .frcp d a s1 r => Sys2Proof.Machine.execFrcp d a s1 r s
  | .hadd2 d a b k s1 r => Sys2Proof.Machine.execHadd2 d a b k s1 r s
  | .hmul2 d a b k s1 r => Sys2Proof.Machine.execHmul2 d a b k s1 r s
  | .hfma2 d a b k s1 r => Sys2Proof.Machine.execHfma2 d a b k s1 r s
  | .cvt d a t e s1 r => Sys2Proof.Machine.execCvt d a t e s1 r s
  | .cvts d a b x s1 r => Sys2Proof.Machine.execCvts d a b x s1 r s
  | .fexp2 d a => Sys2Proof.Machine.execFexp2 d a s
  | .flog2 d a => Sys2Proof.Machine.execFlog2 d a s
  | .fsin d a => Sys2Proof.Machine.execFsin d a s
  | .fcos d a => Sys2Proof.Machine.execFcos d a s
  | .ftanh d a => Sys2Proof.Machine.execFtanh d a s
  | .fsig d a => Sys2Proof.Machine.execFsig d a s
  | .frsq d a => Sys2Proof.Machine.execFrsq d a s
  | .fexp2Bf d a => Sys2Proof.Machine.execFexp2Bf d a s
  | .flog2Bf d a => Sys2Proof.Machine.execFlog2Bf d a s
  | .fsinBf d a => Sys2Proof.Machine.execFsinBf d a s
  | .fcosBf d a => Sys2Proof.Machine.execFcosBf d a s
  | .ftanhBf d a => Sys2Proof.Machine.execFtanhBf d a s
  | .fsigBf d a => Sys2Proof.Machine.execFsigBf d a s
  | .frsqBf d a => Sys2Proof.Machine.execFrsqBf d a s
  | .fexp2Hf d a => Sys2Proof.Machine.execFexp2Hf d a s
  | .flog2Hf d a => Sys2Proof.Machine.execFlog2Hf d a s
  | .fsinHf d a => Sys2Proof.Machine.execFsinHf d a s
  | .fcosHf d a => Sys2Proof.Machine.execFcosHf d a s
  | .ftanhHf d a => Sys2Proof.Machine.execFtanhHf d a s
  | .fsigHf d a => Sys2Proof.Machine.execFsigHf d a s
  | .frsqHf d a => Sys2Proof.Machine.execFrsqHf d a s
  | .tbl d a f => Sys2Proof.Machine.execTbl d a f s
  | .tblld a b => Sys2Proof.Machine.execTblld a b s
  | .tblsw => Sys2Proof.Machine.execTblsw s
  | .vote d p k => Sys2Proof.Machine.execVote d p k s
  | .shfl d a b k => Sys2Proof.Machine.execShfl d a b k s
  | .red d a o => Sys2Proof.Machine.execRed d a o s
  | .scan d a x o => Sys2Proof.Machine.execScan d a x o s
  | .part n => Sys2Proof.Machine.execPart n s
  | .lmask d => Sys2Proof.Machine.execLmask d s
  | .pand d a b => Sys2Proof.Machine.execPand d a b s
  | .por d a b => Sys2Proof.Machine.execPor d a b s
  | .pxor d a b => Sys2Proof.Machine.execPxor d a b s
  | .pnot d a => Sys2Proof.Machine.execPnot d a s
  | .ld d a z o => Sys2Proof.Machine.execLd d a z o s
  | .st d a z o => Sys2Proof.Machine.execSt d a z o s
  | .ldAcq d a z c => Sys2Proof.Machine.execLdAcq d a z c s
  | .ldSc d a z c => Sys2Proof.Machine.execLdSc d a z c s
  | .stRel d a z c => Sys2Proof.Machine.execStRel d a z c s
  | .stSc d a z c => Sys2Proof.Machine.execStSc d a z c s
  | .ldt d a b x => Sys2Proof.Machine.execLdt d a b x s
  | .ldro d a z o => Sys2Proof.Machine.execLdro d a z o s
  | .ldv d a z o => Sys2Proof.Machine.execLdv d a z o s
  | .stv d a z o => Sys2Proof.Machine.execStv d a z o s
  | .stvG d a b z => Sys2Proof.Machine.execStvG d a b z s
  | .pf l a i1 => Sys2Proof.Machine.execPf l a i1 s
  | .cctl a o => Sys2Proof.Machine.execCctl a o s
  | .fence o x c => Sys2Proof.Machine.execFence o x c s
  | .waitc l s1 => Sys2Proof.Machine.execWaitc l s1 s
  | .atom d a b o => Sys2Proof.Machine.execAtom d a b o s
  | .atomD d a b o => Sys2Proof.Machine.execAtomD d a b o s
  | .atomp d a b o => Sys2Proof.Machine.execAtomp d a b o s
  | .atompD d a b o => Sys2Proof.Machine.execAtompD d a b o s
  | .ldp d a z o => Sys2Proof.Machine.execLdp d a z o s
  | .stp d a z o => Sys2Proof.Machine.execStp d a z o s
  | .rput n t a b x y z => Sys2Proof.Machine.execRput n t a b x y z s
  | .rputG n t a b x y z => Sys2Proof.Machine.execRputG n t a b x y z s
  | .arm d q n => Sys2Proof.Machine.execArm d q n s
  | .disarm d n => Sys2Proof.Machine.execDisarm d n s
  | .msgs d a b t => Sys2Proof.Machine.execMsgs d a b t s
  | .capmk d a => Sys2Proof.Machine.execCapmk d a s
  | .capck d a => Sys2Proof.Machine.execCapck d a s
  | .msgd => Sys2Proof.Machine.execMsgd s
  | .waitq d => Sys2Proof.Machine.execWaitq d s
  | .barInit a n => Sys2Proof.Machine.execBarInit a n s
  | .barArv n => Sys2Proof.Machine.execBarArv n s
  | .barWait n => Sys2Proof.Machine.execBarWait n s
  | .barRarv a t => Sys2Proof.Machine.execBarRarv a t s
  | .gset d a b => Sys2Proof.Machine.execGset d a b s
  | .gwait d a b k q => Sys2Proof.Machine.execGwait d a b k q s
  | .waitk m => Sys2Proof.Machine.execWaitk m s
  | .mma d a b f => Sys2Proof.Machine.execMma d a b f s
  | .chb t => Sys2Proof.Machine.execChb t s
  | .che t => Sys2Proof.Machine.execChe t s
  | .scs n a => Sys2Proof.Machine.execScs n a s
  | .acal d a => Sys2Proof.Machine.execAcal d a s
  | .acfr a => Sys2Proof.Machine.execAcfr a s
  | .acrd d a b => Sys2Proof.Machine.execAcrd d a b s
  | .acwr a b => Sys2Proof.Machine.execAcwr a b s
  | .acz a => Sys2Proof.Machine.execAcz a s
  | .aud a => Sys2Proof.Machine.execAud a s
  | .tcopy => Sys2Proof.Machine.execTcopy s
  | .pipe x n => Sys2Proof.Machine.execPipe x n s
  | .fork d i1 => Sys2Proof.Machine.execFork d i1 s
  | .join => Sys2Proof.Machine.execJoin s
  | .rdv => Sys2Proof.Machine.execRdv s
  | .launch a => Sys2Proof.Machine.execLaunch a s
  | .nvsub d a b r => Sys2Proof.Machine.execNvsub d a b r s
  | .nvwait d a q => Sys2Proof.Machine.execNvwait d a q s
  | .movs d x s1 => Sys2Proof.Machine.execMovs d x s1 s
  | .movsWrite d x s1 => Sys2Proof.Machine.execMovsWrite d x s1 s
  | .winb w => Sys2Proof.Machine.execWinb w s
  | .sysr d n => Sys2Proof.Machine.execSysr d n s
  | .sysw d n => Sys2Proof.Machine.execSysw d n s
  | .eret => Sys2Proof.Machine.execEret s
  | .wfi => Sys2Proof.Machine.execWfi s
  | .halt => Sys2Proof.Machine.execHalt s
  | .tlbi a b k => Sys2Proof.Machine.execTlbi a b k s
  | .preempt d a k => Sys2Proof.Machine.execPreempt d a k s
  | .resume d a => Sys2Proof.Machine.execResume d a s
  | .mfree a b => Sys2Proof.Machine.execMfree a b s
  | .mused a b => Sys2Proof.Machine.execMused a b s
  | .rgrel a b => Sys2Proof.Machine.execRgrel a b s
  | .loadReturn c n => Sys2Proof.Machine.execLoadReturn c n s
  | .storePerformed c n => Sys2Proof.Machine.execStorePerformed c n s
  | .atomicReturn c n => Sys2Proof.Machine.execAtomicReturn c n s
  | .memoryPoison c => Sys2Proof.Machine.execMemoryPoison c s
  | .overwrite team g => Sys2Proof.Machine.execOverwrite team g s
  | .homeRequest core line write => Sys2Proof.Machine.execHomeRequest core line write s
  | .writeBack col line => Sys2Proof.Machine.execWriteBack col line s
  | .snoopFilterEviction col line => Sys2Proof.Machine.execSnoopFilterEviction col line s
  | .putArrival n => Sys2Proof.Machine.execPutArrival n s
  | .rputGArrival n => Sys2Proof.Machine.execRputGArrival n s
  | .barrierArrival n => Sys2Proof.Machine.execBarrierArrival n s
  | .messageArrival n => Sys2Proof.Machine.execMessageArrival n s
  | .stpArrival n => Sys2Proof.Machine.execStpArrival n s
  | .atompArrival n => Sys2Proof.Machine.execAtompArrival n s
  | .ldpArrival n => Sys2Proof.Machine.execLdpArrival n s
  | .tcopyChunkArrival n => Sys2Proof.Machine.execTcopyChunkArrival n s
  | .messageAck n => Sys2Proof.Machine.execMessageAck n s
  | .retransmit n => Sys2Proof.Machine.execRetransmit n s
  | .writeoff n => Sys2Proof.Machine.execWriteoff n s
  | .writeoffArrival n => Sys2Proof.Machine.execWriteoffArrival n s
  | .writeoffAnswer n => Sys2Proof.Machine.execWriteoffAnswer n s
  | .peerWriteoff n => Sys2Proof.Machine.execPeerWriteoff n s
  | .redirect n => Sys2Proof.Machine.execRedirect n s
  | .retranslate n => Sys2Proof.Machine.execRetranslate n s
  | .translationInvalidation n => Sys2Proof.Machine.execTranslationInvalidation n s
  | .wavePassStart job => Sys2Proof.Machine.execWavePassStart job s
  | .wave n => Sys2Proof.Machine.execWave n s
  | .reply n => Sys2Proof.Machine.execReply n s
  | .quiet n => Sys2Proof.Machine.execQuiet n s
  | .waveResend n => Sys2Proof.Machine.execWaveResend n s
  | .packetForward port => Sys2Proof.Machine.execPacketForward port s
  | .packetUrgent port n => Sys2Proof.Machine.execPacketUrgent port n s
  | .gaugeCount n => Sys2Proof.Machine.execGaugeCount n s
  | .notifyStore n => Sys2Proof.Machine.execNotifyStore n s
  | .gaugeLaunchRetry n => Sys2Proof.Machine.execGaugeLaunchRetry n s
  | .launchLineStore n => Sys2Proof.Machine.execLaunchLineStore n s
  | .launchRecordTake col pri => Sys2Proof.Machine.execLaunchRecordTake col pri s
  | .aggregationBatchClose col slot => Sys2Proof.Machine.execAggregationBatchClose col slot s
  | .clusterPlace col choice => Sys2Proof.Machine.execClusterPlace col choice s
  | .pwaitExpire col pri => Sys2Proof.Machine.execPwaitExpire col pri s
  | .groupUrgent team g => Sys2Proof.Machine.execGroupUrgent team g s
  | .groupRetire team g => Sys2Proof.Machine.execGroupRetire team g s
  | .teamRetire team => Sys2Proof.Machine.execTeamRetire team s
  | .completionNotice n => Sys2Proof.Machine.execCompletionNotice n s
  | .watchdog team => Sys2Proof.Machine.execWatchdog team s
  | .swapTick team => Sys2Proof.Machine.execSwapTick team s
  | .teamHalt team => Sys2Proof.Machine.execTeamHalt team s
  | .saveComplete team => Sys2Proof.Machine.execSaveComplete team s
  | .kstep core n q => Sys2Proof.Machine.execKstep core n q s
  | .auditRecordWrite core n => Sys2Proof.Machine.execAuditRecordWrite core n s
  | .acfrBanksFree core n => Sys2Proof.Machine.execAcfrBanksFree core n s
  | .copyChunkComplete core n chunk => Sys2Proof.Machine.execCopyChunkComplete core n chunk s
  | .pipeDepthAdjust team => Sys2Proof.Machine.execPipeDepthAdjust team s
  | .tblldFillComplete core => Sys2Proof.Machine.execTblldFillComplete core s
  | .tblDrainEnd core => Sys2Proof.Machine.execTblDrainEnd core s
  | .nvmeCompletion queue => Sys2Proof.Machine.execNvmeCompletion queue s
  | .hostTimer col => Sys2Proof.Machine.execHostTimer col s
  | .interruptTaken col => Sys2Proof.Machine.execInterruptTaken col s
  | .fbactRetry col id => Sys2Proof.Machine.execFbactRetry col id s
  | .fbactUnservable col id => Sys2Proof.Machine.execFbactUnservable col id s
  | .isreq col v => Sys2Proof.Machine.execIsreq col v s
  | .islandVoltageSettled island => Sys2Proof.Machine.execIslandVoltageSettled island s
  | .islandClockRestart island => Sys2Proof.Machine.execIslandClockRestart island s
  | .thcapWrite col v => Sys2Proof.Machine.execThcapWrite col v s
  | .activityWindowEnd col meas => Sys2Proof.Machine.execActivityWindowEnd col meas s
  | .governorSample col sensors => Sys2Proof.Machine.execGovernorSample col sensors s
  | .emergencyIslandDrop col => Sys2Proof.Machine.execEmergencyIslandDrop col s
  | .coreSleep core => Sys2Proof.Machine.execCoreSleep core s
  | .coreWake core => Sys2Proof.Machine.execCoreWake core s
  | .pgateGate core => Sys2Proof.Machine.execPgateGate core s
  | .pgateUngate core => Sys2Proof.Machine.execPgateUngate core s
  | .energyInterval col e => Sys2Proof.Machine.execEnergyInterval col e s
  | .budgetPeriod col => Sys2Proof.Machine.execBudgetPeriod col s
  | .hbmTempReading stack temp => Sys2Proof.Machine.execHbmTempReading stack temp s
  | .thermalTrip tower sensor => Sys2Proof.Machine.execThermalTrip tower sensor s
  | .twrpwr v => Sys2Proof.Machine.execTwrpwr v s
  | .rfScrub team g row errs => Sys2Proof.Machine.execRfScrub team g row errs s
  | .hbmScrub line res => Sys2Proof.Machine.execHbmScrub line res s
  | .errorRateCheck col => Sys2Proof.Machine.execErrorRateCheck col s
  | .columnFailure col => Sys2Proof.Machine.execColumnFailure col s
  | .erpclr v => Sys2Proof.Machine.execErpclr v s
  | .erlpop col => Sys2Proof.Machine.execErlpop col s
  | .losspop tower => Sys2Proof.Machine.execLosspop tower s
  | .saverel v => Sys2Proof.Machine.execSaverel v s
  | .hbmret v => Sys2Proof.Machine.execHbmret v s
  | .hbmChannelMoveDone stack => Sys2Proof.Machine.execHbmChannelMoveDone stack s
  | .colsvcDrain col target on => Sys2Proof.Machine.execColsvcDrain col target on s
  | .colsvcReset col target => Sys2Proof.Machine.execColsvcReset col target s
  | .colsvcRetire col target => Sys2Proof.Machine.execColsvcRetire col target s
  | .colsvcLoad col target => Sys2Proof.Machine.execColsvcLoad col target s
  | .jobctlWrite job v => Sys2Proof.Machine.execJobctlWrite job v s
  | .jobkeyWrite job hi v => Sys2Proof.Machine.execJobkeyWrite job hi v s
  | .telemetryRingSet job size v => Sys2Proof.Machine.execTelemetryRingSet job size v s
  | .wvctlWrite job v => Sys2Proof.Machine.execWvctlWrite job v s
  | .lnkdrainWrite v => Sys2Proof.Machine.execLnkdrainWrite v s
  | .nvqctlWrite queue v => Sys2Proof.Machine.execNvqctlWrite queue v s
  | .shlkeyWrite pod v => Sys2Proof.Machine.execShlkeyWrite pod v s
  | .shlkeyOldExpire pod => Sys2Proof.Machine.execShlkeyOldExpire pod s
  | .ukctlRotate plane => Sys2Proof.Machine.execUkctlRotate plane s
  | .keyRetire plane => Sys2Proof.Machine.execKeyRetire plane s
  | .linkRetry link => Sys2Proof.Machine.execLinkRetry link s
  | .linkStateChange link up => Sys2Proof.Machine.execLinkStateChange link up s
  | .sahlinDatagram dg => Sys2Proof.Machine.execSahlinDatagram dg s
  | .pcieInboundRequest port req => Sys2Proof.Machine.execPcieInboundRequest port req s
  | .spdmRequest req => Sys2Proof.Machine.execSpdmRequest req s
  | .auxPowerOn => Sys2Proof.Machine.execAuxPowerOn s
  | .mainPowerOn trained => Sys2Proof.Machine.execMainPowerOn trained s
  | .mrstn low => Sys2Proof.Machine.execMrstn low s
  | .perstn port low => Sys2Proof.Machine.execPerstn port low s
  | .restoreComplete team => Sys2Proof.Machine.execRestoreComplete team s
  | .vaultSliceAccumScrub site res => Sys2Proof.Machine.execVaultSliceAccumScrub site res s
  | .powerRemoval aux => Sys2Proof.Machine.execPowerRemoval aux s

end Sys2Proof.Machine
end

