-- ==== Sys2Proof/Machine/Schedule.lean ====
section
/-! DEFINITION. The issue slot of a quarter: which splits wait, which group and which split issue (R29, R31, R107, R285 to
R287), and the issue of the current context. -/

namespace Sys2Proof.Machine

/-! ### What a split waits on -/

/-- A wait of a split whose instruction has not issued: it is tried again. -/
def Wait.retried : Wait → Bool
  | .queue _ _ => true
  | .reg _ _ => true
  | .barrier _ _ => true
  | .gauge _ _ _ _ => true
  | .token _ => true
  | .counts _ _ => true
  | .resource _ => true
  | .order => true
  | _ => false

/-- What a split waits on now: nothing where its next instruction would issue. -/
def State.waitNow (s : State) (t g p : Nat) : Wait :=
  let sp := s.split t g p
  if !sp.valid || sp.held || sp.parkHeld || sp.wait.passive then sp.wait
  else match ({ s.modGroup t g (Group.issued s.now p) with cur := .group t g p } : State).prepareIssue with
    | .done _ => .none
    | .run i u => match exec i u with
      | .next v => let w := (v.split t g p).wait; if w.retried then w else .none
      | _ => .none

/-- The group with the waits of its splits as they are now. -/
def State.refreshGroup (s : State) (t g : Nat) : Group :=
  let gr := s.group t g
  { gr with splits := gr.splits.mapIdx fun p x => { x with wait := s.waitNow t g p } }

/-- The groups of a quarter of a core that may issue. -/
def State.quarterGroups (s : State) (core q : Nat) : List (Nat × Nat) :=
  s.teams.flatMap fun e =>
    if e.2.core ≠ core then []
    else ((upto e.2.groups.length).filter fun g =>
      let gr := e.2.groups.getD g Group.none
      gr.quarter = q && !gr.retired && s.groupRuns e.1 g).map fun g => (e.1, g)

/-- Groups with the waits of their splits as they are now. -/
def State.refresh (s : State) (gs : List (Nat × Nat)) : State :=
  let fresh := gs.map fun e => (e, s.refreshGroup e.1 e.2)
  fresh.foldl (fun t e => t.modGroup e.1.1 e.1.2 fun _ => e.2) s

/-- An issue boundary of a quarter: waits that are over end, splits that meet become one, and the waits of those that moved
into a table entry are known (R29, R31). -/
def State.boundary (s : State) (core q : Nat) : State :=
  let gs := s.quarterGroups core q
  (gs.foldl (fun s e => s.modGroup e.1 e.2 Group.confluence) (s.refresh gs)).refresh gs

/-! ### The choice (R285, R286) -/

/-- The first of two ready groups comes before the second: urgent ones first, oldest-ready first; else the higher PRI, and
within one PRI oldest-ready first. -/
def State.before (s : State) (a b : Nat × Nat) : Bool :=
  let x := s.group a.1 a.2
  let y := s.group b.1 b.2
  let pri := fun (e : Nat × Nat) => lrPri (s.team e.1).launch
  if x.urgent || y.urgent then x.urgent && (!y.urgent || y.waitingIssue < x.waitingIssue)
  else pri b < pri a || (pri a = pri b && y.waitingIssue < x.waitingIssue)

/-- The ready group of a quarter that is chosen; of equals, the first by team and number (log 43). -/
def State.chosenGroup (s : State) (core q : Nat) : Option (Nat × Nat) :=
  ((s.quarterGroups core q).filter fun e => s.slotReady e.1 e.2).foldl
    (fun best e => match best with
      | none => some e
      | some b => if s.before e b then some e else some b) none

/-- The split of a chosen group that issues: the first ready one after the entry that issued last. A group with a trap of an
access due may have none. -/
def State.chosenSplit (s : State) (t g : Nat) : Nat :=
  let gr := s.group t g
  (([1, 2, 3, 4].map fun i => (gr.lastIssued + i) % 4).find? fun p => s.splitReady t g p).getD 0

/-- An issue slot of the quarter that a group belongs to. -/
def State.prepareSlot (s : State) (t g : Nat) : Prep :=
  if (tabFind t s.teams).isNone then .done (.next s)
  else
    let core := (s.team t).core
    let q := (s.group t g).quarter
    let u := s.boundary core q
    match u.chosenGroup core q with
    | none => .done (.next u)
    | some e =>
      let p := u.chosenSplit e.1 e.2
      { u with cur := .group e.1 e.2 p }.prepareGroup e.1 e.2 p

/-- What the issue of the current context comes to: for a group, a slot of its quarter. -/
def State.prepare (s : State) : Prep :=
  match s.cur with
  | .group t g _ => s.prepareSlot t g
  | .seq t => s.prepareSeq t
  | .host c => s.prepareHost c

/-- The current context issues its next instruction. -/
def stepIssue (s : State) : Host.Outcome State Fault Refusal :=
  match s.prepare with
  | .run i t => exec i t
  | .done o => o

end Sys2Proof.Machine
end

