-- ==== Sys2Proof/Machine/Step.lean ====
section
/-! DEFINITION. One step of the package: what its agenda holds next, or the issue of the current context
(logs 4 to 6), and placing a word where the next step fetches it. -/

namespace Sys2Proof.Machine

/-- One step: the head of the agenda, or the issue of the current context when the agenda is empty. -/
def step (s : State) : Host.Outcome State Fault Refusal :=
  match s.agenda with
  | [] => stepIssue s
  | a :: rest =>
    let t := { s with agenda := rest }
    match a with
    | .issue c => stepIssue { t with cur := c }
    | .event i => if isEvent i then exec i t else .next t
    | a => .next (t.outside a)

/-- The instruction in a word, stored where the next step fetches it: its bytes in little-endian order at the
current context's pc, with nothing before it in the agenda. -/
def State.withFetchWord (s : State) (nbits w : Nat) : State :=
  let t := { s with agenda := [] }
  if nbits ≤ 32 then t.placeCode (toBytes 4 w) else t

end Sys2Proof.Machine
end

