-- ==== Sys2Proof/Safety.lean ====
section
/-! DEFINITION. What a safe step is, in the terms the statements use: a step that does not stop the machine. -/

namespace Sys2Proof

open Sys2Proof.Machine

/-- The step goes on. -/
def Safe (s : State) : Prop := ∃ t, step s = .next t

/-- The step neither stops the machine with a fault nor is refused, and its next state satisfies `P`. -/
def SafeInto (P : State → Prop) (s : State) : Prop := ∃ t, step s = .next t ∧ P t

end Sys2Proof
end

