-- ==== Sys2Proof/Certificates/Slice0/Obligations.lean ====
section
/-! DEFINITION. The statements for the provers. What a statement needs beside the model's own operations is defined here
from the rules, under `Sys2Proof.Spec`. -/

namespace Sys2Proof.Spec

open Sys2Proof.Machine

/-! ### Contexts -/

/-- The issuing context exists: its team is in the directory, its group and split have entries, its sequencer runs. -/
def live (s : State) : Prop :=
  match s.cur with
  | .group t g p => (tabFind t s.teams).isSome ∧ g < (s.team t).groups.length ∧ p < (s.group t g).splits.length
  | .seq t => (tabFind t s.teams).isSome ∧ (s.team t).seq.isSome
  | .host _ => True

/-- Nothing of the package but teams and columns differs. -/
def onlyTeamsAndColumns (s t : State) : Prop := t = { s with teams := t.teams, cols := t.cols }

/-- No operand is a queue port. -/
def noPort (s : State) (os : List Opd) : Prop := ∀ o ∈ os, ∀ n, s.cls o ≠ .q n

/-! ### Encoding -/

/-- A major opcode that R75 leaves unassigned. -/
def unassignedMajor (op : Nat) : Bool :=
  op == 0x00 || op == 0x17 || op == 0x1F || (0x2C ≤ op && op ≤ 0x2F) || op == 0x3F || (0x4D ≤ op && op ≤ 0x4F)
    || (0x54 ≤ op && op ≤ 0x57) || op == 0x67 || op == 0x6E || op == 0x6F || op == 0x77

/-! ### Integer values (R85 to R99) -/

/-- The two's complement reading of an `n`-bit value. -/
def sgn (n x : Nat) : Int := if x < 2 ^ (n - 1) then (x : Int) else (x : Int) - 2 ^ n

/-- An exact integer wrapped to `n` bits. -/
def wrap (n : Nat) (x : Int) : Nat := (x % (2 ^ n : Int)).toNat

/-- An exact integer brought into a range. -/
def clamp (lo hi x : Int) : Int := max lo (min hi x)

/-- R88: how the exact sum or difference is brought to `n` bits. -/
def saturated (n code : Nat) (op : Int → Int → Int) (a b : Nat) : Nat :=
  if code = 0 then wrap n (op a b)
  else if code = 1 then wrap n (clamp (-(2 ^ (n - 1))) (2 ^ (n - 1) - 1) (op (sgn n a) (sgn n b)))
  else wrap n (clamp 0 (2 ^ n - 1) (op a b))

/-- R93: the field of `a` at position b[7:0] of length b[15:8]. -/
def field (n : Nat) (signed : Bool) (a b : Nat) : Nat :=
  let p := b % 256
  let len := b / 256 % 256
  let f := a / 2 ^ p % 2 ^ min len n
  if signed ∧ 0 < len ∧ len ≤ n ∧ f.testBit (len - 1) = true then wrap n ((f : Int) - 2 ^ len) else f

/-- The two-source integer forms: destination, sources, `fn[3]`, and the result on `n`-bit values. -/
def intTwo : Instr → Option (RegNum × RegNum × RegNum × Bool × (Nat → Nat → Nat → Nat))
  | .add d a b w c => some (d, a, b, w, fun n x y => saturated n c.toNat (· + ·) x y)
  | .sub d a b w c => some (d, a, b, w, fun n x y => saturated n c.toNat (· - ·) x y)
  | .mul d a b w => some (d, a, b, w, fun n x y => x * y % 2 ^ n)
  | .mulh d a b w => some (d, a, b, w, fun n x y => wrap n (sgn n x * sgn n y / 2 ^ n))
  | .mulhU d a b w => some (d, a, b, w, fun n x y => x * y / 2 ^ n)
  | .min d a b w => some (d, a, b, w, fun n x y => if sgn n x ≤ sgn n y then x else y)
  | .max d a b w => some (d, a, b, w, fun n x y => if sgn n x ≤ sgn n y then y else x)
  | .minU d a b w => some (d, a, b, w, fun _ x y => if x ≤ y then x else y)
  | .maxU d a b w => some (d, a, b, w, fun _ x y => if x ≤ y then y else x)
  | .and d a b w => some (d, a, b, w, fun _ x y => x &&& y)
  | .or d a b w => some (d, a, b, w, fun _ x y => x ||| y)
  | .xor d a b w => some (d, a, b, w, fun _ x y => x ^^^ y)
  | .andn d a b w => some (d, a, b, w, fun n x y => x &&& (2 ^ n - 1 - y))
  | .shl d a b w => some (d, a, b, w, fun n x y => if y < n then x * 2 ^ y % 2 ^ n else 0)
  | .shr d a b w => some (d, a, b, w, fun n x y => if y < n then x / 2 ^ y else 0)
  | .sar d a b w => some (d, a, b, w, fun n x y =>
      if y < n then wrap n (sgn n x / 2 ^ y) else if x < 2 ^ (n - 1) then 0 else 2 ^ n - 1)
  | .rot d a b w => some (d, a, b, w, fun n x y => x * 2 ^ (y % n) % 2 ^ n + x / 2 ^ (n - y % n))
  | .bfx d a b w sx => some (d, a, b, w, fun n x y => field n sx x y)
  | .lea d a b w sh => some (d, a, b, w, fun n x y => (x + y * 2 ^ sh.toNat) % 2 ^ n)
  | .div d a b w => some (d, a, b, w, fun n x y => if y = 0 then 2 ^ n - 1 else wrap n ((sgn n x).tdiv (sgn n y)))
  | .divU d a b w => some (d, a, b, w, fun n x y => if y = 0 then 2 ^ n - 1 else x / y)
  | .rem d a b w => some (d, a, b, w, fun n x y => if y = 0 then x else wrap n ((sgn n x).tmod (sgn n y)))
  | .remU d a b w => some (d, a, b, w, fun _ x y => if y = 0 then x else x % y)
  | _ => none

/-- The division forms. -/
def isDivision : Instr → Bool
  | .div _ _ _ _ => true
  | .divU _ _ _ _ => true
  | .rem _ _ _ _ => true
  | .remU _ _ _ _ => true
  | _ => false

/-- The one-source and immediate forms: destination, source (the destination itself for `movh`, none for `movi`), `fn[3]`,
and the result on `n`-bit values. -/
def intOne : Instr → Option (RegNum × Option RegNum × Bool × (Nat → Nat → Nat))
  | .abs d a w => some (d, some a, w, fun n x => wrap n |sgn n x|)
  | .popc d a w => some (d, some a, w, fun n x => ((List.range n).filter fun i => x.testBit i).length)
  | .clz d a w => some (d, some a, w, fun n x => if x = 0 then n else n - 1 - x.log2)
  | .addi d a i => some (d, some a, false, fun n x => wrap n (x + i.toInt))
  | .andi d a i => some (d, some a, false, fun n x => x &&& wrap n i.toInt)
  | .ori d a i => some (d, some a, false, fun n x => x ||| wrap n i.toInt)
  | .xori d a i => some (d, some a, false, fun n x => x ^^^ wrap n i.toInt)
  | .shli d a k => some (d, some a, false, fun n x => if k.toNat < n then x * 2 ^ k.toNat % 2 ^ n else 0)
  | .movi d i => some (d, none, false, fun n _ => wrap n i.toInt)
  | _ => none

/-! ### Register forms and their frame -/

/-- The operands of an integer form, in field order, with the destination, for the forms that read registers and write
one: each with its width in 32-bit words (R72, R85). -/
def integerForm (s : State) : Instr → Option (List Opd × Opd)
  | .add d a b w _ | .sub d a b w _ | .mul d a b w | .mulh d a b w | .mulhU d a b w | .min d a b w | .max d a b w
  | .minU d a b w | .maxU d a b w | .and d a b w | .or d a b w | .xor d a b w | .andn d a b w | .shl d a b w
  | .shr d a b w | .sar d a b w | .rot d a b w | .bfx d a b w _ | .sel d a b w _ | .lea d a b w _ | .div d a b w
  | .divU d a b w | .rem d a b w | .remU d a b w =>
    let n := s.width w [d, a, b] / 32
    some ([srcAny a n, srcAny b n, dstAny d n], dstAny d n)
  | .mad d a b w | .bfi d a b w =>
    let n := s.width w [d, a, b] / 32
    some ([srcAny a n, srcAny b n, bothAny d n], dstAny d n)
  | .abs d a w | .popc d a w | .clz d a w | .brev d a w =>
    let n := s.width w [d, a] / 32
    some ([srcAny a n, dstAny d n], dstAny d n)
  | .addi d a _ | .andi d a _ | .ori d a _ | .xori d a _ | .shli d a _ =>
    let n := s.width false [d, a] / 32
    some ([srcAny a n, dstAny d n], dstAny d n)
  | .movi d _ => let n := s.width false [d] / 32; some ([dstAny d n], dstAny d n)
  | .movh d _ => let n := s.width false [d] / 32; some ([bothAny d n], dstAny d n)
  | _ => none

/-- The same of a floating-point or conversion form (R121, R130). -/
def floatingForm : Instr → Option (List Opd × Opd)
  | .fadd d a b _ _ | .fsub d a b _ _ | .fmul d a b _ _ | .fdiv d a b _ _ | .fmin d a b | .fmax d a b
  | .hadd2 d a b _ _ _ | .hmul2 d a b _ _ _ | .cvts d a b _ _ _ =>
    some ([srcAny a 1, srcAny b 1, dstAny d 1], dstAny d 1)
  | .fma d a b _ _ | .hfma2 d a b _ _ _ => some ([srcAny a 1, srcAny b 1, bothAny d 1], dstAny d 1)
  | .fsqrt d a _ _ | .frcp d a _ _ | .fexp2 d a | .flog2 d a | .fsin d a | .fcos d a | .ftanh d a | .fsig d a | .frsq d a
  | .fexp2Bf d a | .flog2Bf d a | .fsinBf d a | .fcosBf d a | .ftanhBf d a | .fsigBf d a | .frsqBf d a
  | .fexp2Hf d a | .flog2Hf d a | .fsinHf d a | .fcosHf d a | .ftanhHf d a | .fsigHf d a | .frsqHf d a =>
    some ([srcAny a 1, dstAny d 1], dstAny d 1)
  | .cvt d a t e _ _ =>
    let w := fun (c : BitVec 4) => if c = 10 then 2 else 1
    some ([srcAny a (w e), dstAny d (w t)], dstAny d (w t))
  | _ => none

/-- The forms that read registers and write one. -/
def registerForm (s : State) (i : Instr) : Option (List Opd × Opd) := (integerForm s i).or (floatingForm i)

/-- The operands of an integer instruction (R87): a register form, a compare, or predicate logic, which has none. -/
def integerOperands (s : State) (i : Instr) : Option (List Opd) :=
  match i with
  | .cmp _ a b w _ | .cmpU _ a b w _ =>
    let n := s.width w [a, b] / 32
    some [srcAny a n, srcAny b n]
  | .pand _ _ _ | .por _ _ _ | .pxor _ _ _ | .pnot _ _ => some []
  | i => (integerForm s i).map (·.1)

/-- A division whose divisor is 0 in a lane that computes (R86, R87). -/
def dividesByZero (s : State) : Instr → Prop
  | .div d a b w | .divU d a b w | .rem d a b w | .remU d a b w =>
    let n := s.width w [d, a, b]
    let os := [srcAny a (n / 32), srcAny b (n / 32), dstAny d (n / 32)]
    ∃ l ∈ s.computing d, (nthLanes (s.readAll os).1 1 l).toNat % 2 ^ n = 0
  | _ => False

/-- What a register form leaves unchanged when it completes: all but the destination register, the sticky flags, the
full/empty states (R27), the poison of overwritten entries (R346), and the issuing context's pc, loops and wait. -/
def registerFrame (o : Opd) (s t : State) : Prop :=
  onlyTeamsAndColumns s t ∧
  match s.cur with
  | .group tm g p =>
    t.cols = s.cols ∧ (∀ u, u ≠ tm → t.team u = s.team u) ∧
    t.team tm = { s.team tm with groups := (t.team tm).groups } ∧ (∀ h, h ≠ g → t.group tm h = s.group tm h) ∧
    (let x := s.group tm g
     let y := t.group tm g
     y = { x with rows := y.rows, states := y.states, badRegs := y.badRegs, k := y.k, splits := y.splits,
                  regs := { x.regs with stat := y.regs.stat } } ∧
     (∀ q, q ≠ p → t.split tm g q = s.split tm g q) ∧
     (let e := t.split tm g p
      e = { s.split tm g p with pc := e.pc, loops := e.loops, wait := .none }) ∧
     match s.cls o with
     | .v n =>
       y.k.vals = x.k.vals ∧
       (∀ r l, l < 32 → r < s.wb + n ∨ s.wb + n + o.words ≤ r ∨ (s.ctxMask s.cur).getLsbD l = false →
         laneOf (y.row r) l = laneOf (x.row r) l)
     | .k n => y.rows = x.rows ∧ ∀ m, m < n ∨ n + (o.words + 1) / 2 ≤ m → t.getK s.cur m = s.getK s.cur m
     | _ => y.rows = x.rows ∧ y.k.vals = x.k.vals)
  | .seq tm =>
    t.cols = s.cols ∧ (∀ u, u ≠ tm → t.team u = s.team u) ∧ t.team tm = { s.team tm with seq := (t.team tm).seq } ∧
    (let x := s.seqr tm
     let y := t.seqr tm
     y = { x with s := y.s, k := y.k, pc := y.pc, wait := .none, regs := { x.regs with stat := y.regs.stat } } ∧
     match s.cls o with
     | .s n => y.k.vals = x.k.vals ∧ ∀ m, m < n ∨ n + (o.words + 1) / 2 ≤ m → t.getS s.cur m = s.getS s.cur m
     | .k n => y.s = x.s ∧ ∀ m, m < n ∨ n + (o.words + 1) / 2 ≤ m → t.getK s.cur m = s.getK s.cur m
     | _ => y.s = x.s ∧ y.k.vals = x.k.vals)
  | .host c =>
    t.teams = s.teams ∧ (∀ u, u ≠ c → t.col u = s.col u) ∧ t.col c = { s.col c with host := t.host c } ∧
    (let x := s.host c
     let y := t.host c
     y = { x with s := y.s, k := y.k, pc := y.pc, wait := .none } ∧
     match s.cls o with
     | .s n => y.k.vals = x.k.vals ∧ ∀ m, m < n ∨ n + (o.words + 1) / 2 ≤ m → t.getS s.cur m = s.getS s.cur m
     | .k n => y.s = x.s ∧ ∀ m, m < n ∨ n + (o.words + 1) / 2 ≤ m → t.getK s.cur m = s.getK s.cur m
     | _ => y.s = x.s ∧ y.k.vals = x.k.vals)


/-! ### Predicates and lanes -/

/-- A predicate number was written with `f` in the active lanes of the issuing context, and no other predicate changed;
a write of 7 is discarded (R22). -/
def predicateWritten (p : Nat) (f : Nat → Bool) (s t : State) : Prop :=
  (∀ l, l < 32 → p < 7 →
    (t.pred p).getLsbD l = if (s.ctxMask s.cur).getLsbD l then f l else (s.pred p).getLsbD l) ∧
  ∀ q, q ≠ p ∨ p = 7 → t.pred q = s.pred q

/-- What a predicate form leaves unchanged when it completes: all but the predicate it writes, the sticky flags, the
full/empty states, and the issuing context's pc, loops and wait. -/
def predicateFrame (s t : State) : Prop :=
  onlyTeamsAndColumns s t ∧
  match s.cur with
  | .group tm g p =>
    t.cols = s.cols ∧ (∀ u, u ≠ tm → t.team u = s.team u) ∧
    t.team tm = { s.team tm with groups := (t.team tm).groups } ∧ (∀ h, h ≠ g → t.group tm h = s.group tm h) ∧
    (let x := s.group tm g
     let y := t.group tm g
     y = { x with states := y.states, k := { x.k with states := y.k.states }, preds := y.preds, splits := y.splits,
                  regs := { x.regs with stat := y.regs.stat } } ∧
     (∀ q, q ≠ p → t.split tm g q = s.split tm g q) ∧
     (let e := t.split tm g p
      e = { s.split tm g p with pc := e.pc, loops := e.loops, wait := .none }))
  | .seq tm =>
    t.cols = s.cols ∧ (∀ u, u ≠ tm → t.team u = s.team u) ∧ t.team tm = { s.team tm with seq := (t.team tm).seq } ∧
    (let x := s.seqr tm
     let y := t.seqr tm
     y = { x with k := { x.k with states := y.k.states }, p := y.p, pc := y.pc, wait := .none,
                  regs := { x.regs with stat := y.regs.stat } })
  | .host c =>
    t.teams = s.teams ∧ (∀ u, u ≠ c → t.col u = s.col u) ∧ t.col c = { s.col c with host := t.host c } ∧
    (let x := s.host c
     let y := t.host c
     y = { x with k := { x.k with states := y.k.states }, p := y.p, pc := y.pc, wait := .none })

/-- The condition of a compare (R97). -/
def condition (cc : Nat) (a b : Int) : Bool :=
  if cc = 0 then a == b else if cc = 1 then a != b else if cc = 2 then decide (a < b) else if cc = 3 then decide (a ≤ b)
  else if cc = 4 then decide (b < a) else decide (b ≤ a)

/-- The compares: predicate, sources, `fn[3]`, condition, and how an operand of `n` bits is read. -/
def compareForm : Instr → Option (BitVec 3 × RegNum × RegNum × Bool × BitVec 3 × (Nat → Nat → Int))
  | .cmp p a b w c => some (p, a, b, w, c, sgn)
  | .cmpU p a b w c => some (p, a, b, w, c, fun _ x => x)
  | _ => none

/-- The predicate logic of R100: destination, sources, and the function. -/
def predicateLogic : Instr → Option (BitVec 3 × BitVec 3 × BitVec 3 × (Bool → Bool → Bool))
  | .pand d a b => some (d, a, b, fun x y => x && y)
  | .por d a b => some (d, a, b, fun x y => x || y)
  | .pxor d a b => some (d, a, b, fun x y => xor x y)
  | .pnot d a => some (d, a, a, fun x _ => !x)
  | _ => none

/-! ### Floating-point forms (R121 to R132) -/

/-- What a code or an exact result is: NaN (signalling, or of an invalid operation), an infinity, or a sign and a magnitude. -/
inductive Val where
  | nan (invalid : Bool)
  | inf (neg : Bool)
  | num (neg : Bool) (mag : ℚ)

/-- The magnitudes of the codes of a format, in their order and without an end (R45). -/
def grid (f : Fmt) (c : Nat) : ℚ :=
  let e := c / 2 ^ f.mb
  let m := c % 2 ^ f.mb
  if e = 0 then (m : ℚ) * 2 ^ (1 - f.bias - f.mb : ℤ) else ((2 ^ f.mb + m : ℕ) : ℚ) * 2 ^ ((e : ℤ) - f.bias - f.mb)

/-- The value of a code (R45, R46). -/
def codeVal (f : Fmt) (x : Nat) : Val :=
  let neg := x.testBit f.signBit
  let c := x % 2 ^ f.signBit
  if c ≤ f.maxCode then .num neg (grid f c)
  else if f.hasInf = true ∧ c = f.maxCode + 1 then .inf neg
  else .nan (f.hasInf && !c.testBit (f.mb - 1))

/-- The signed value of a number, beyond every number of a format for an infinity. -/
def Val.rat : Val → ℚ
  | .nan _ => 0
  | .inf n => if n then -(2 ^ 200) else 2 ^ 200
  | .num n q => if n then -q else q

/-- It is an infinity. -/
def Val.isInf : Val → Bool
  | .inf _ => true
  | _ => false

/-- It is a NaN. -/
def Val.isNan : Val → Bool
  | .nan _ => true
  | _ => false

/-- It is a signalling NaN. -/
def Val.invalid : Val → Bool
  | .nan s => s
  | _ => false

/-- It has the sign bit. -/
def Val.isNeg : Val → Bool
  | .nan _ => false
  | .inf n => n
  | .num n _ => n

/-- An exact sum, with the sign of a zero (R53, R56). -/
def Val.plus (mode : Nat) : Val → Val → Val
  | .nan s, y => .nan (s || y.invalid)
  | x, .nan s => .nan (x.invalid || s)
  | .inf n, .inf m => if n = m then .inf n else .nan true
  | .inf n, _ => .inf n
  | _, .inf n => .inf n
  | .num n p, .num m q =>
    let z := (Val.num n p).rat + (Val.num m q).rat
    if z = 0 then .num (if n = m then n else decide (mode = 3)) 0 else .num (decide (z < 0)) |z|

/-- The same with the other sign. -/
def Val.minus : Val → Val
  | .nan s => .nan s
  | .inf n => .inf !n
  | .num n q => .num (!n) q

/-- An exact product (R56). -/
def Val.times : Val → Val → Val
  | .nan s, y => .nan (s || y.invalid)
  | x, .nan s => .nan (x.invalid || s)
  | .inf n, y => if y.rat = 0 then .nan true else .inf (xor n y.isNeg)
  | x, .inf n => if x.rat = 0 then .nan true else .inf (xor x.isNeg n)
  | .num n p, .num m q => .num (xor n m) (p * q)

/-- An exact quotient (R56, R123). -/
def Val.over : Val → Val → Val
  | .nan s, y => .nan (s || y.invalid)
  | x, .nan s => .nan (x.invalid || s)
  | .inf _, .inf _ => .nan true
  | .inf n, y => .inf (xor n y.isNeg)
  | x, .inf n => .num (xor x.isNeg n) 0
  | .num n p, .num m q =>
    if q = 0 then (if p = 0 then .nan true else .inf (xor n m)) else .num (xor n m) (p / q)

/-- DZ of a division: a finite nonzero value by a zero (R123). -/
def byZero : Val → Val → Word
  | .num _ p, .num _ q => if p ≠ 0 ∧ q = 0 then flagDZ else 0
  | _, _ => 0

/-- R53: which of the neighbours `lo` and `lo + 1` on a grid the `k`-th root of `q` with a sign is rounded to. -/
def chosen (g : Nat → ℚ) (k mode : Nat) (neg : Bool) (q : ℚ) (lo : Nat) : Nat :=
  let mid := ((g lo + g (lo + 1)) / 2) ^ k
  if g lo ^ k = q then lo
  else if mode = 0 then (if q < mid then lo else if mid < q then lo + 1 else if lo % 2 = 0 then lo else lo + 1)
  else if mode = 1 then lo
  else if mode = 2 then (if neg then lo else lo + 1)
  else if neg then lo + 1 else lo

/-- A code with its sign. -/
def signedCode (f : Fmt) (neg : Bool) (c : Nat) : Nat := if neg then c + 2 ^ f.signBit else c

/-- R55: the code that stands where a result is infinite. -/
def infCode (f : Fmt) (neg : Bool) : Nat :=
  if f.hasInf then signedCode f neg (f.maxCode + 1) else if f = e4m3 then f.nan else signedCode f neg f.maxCode

/-- R54 to R56: code and flags of the `k`-th root of an exact result, rounded to a format. -/
def rounded (f : Fmt) (mode : Nat) (sat : Bool) (k : Nat) (v : Val) (r : Nat × Word) : Prop :=
  match v with
  | .nan s => r = (f.nan, if s = true ∨ f = e2m1 then flagNV else 0)
  | .inf n => r = (if sat then signedCode f n f.maxCode else infCode f n, if f.hasInf then 0 else flagNV)
  | .num n q =>
    ∃ lo, grid f lo ^ k ≤ q ∧ q < grid f (lo + 1) ^ k ∧
      let c := chosen (grid f) k mode n q lo
      let toInf := sat = false ∧ (mode = 0 ∨ (mode = 2 ∧ n = false) ∨ (mode = 3 ∧ n = true))
      if f.maxCode < c then r = (if toInf then infCode f n else signedCode f n f.maxCode, flagOF ||| flagNX)
      else r = (signedCode f n c,
        if grid f lo ^ k = q then 0 else if q < grid f (2 ^ f.mb) ^ k then flagUF ||| flagNX else flagNX)

/-- R125: the operand of a square root, with what R125 says of the negative ones. -/
def rootArg : Val → Val
  | .nan s => .nan s
  | .inf n => if n then .nan true else .inf n
  | .num n q => if n = true ∧ q ≠ 0 then .nan true else .num n q

/-- R126. -/
def minMax (isMax : Bool) (a b : Nat) (r : Nat × Word) : Prop :=
  let x := codeVal fp32 (a % 2 ^ 32)
  let y := codeVal fp32 (b % 2 ^ 32)
  let less := x.rat < y.rat ∨ (x.rat = y.rat ∧ x.isNeg = true)
  r.1 % 2 ^ 32 = (if x.isNan && y.isNan then fp32.nan else if x.isNan then b else if y.isNan then a
    else if isMax then (if less then b else a) else (if less then a else b)) % 2 ^ 32 ∧
  r.2 = if x.invalid || y.invalid then flagNV else 0

/-- R127: the condition and the flag of a compare. -/
def compared (cc : Nat) (a b : Nat) (r : Bool × Word) : Prop :=
  let x := codeVal fp32 (a % 2 ^ 32)
  let y := codeVal fp32 (b % 2 ^ 32)
  let un := x.isNan || y.isNan
  (r.1 = true ↔
    (cc = 0 ∧ un = false ∧ x.rat = y.rat) ∨ (cc = 1 ∧ (un = true ∨ x.rat ≠ y.rat)) ∨ (cc = 2 ∧ un = false ∧ x.rat < y.rat) ∨
    (cc = 3 ∧ un = false ∧ x.rat ≤ y.rat) ∨ (cc = 4 ∧ un = false ∧ y.rat < x.rat) ∨ (cc = 5 ∧ un = false ∧ y.rat ≤ x.rat) ∨
    (cc = 6 ∧ un = true) ∨ (cc = 7 ∧ un = false)) ∧
  r.2 = if x.invalid || y.invalid || (un && decide (2 ≤ cc ∧ cc ≤ 5)) then flagNV else 0

/-- The format of a code of R50 (1 to 6). -/
def formatOf (code : Nat) : Option Fmt := [none, some fp32, some bf16, some fp16, some e4m3, some e5m2, some e2m1].getD code none

/-- The width of an integer code of R50 (8 to 10). -/
def integerWidth (code : Nat) : Nat := if code = 8 then 8 else if code = 9 then 32 else 64

/-- R59: a value as an integer of `n` bits in two's complement, held in `w` bits. -/
def toInteger (n w mode : Nat) (v : Val) (r : Nat × Word) : Prop :=
  let top : Int := 2 ^ (n - 1)
  match v with
  | .nan _ => r = (0, flagNV)
  | .inf neg => r = (wrap w (if neg then -top else top - 1), flagNV)
  | .num neg q =>
    ∃ lo : Nat, (lo : ℚ) ≤ q ∧ q < lo + 1 ∧
      let c := chosen (fun i => (i : ℚ)) 1 mode neg q lo
      let x : Int := if neg then -c else c
      r = (wrap w (clamp (-top) (top - 1) x),
        if clamp (-top) (top - 1) x ≠ x then flagNV else if (lo : ℚ) = q then 0 else flagNX)

/-- R130: `cvt`. Between equal floating formats a number stays as it is, with `.sat` too, and an infinity without it; R55 makes an
infinity the largest number with `.sat`, and R130's own table of cases says so (log 115). -/
def converted (dst src : Nat) (sat : Bool) (mode a : Nat) (r : Nat × Word) : Prop :=
  let whole := fun c => if c = 10 then 64 else 32
  match formatOf src, formatOf dst with
  | some f, some g =>
    let v := codeVal f (a % 2 ^ (f.signBit + 1))
    if src = dst ∧ v.isNan = false ∧ (sat = false ∨ v.isInf = false) then r = (a % 2 ^ (f.signBit + 1), 0) else rounded g mode sat 1 v r
  | some f, none => toInteger (integerWidth dst) (whole dst) mode (codeVal f (a % 2 ^ (f.signBit + 1))) r
  | none, some g =>
    let x := sgn (integerWidth src) (a % 2 ^ integerWidth src)
    rounded g mode sat 1 (.num (decide (x < 0)) |(x : ℚ)|) r
  | none, none =>
    let n := integerWidth dst
    let x := sgn (integerWidth src) (a % 2 ^ integerWidth src)
    let y := if integerWidth src ≤ n then x else if sat then clamp (-(2 ^ (n - 1))) (2 ^ (n - 1) - 1) x else sgn n (wrap n x)
    r = (wrap (whole dst) y, 0)

/-- R47: a block scale. -/
def blockScale (b : Nat) : Val :=
  if b = 255 then .nan false
  else if b / 32 = 0 then .num false ((b % 32 : ℕ) / 32 / 4)
  else .num false (2 ^ ((b / 32 : ℕ) - 3 : ℤ) * (1 + (b % 32 : ℕ) / 32))

/-- R48: a band scale. -/
def bandScale (b : Nat) : Val := if b / 2 ^ 15 % 2 ^ 8 = 255 then .nan false else codeVal fp32 (b * 2 ^ 8)

/-- R61: the arguments of a transcendental function whose result the table gives, with the flag. -/
def special (f : Nat) : Val → Option (Val × Word)
  | .nan s => some (.nan s, 0)
  | .inf n =>
    if f = 0 then some (if n then .num false 0 else .inf false, 0)
    else if f = 1 then some (if n then .nan true else .inf false, 0)
    else if f = 2 ∨ f = 3 then some (.nan true, 0)
    else if f = 4 then some (.num n 1, 0)
    else if f = 5 then some (.num false (if n then 0 else 1), 0)
    else some (if n then .nan true else .num false 0, 0)
  | .num n q =>
    if q = 0 then
      if f = 0 ∨ f = 3 then some (.num false 1, 0)
      else if f = 1 then some (.inf true, flagDZ)
      else if f = 2 ∨ f = 4 then some (.num n 0, 0)
      else if f = 5 then some (.num false (1 / 2), 0)
      else some (.inf n, flagDZ)
    else if n = true ∧ (f = 1 ∨ f = 6) then some (.nan true, 0)
    else if f = 1 ∧ q = 1 then some (.num false 0, 0)
    else none

/-- R60, R61, R129: a transcendental function of a code: what the table gives, or the rounding of the value that the model
evaluates (logs 10 and 11). -/
def transcendental (g : Fmt) (f a : Nat) (r : Nat × Word) : Prop :=
  match special f (codeVal g (a % 2 ^ (g.signBit + 1))) with
  | some (v, fl) => ∃ w, rounded g 0 false 1 v (r.1, w) ∧ r.2 = w ||| fl
  | none => r = if g = fp32 then transcFp32 f a else transcNarrow g f a

/-- The floating-point forms with a register destination: what the result bits and flags of `STAT` are for source values. -/
def floatForm : Instr → Option ((Nat → Nat) → Nat × Word → Prop)
  | .fadd _ _ _ s m => some fun x => rounded fp32 m.toNat s 1 ((codeVal fp32 (x 0 % 2 ^ 32)).plus m.toNat (codeVal fp32 (x 1 % 2 ^ 32)))
  | .fsub _ _ _ s m => some fun x =>
      rounded fp32 m.toNat s 1 ((codeVal fp32 (x 0 % 2 ^ 32)).plus m.toNat (codeVal fp32 (x 1 % 2 ^ 32)).minus)
  | .fmul _ _ _ s m => some fun x => rounded fp32 m.toNat s 1 ((codeVal fp32 (x 0 % 2 ^ 32)).times (codeVal fp32 (x 1 % 2 ^ 32)))
  | .fma _ _ _ s m => some fun x =>
      rounded fp32 m.toNat s 1
        (((codeVal fp32 (x 0 % 2 ^ 32)).times (codeVal fp32 (x 1 % 2 ^ 32))).plus m.toNat (codeVal fp32 (x 2 % 2 ^ 32)))
  | .fdiv _ _ _ s m => some fun x r =>
      let a := codeVal fp32 (x 0 % 2 ^ 32)
      let b := codeVal fp32 (x 1 % 2 ^ 32)
      ∃ w, rounded fp32 m.toNat s 1 (a.over b) (r.1, w) ∧ r.2 = w ||| byZero a b
  | .frcp _ _ s m => some fun x r =>
      let b := codeVal fp32 (x 0 % 2 ^ 32)
      ∃ w, rounded fp32 m.toNat s 1 ((Val.num false 1).over b) (r.1, w) ∧ r.2 = w ||| byZero (.num false 1) b
  | .fsqrt _ _ s m => some fun x => rounded fp32 m.toNat s 2 (rootArg (codeVal fp32 (x 0 % 2 ^ 32)))
  | .fmin _ _ _ => some fun x => minMax false (x 0) (x 1)
  | .fmax _ _ _ => some fun x => minMax true (x 0) (x 1)
  | .cvt _ _ t e s m => some fun x => converted t.toNat e.toNat s m.toNat (x 0)
  | .cvts _ _ _ enc s m => some fun x =>
      let scale := (blockScale (x 1 / 2 ^ 24 % 2 ^ 8)).times (bandScale (x 1 % 2 ^ 24))
      if enc then rounded e2m1 m.toNat s 1 ((codeVal fp32 (x 0 % 2 ^ 32)).over scale)
      else rounded fp32 m.toNat s 1 ((codeVal e2m1 (x 0 % 2 ^ 4)).times scale)
  | .fexp2 _ _ => some fun x => transcendental fp32 0 (x 0)
  | .flog2 _ _ => some fun x => transcendental fp32 1 (x 0)
  | .fsin _ _ => some fun x => transcendental fp32 2 (x 0)
  | .fcos _ _ => some fun x => transcendental fp32 3 (x 0)
  | .ftanh _ _ => some fun x => transcendental fp32 4 (x 0)
  | .fsig _ _ => some fun x => transcendental fp32 5 (x 0)
  | .frsq _ _ => some fun x => transcendental fp32 6 (x 0)
  | .fexp2Bf _ _ => some fun x => transcendental bf16 0 (x 0)
  | .flog2Bf _ _ => some fun x => transcendental bf16 1 (x 0)
  | .fsinBf _ _ => some fun x => transcendental bf16 2 (x 0)
  | .fcosBf _ _ => some fun x => transcendental bf16 3 (x 0)
  | .ftanhBf _ _ => some fun x => transcendental bf16 4 (x 0)
  | .fsigBf _ _ => some fun x => transcendental bf16 5 (x 0)
  | .frsqBf _ _ => some fun x => transcendental bf16 6 (x 0)
  | .fexp2Hf _ _ => some fun x => transcendental fp16 0 (x 0)
  | .flog2Hf _ _ => some fun x => transcendental fp16 1 (x 0)
  | .fsinHf _ _ => some fun x => transcendental fp16 2 (x 0)
  | .fcosHf _ _ => some fun x => transcendental fp16 3 (x 0)
  | .ftanhHf _ _ => some fun x => transcendental fp16 4 (x 0)
  | .fsigHf _ _ => some fun x => transcendental fp16 5 (x 0)
  | .frsqHf _ _ => some fun x => transcendental fp16 6 (x 0)
  | _ => none

/-- The element operation of a packed form (R128). -/
def packedForm : Instr → Option (Bool × (Fmt → Nat → Nat → Nat → Nat × Word))
  | .hadd2 _ _ _ k s r => some (k, fun f x y _ => fAdd f r s x y)
  | .hmul2 _ _ _ k s r => some (k, fun f x y _ => fMul f r s x y)
  | .hfma2 _ _ _ k s r => some (k, fun f x y z => fFma f r s x y z)
  | _ => none

/-! ### Lane instructions (R114 to R118) -/

/-- The lanes whose values lane `l` of a destination receives a summary of: the active lanes of its tile, or of the whole
split for a destination that takes one value. -/
def contributors (s : State) (d : RegNum) (l : Nat) : List Nat :=
  let size := 2 ^ s.myGroup.part.toNat
  (List.range 32).filter fun i => (s.ctxMask s.cur).getLsbD i && (s.oneResult d || decide (i / size = l / size))

/-- Where a lane stands in the summary of lane `l`: its position in the tile, or its number. -/
def position (s : State) (d : RegNum) (i : Nat) : Nat := if s.oneResult d then i else i % 2 ^ s.myGroup.part.toNat

/-- R115: the summary of a predicate. -/
def voteResult (kind : Nat) (ls : List Nat) (f : Nat → Bool) (pos : Nat → Nat) : Nat :=
  if kind = 0 then (if ∃ l ∈ ls, f l = true then 1 else 0)
  else if kind = 1 then (if ∀ l ∈ ls, f l = true then 1 else 0)
  else if kind = 2 then ((ls.filter f).map fun l => 2 ^ pos l).sum
  else if kind = 3 then (if (∀ l ∈ ls, f l = true) ∨ (∀ l ∈ ls, f l = false) then 1 else 0)
  else (ls.filter f).length

/-- R116: the source position of tile position `t` for operand `b` and tile size `n`. -/
def sourcePosition (kind t b n : Nat) : Option Nat :=
  if kind = 0 then (if b < n then some b else none)
  else if kind = 1 then (if b ≤ t then some (t - b) else none)
  else if kind = 2 then (if t + b < n then some (t + b) else none)
  else if kind = 3 then (if b < n then some (Nat.xor t b) else none)
  else some ((t + b) % n)

/-- R117: one combination of two values, with its flags. -/
def combined (op : Nat) (x y : Nat) : Nat × Word :=
  if op = 0 then ((x + y) % 2 ^ 32, 0)
  else if op = 1 then (if sgn 32 x ≤ sgn 32 y then x else y, 0)
  else if op = 2 then (if sgn 32 y ≤ sgn 32 x then x else y, 0)
  else if op = 3 then (x &&& y, 0)
  else if op = 4 then (x ||| y, 0)
  else if op = 5 then (Nat.xor x y, 0)
  else if op = 6 then fp32.round 0 false ((fp32.value x).add 0 (fp32.value y))
  else fMinMax true x y

/-- Two positions of a level: an absent one leaves the other. -/
def joined (op : Nat) : Option (Nat × Word) → Option (Nat × Word) → Option (Nat × Word)
  | none, y => y
  | some x, none => some x
  | some x, some y => some ((combined op x.1 y.1).1, x.2 ||| y.2 ||| (combined op x.1 y.1).2)

/-- R117: position `j` at level `m` of the tree. -/
def treeAt (op : Nat) (x : Nat → Option (Nat × Word)) : Nat → Nat → Option (Nat × Word)
  | 0, j => x j
  | m + 1, j => joined op (treeAt op x m (2 * j)) (treeAt op x m (2 * j + 1))

/-- R118: values combined in ascending position. -/
def inOrder (op : Nat) : Nat × Word → List Nat → Nat × Word
  | acc, [] => acc
  | acc, y :: ys => inOrder op ((combined op acc.1 y).1, acc.2 ||| (combined op acc.1 y).2) ys

/-- R118: the identities. -/
def identity (op : Nat) : Nat :=
  if op = 1 then 0x7FFFFFFF else if op = 2 then 0x80000000 else if op = 3 then 0xFFFFFFFF else if op = 6 then 0x80000000
  else if op = 7 then 0xFF800000 else 0

/-! ### Control flow (R30, R101 to R113) -/

/-- Number of free split table entries below entry `j`, when entry `i` is kept. -/
def freeBelow (ps : List Split) (i j : Nat) : Nat :=
  ((List.range j).filter fun q => decide (q ≠ i) && decide (q < ps.length) && !(ps.getD q Split.none).valid).length

/-- What an instruction that only moves the issuing context changes: its pc, its open loops and its wait. -/
def progressFrame (s t : State) : Prop :=
  onlyTeamsAndColumns s t ∧
  match s.cur with
  | .group tm g p =>
    t.cols = s.cols ∧ (∀ u, u ≠ tm → t.team u = s.team u) ∧
    t.team tm = { s.team tm with groups := (t.team tm).groups } ∧ (∀ h, h ≠ g → t.group tm h = s.group tm h) ∧
    t.group tm g = { s.group tm g with splits := (t.group tm g).splits } ∧
    (∀ q, q ≠ p → t.split tm g q = s.split tm g q) ∧
    (let e := t.split tm g p
     e = { s.split tm g p with pc := e.pc, loops := e.loops, wait := .none })
  | .seq tm =>
    t.cols = s.cols ∧ (∀ u, u ≠ tm → t.team u = s.team u) ∧ t.team tm = { s.team tm with seq := (t.team tm).seq } ∧
    t.seqr tm = { s.seqr tm with pc := (t.seqr tm).pc, wait := .none }
  | .host c =>
    t.teams = s.teams ∧ (∀ u, u ≠ c → t.col u = s.col u) ∧ t.col c = { s.col c with host := t.host c } ∧
    t.host c = { s.host c with pc := (t.host c).pc, wait := .none }

/-- R111: the loops, innermost first, that a branch at `pc` to `target` leaves open. -/
def loopsKept (pc target : Addr) : List Loop → List Loop
  | [] => []
  | l :: ls =>
    if l.start ≤ pc ∧ pc ≤ l.last ∧ ¬ (l.start ≤ target ∧ target ≤ l.last) then loopsKept pc target ls else l :: ls

/-- A taken branch: the issuing context stands at the target, has left the loops that R111 closes, and waits on nothing. -/
def branched (target : Addr) (s t : State) : Prop :=
  progressFrame s t ∧ t.ctxPc s.cur = target ∧
  match s.cur with
  | .group tm g p => (t.split tm g p).loops.reverse = loopsKept (s.split tm g p).pc target (s.split tm g p).loops.reverse
  | _ => True

/-- The forms that a group provides and a sequencer and a host core do not. -/
def groupOnly : Instr → Bool
  | .vote _ _ _ | .shfl _ _ _ _ | .red _ _ _ | .scan _ _ _ _ | .part _ | .lmask _ | .loop _ _ | .loopI _ _ | .winb _
  | .arm _ _ _ | .disarm _ _ | .msgs _ _ _ _ | .msgd | .acrd _ _ _ | .acwr _ _ | .fork _ _ | .join | .barInit _ _
  | .barArv _ | .barWait _ => true
  | _ => false

/-- The forms that a group and a sequencer provide and a host core does not. -/
def noHost : Instr → Bool
  | .ldt _ _ _ _ | .ldro _ _ _ _ | .ldv _ _ _ _ | .stv _ _ _ _ | .stvG _ _ _ _ | .waitc _ _ | .tbl _ _ _ | .tblld _ _
  | .tblsw | .rput _ _ _ _ _ _ _ | .rputG _ _ _ _ _ _ _ | .barRarv _ _ | .gwait _ _ _ _ _ | .waitk _ | .mma _ _ _ _ | .chb _
  | .che _ | .scs _ _ | .acal _ _ | .acfr _ | .acz _ | .aud _ | .tcopy | .pipe _ _ | .exit => true
  | _ => false

/-- The forms that only a host core provides, with the lowest level that may issue them. -/
def hostLevel : Instr → Option Nat
  | .wfi => some 1
  | .halt => some 3
  | .tlbi _ _ _ => some 1
  | .preempt _ _ _ => some 1
  | .resume _ _ => some 1
  | .mfree _ _ => some 1
  | .mused _ _ => some 1
  | .rgrel _ _ => some 1
  | _ => none

/-! ### Memory forms (R139 to R158, R168) -/

/-- The bytes that a size code moves (R76). -/
def bytes (z : BitVec 3) : Nat := [1, 1, 2, 2, 4, 8, 16].getD z.toNat 16

/-- What a `cctl` operation leaves of a line (R158): no dirty copy; none in the holder's cache; none anywhere. -/
def maintained (op agent line : Nat) (t : State) : Prop :=
  (op = 0 → (∀ c, ∀ x, tabFind line (t.core c).l1 = some x → x = .s ∨ x = .e) ∧
    ∀ c, (∀ x, tabFind line (t.host c).l1 = some x → x = .s ∨ x = .e) ∧
      ∀ x, tabFind line (t.col c).coh.lines = some x → x = .s ∨ x = .e) ∧
  (op = 1 → tabFind line (t.l1Of agent) = none) ∧
  (op = 2 → tabFind line t.directory = none ∧ (∀ c, c < 1024 → tabFind line (t.core c).l1 = none) ∧
    ∀ c, c < 128 → tabFind line (t.host c).l1 = none)

/-- Base plus offset times the size, modulo 2^64 (R139). -/
def address (base : Nat) (off : BitVec 8) (n : Nat) : Nat := wrap 64 (base + off.toInt * n)

/-- The order that a form carries: acquire, release, `sc`, read-only cache, scope. -/
structure Order where
  acq : Bool
  rel : Bool
  sc : Bool
  ro : Bool
  scope : BitVec 3

/-- The loads of global space with no format: destination, address, size, offset, order. -/
def globalLoad : Instr → Option (RegNum × RegNum × BitVec 3 × BitVec 8 × Order)
  | .ld d a z o => some (d, a, z, o, ⟨false, false, false, false, 0⟩)
  | .ldro d a z o => some (d, a, z, o, ⟨false, false, false, true, 0⟩)
  | .ldAcq d a z c => some (d, a, z, 0, ⟨true, false, false, false, c⟩)
  | .ldSc d a z c => some (d, a, z, 0, ⟨true, false, true, false, c⟩)
  | _ => none

/-- The stores to global space: data, address, size, offset, order. -/
def globalStore : Instr → Option (RegNum × RegNum × BitVec 3 × BitVec 8 × Order)
  | .st d a z o => some (d, a, z, o, ⟨false, false, false, false, 0⟩)
  | .stRel d a z c => some (d, a, z, 0, ⟨false, true, false, false, c⟩)
  | .stSc d a z c => some (d, a, z, 0, ⟨true, true, true, false, c⟩)
  | _ => none

/-- The atomics: destination, address, operand, bytes, operation, and whether it is remote. -/
def atomicForm : Instr → Option (RegNum × RegNum × RegNum × Nat × BitVec 4 × Bool)
  | .atom d a b o => some (d, a, b, 4, o, false)
  | .atomD d a b o => some (d, a, b, 8, o, false)
  | .atomp d a b o => some (d, a, b, 4, o, true)
  | .atompD d a b o => some (d, a, b, 8, o, true)
  | _ => none

/-- The operands of an atomic of `n` bytes; `cas` reads its destination (R155, R168). -/
def atomicOpds (d a b : RegNum) (n : Nat) (op : BitVec 4) (remote : Bool) : List Opd :=
  [if remote then peerAddr a else globalAddr a, dataSrc b (n / 4),
   { reg := d, role := if op = 9 then .both else .dst, words := n / 4, set := .atomDst }]

/-- No acquire load or `sc` store that an active lane of the issuing context issued is outstanding, and the count that the form
raises is below 63 (R32, R148, R266). -/
def mayAccess (load : Bool) (s : State) : Prop :=
  (∀ a ∈ (s.ctxRegs s.cur).outs, a.acq = true → a.mask &&& s.ctxMask s.cur = 0) ∧
  (if load then (s.ctxRegs s.cur).ldc else (s.ctxRegs s.cur).stc) < 63

/-- No acquire load or `sc` store of an active lane of the issuing context is outstanding (R148). -/
def mayRead (s : State) : Prop := ∀ a ∈ (s.ctxRegs s.cur).outs, a.acq = true → a.mask &&& s.ctxMask s.cur = 0

/-- No load of an active lane that a `fence.rel` orders before the lane's later writes is outstanding (R268). -/
def mayWrite (s : State) : Prop := ∀ a ∈ (s.ctxRegs s.cur).outs, a.fenced &&& s.ctxMask s.cur = 0

/-- No byte has changed but in the region table of a tower, where a first touch homes a region (R251, R252). -/
def bytesButHomes (tower : Nat) (s t : State) : Prop :=
  ∀ a, (∀ g, g < 2 ^ 40 → a < s.regionEntry tower g ∨ s.regionEntry tower g + 4 ≤ a) → t.physByte a = s.physByte a

/-- Nothing differs but the cached translations and, where the walk's own reads homed a region, the region table of the issuing
context's tower (R252, R258). -/
def onlyTlb (s t : State) : Prop :=
  t = { s with tlb := t.tlb, mem := t.mem } ∧ bytesButHomes (towerOfCol (s.ctxCol s.cur)) s t ∧
  (Memory.wf s.mem = true → Memory.wf t.mem = true)

/-- Nothing differs but which caches hold which lines, where the regions of a tower are homed, and what the host gives up: no
register of any context (R249, R251, R325). -/
def onlyLines (tower : Nat) (s t : State) : Prop :=
  t = { s with cores := t.cores, cols := t.cols, directory := t.directory, pcie := t.pcie, mem := t.mem } ∧
  bytesButHomes tower s t ∧ (Memory.wf s.mem = true → Memory.wf t.mem = true) ∧
  (∀ c, t.core c = { s.core c with l1 := (t.core c).l1 }) ∧
  ∀ c, t.col c = { s.col c with coh := (t.col c).coh, host := { s.host c with l1 := (t.host c).l1 } }

/-- The access that an instruction of the issuing context makes outstanding (R145), and what the instruction changes: the
access is the youngest of the context's, and the context goes on. -/
def issued (x : Access) (u t : State) : Prop :=
  x.id = u.fresh ∧ x.pc = u.ctxPc u.cur ∧ x.mask = u.ctxMask u.cur ∧ x.split = ctxSplit u.cur ∧ x.reissue = false ∧
  ∃ v, onlyTlb u v ∧
    t = ({ (v.modRegs v.cur fun r => { r with outs := r.outs ++ [x] }) with fresh := u.fresh + 1 }).advance

/-- An access carries an order. -/
def Order.carried (o : Order) (x : Access) : Prop :=
  x.acq = o.acq ∧ x.rel = o.rel ∧ x.sc = o.sc ∧ x.ro = o.ro ∧ x.scope = o.scope

/-- The lanes of an access that has not been performed, in lane order, with their addresses and places. -/
def lanesAt (x : Access) (ls : List (Nat × Nat × Xlat)) : Prop :=
  (x.lanes.map fun y => (y.lane, y.va, y.loc)) = (ls.map fun e => (e.1, e.2.1, Loc.phys e.2.2.pa)) ∧
  ∀ y ∈ x.lanes, y.result = .pending

/-- The bytes of the package outside a run are unchanged. -/
def bytesKept (pa n : Nat) (s t : State) : Prop := ∀ a, a < pa ∨ pa + n ≤ a → t.physByte a = s.physByte a

/-- A physical address that stores bytes. -/
def stores (s : State) (pa : Nat) : Prop :=
  s.place pa = .hbm ∧ s.isFreed pa = false ∨ s.place pa = .vault ∨ s.place pa = .window

/-- What a vault form's lanes name: the team of the cluster and the offset in its bytes (R151). -/
def vaultAt (s : State) (n : Nat) (base : Nat) (off : BitVec 8) : Nat × Option (Nat × Nat) :=
  let va := wrap 32 (base + off.toInt * n)
  (va, if va < 2 ^ 25 ∧ va % n = 0 then
      match s.rankTeam (ctxTeam s.cur) (va / 2 ^ 21) with
      | none => none
      | some r => if va % 2 ^ 21 + n ≤ lrVault (s.team r).launch then some (r, va % 2 ^ 21) else none
    else none)

/-- Every lane of a vault form names bytes of the cluster. -/
def vaultOk (s : State) (n : Nat) (base : Nat → Nat) (off : BitVec 8) (ls : List Nat) : Prop :=
  ∀ l ∈ ls, (vaultAt s n (base l % 2 ^ 32) off).2.isSome

/-- The lanes of an access to vault bytes. -/
def vaultLanesAt (x : Access) (s : State) (n : Nat) (base : Nat → Nat) (off : BitVec 8) (ls : List Nat) : Prop :=
  (x.lanes.map fun y => (y.lane, y.va, some y.loc)) =
    (ls.map fun l =>
      let v := vaultAt s n (base l % 2 ^ 32) off
      (l, v.1, v.2.map fun p => Loc.vault p.1 p.2)) ∧
  ∀ y ∈ x.lanes, y.result = .pending

/-- R155: the value that an atomic of `n` bits writes over `old`, if it writes one. -/
def atomicResult (n op : Nat) (old b d : Nat) : Option Nat :=
  if op = 0 then some ((old + b) % 2 ^ n)
  else if op = 1 then some (if sgn n old ≤ sgn n b then old else b)
  else if op = 2 then some (if sgn n b ≤ sgn n old then old else b)
  else if op = 3 then some (min old b)
  else if op = 4 then some (max old b)
  else if op = 5 then some (old &&& b)
  else if op = 6 then some (old ||| b)
  else if op = 7 then some (Nat.xor old b)
  else if op = 8 then some b
  else if op = 9 then (if old = d then some b else none)
  else some (fp32.round 0 false ((fp32.value old).add 0 (fp32.value b))).1

/-- The node, the effective address modulo 2^64, and whether the reserved bits of a peer address and bits [63:57] of the
effective address are 0 (R141, R168). -/
def peerAt (x : Nat) (off : BitVec 8) (n : Nat) : Nat × Nat × Bool :=
  let ea := wrap 64 ((x % 2 ^ 57 : Nat) + off.toInt * n)
  (x / 2 ^ 64 % 2 ^ 20, ea, decide (x / 2 ^ 57 % 2 ^ 7 = 0 ∧ x / 2 ^ 84 % 2 ^ 44 = 0 ∧ ea < 2 ^ 57))

/-- Every lane's peer address is well formed and aligned. -/
def peersOk (x : Nat → Nat) (off : BitVec 8) (n : Nat) (ls : List Nat) : Prop :=
  ∀ l ∈ ls, (peerAt (x l) off n).2.2 = true ∧ (peerAt (x l) off n).2.1 % n = 0

/-- Each number once, where it comes first. -/
def firsts : List Nat → List Nat
  | [] => []
  | n :: ns => n :: (firsts ns).filter (· ≠ n)

/-- Two contexts are one group, whatever their splits, one sequencer or one host core. -/
def sameUnit (c d : Ctx) : Prop :=
  match c, d with
  | .group t g _, .group t' g' _ => t = t' ∧ g = g'
  | c, d => c = d

/-- No earlier access of the issuing context that is not remote touches a lane's bytes (R264), and no unacknowledged request of
a lane for the same line went by another stream (R167), in whatever split the lane was when it was issued. -/
def peersFree (u : State) (addr : Nat → Nat) (off : BitVec 8) (n : Nat) (ls : List Nat) : Prop :=
  (∀ x : Access, x.size = n → x.typed = false →
    (x.lanes.map fun y => (y.lane, y.loc)) = (ls.map fun l => let p := peerAt (addr l) off n; (l, Loc.peer p.1 p.2.1)) →
    ∀ e ∈ (u.ctxRegs u.cur).outs, e.peer = false → u.conflicts (u.ctxJob u.cur) e x = false) ∧
  ∀ l ∈ ls, ∀ q ∈ u.sent, (∃ c k, q.comp = .access c k l ∧ sameUnit c u.cur) →
    let p := peerAt (addr l) off n
    q.msg.onode.toNat = p.1 → q.msg.ova / 128 = p.2.1 / 128 → sendStream q.msg = sendStream (u.remoteMsg u.cur .stp p.1 p.2.1)

/-- A remote access is outstanding, each lane with its node and address, and its requests have been sent: one part for each
node, in the order of the lowest lane that names it, with one request for each lane of the part (R168, R169). A group or
sequencer goes on; a host core waits for the answer. -/
def requested (x : Access) (u t : State) (addr : Nat → Nat) (off : BitVec 8) (n : Nat) (ls : List Nat) : Prop :=
  x.id = u.fresh ∧ x.peer = true ∧ x.pc = u.ctxPc u.cur ∧ x.mask = u.ctxMask u.cur ∧
  (x.lanes.map fun y => (y.lane, y.va, y.loc)) =
    (ls.map fun l => let p := peerAt (addr l) off n; (l, p.2.1, Loc.peer p.1 p.2.1)) ∧
  (t.ctxRegs u.cur).outs = (u.ctxRegs u.cur).outs ++ [x] ∧
  (u.kind ≠ .host → t.ctxPc u.cur = u.advance.ctxPc u.cur) ∧
  (u.kind = .host → t.ctxWait u.cur = .answer ∧ t.ctxPc u.cur = u.ctxPc u.cur) ∧
  let node := fun l => (peerAt (addr l) off n).1
  let order := (firsts (ls.map node)).flatMap fun k => x.lanes.filter fun y => decide (node y.lane = k)
  ∃ ms : List SentMsg, t.sent = u.sent ++ ms ∧ t.mem = u.mem ∧
    (ms.map fun m => (m.comp, m.msg.onode, m.msg.ova, m.msg.size, m.msg.op, m.msg.cmp, m.msg.bytes)) =
      (order.map fun y =>
        let p := peerAt (addr y.lane) off n
        (Completion.access u.cur u.fresh y.lane, BitVec.ofNat 20 p.1, p.2.1, n, x.op, y.cmp, toBytes n y.data.toNat))

/-! ### Traps (R236 to R239) -/

/-- The causes that are always fatal. -/
def fatalCause (n : Nat) : Bool := n == 7 || n == 11 || n == 12 || n == 15 || n == 16

/-- `brk` and `trap`, with the cause each raises and its code. -/
def trapForm : Instr → Option (Nat × BitVec 21)
  | .brk c => some (13, c)
  | .trap c => some (14, c)
  | _ => none

/-- The trap registers of a recoverable cause at address `pc` (R237): `RESPC` is the instruction itself for cause 9, else the
next one. -/
def trapRegs (cause : Nat) (info : DWord) (pc : Addr) (mask : Word) : TrapRegs :=
  { tcause := BitVec.ofNat 32 (2 ^ 31 + cause), tinfo := info, epc := pc.setWidth 64, emask := mask,
    respc := (if cause = 9 then pc else pc + 4).setWidth 64 }

/-- A group or sequencer stands in its trap vector and nothing else of the package has changed. -/
def inVector (cause : Nat) (info : DWord) (s t : State) : Prop :=
  match s.cur with
  | .group tm g p =>
    let e := s.split tm g p
    let tr := trapRegs cause info e.pc e.mask
    t = s.modGroup tm g fun x => { x with
      regs := { x.regs with trap := tr },
      splits := x.splits.mapIdx fun i y =>
        if i = p then { y with pc := BitVec.ofNat 57 (lrTvec (s.team tm).launch), wait := .none, parkHeld := false }
        else { y with held := y.held || y.valid } }
  | .seq tm =>
    t = s.modSeq tm fun q => { q with
      regs := { q.regs with trap := trapRegs cause info q.pc 1 },
      pc := BitVec.ofNat 57 (lrTvec (s.team tm).launch), wait := .none }
  | .host _ => False

/-- Host trap entry (R239): the level, that level's cause, information and address, and the status. -/
def hostEntered (cause : Nat) (info : DWord) (h : HostCore) : HostCore :=
  let tr : HostTrap := { cause := BitVec.ofNat 64 cause, info := info, epc := h.pc.setWidth 64, vec := 0 }
  if h.hdeleg.getLsbD cause = true ∧ h.pl.toNat < 3 then
    { h with strap := { tr with vec := h.strap.vec }, ppl := h.pl, pie := h.ie, ie := false, pl := 1,
             pc := h.strap.vec.setWidth 57, wait := .none, wfi := false }
  else
    { h with mtrap := { tr with vec := h.mtrap.vec }, ppl := h.pl, pie := h.ie, ie := false, pl := 3,
             pc := h.mtrap.vec.setWidth 57, wait := .none, wfi := false }

/-! ### Registers reached by number (R231 to R235) -/

/-- The destination or source of `movs`: two words with `.d`, outside a group, and for `k`, `q5`, `q7` and `z`. -/
def movsOpd (s : State) (d : RegNum) (x : Bool) (role : Role) : Opd :=
  let n := d.toNat
  let two := x = true ∨ s.kind ≠ .group ∨ (96 ≤ n ∧ n < 112) ∨ n = 117 ∨ n = 119 ∨ n = 120
  { reg := d, role := role, words := if two then 2 else 1, set := .any }

/-- The selectors of R40 and R231 that a group has; those that a sequencer lacks. -/
def selectors : List Nat :=
  [0x00, 0x01, 0x02, 0x03, 0x04, 0x08, 0x09, 0x0A, 0x0B, 0x0C, 0x10, 0x11, 0x12, 0x14, 0x18, 0x19, 0x1A, 0x20, 0x21, 0x22,
   0x23, 0x24, 0x25, 0x26, 0x27, 0x28, 0x29, 0x2A, 0x2B, 0x2C, 0x30, 0x31, 0x32, 0x33, 0x34, 0x35, 0x36, 0x37]

/-- Selectors that a group alone has. -/
def groupSelectors : List Nat := [0x0C, 0x20, 0x21, 0x22, 0x23, 0x2A, 0x2B]

/-- A `v` register number in a group. -/
def isV (s : State) (d : RegNum) : Prop := s.kind = .group ∧ d.toNat < 96

/-- The host registers that hold what is written to them, with the bits that they hold (R234). -/
def heldBits : List (Nat × DWord) :=
  [(0x001, -1), (0x002, -1), (0x003, -1), (0x004, -1), (0x005, -1), (0x006, 0x7FFFF), (0x007, 0xF), (0x009, -1),
   (0x00A, 0xFFFFFFFFE), (0x011, -1), (0x012, -1), (0x013, -1), (0x014, -1), (0x020, 0xFF), (0x045, 0xFF),
   (0x050, 0x30000FFFF), (0x056, 0x3FFFFFF), (0x080, 0x3F), (0x141, 0x7FF), (0x150, 0x1F), (0x200, 0x1FF), (0x210, 0xF),
   (0x220, 0x7), (0x310, 0x7F), (0x328, 0x7FF)]

/-! ### Messages, capabilities and tokens (R33, R160 to R177) -/

/-- Bits `lo` to `lo + n - 1` of a capability. -/
def bits (c : BitVec 128) (lo n : Nat) : Nat := c.toNat / 2 ^ lo % 2 ^ n

/-- The capability has USE, is of the issuing context's job, and of one of the types (R165). -/
def usable (s : State) (c : BitVec 128) (types : List Nat) : Prop :=
  bits c 124 4 ∈ types ∧ bits c 54 1 = 1 ∧ bits c 43 8 = s.ctxJob s.cur

/-- A token of the issuing context has one operation more (R33). -/
def attached (s : State) (n : Nat) : State :=
  s.modRegs s.cur fun r =>
    let k := tabGet Token.zero n r.tok
    { r with tok := tabSet n (if k.count = 0 then { count := 1, status := 0, info := 0 } else { k with count := k.count + 1 }) r.tok }

/-- The token has room for an operation. -/
def roomOn (s : State) (n : Nat) : Prop := (tabGet Token.zero n (s.ctxRegs s.cur).tok).count ≠ 255

/-- What a message from the issuing context through a capability says of itself (R166, R308). -/
def through (c : BitVec 128) (cls : MsgClass) (u : State) (m : Msg) : Prop :=
  m.cls = cls ∧ m.cap = c ∧ m.snode = u.node ∧ m.dnode.toNat = bits c 104 20 ∧ m.dtwr.toNat = bits c 101 3 ∧
  m.job.toNat = u.ctxJob u.cur % 256

/-- A message is sent against a token, or, where the sender refuses it, the token completes DENIED and nothing is sent; the
context goes on. -/
def sentOrDenied (ok : Prop) (u : State) (tok : Nat) (about : Msg → Prop) (t : State) : Prop :=
  (ok → ∃ m, about m ∧ t = ((attached u tok).send m (.token u.cur tok)).advance) ∧
  (¬ ok → t = ((attached u tok).completeToken u.cur tok 10 0).advance)

/-- The puts: form, register offset, token, capability, source, `.g`, `.rel`, `.b`, `.d`. -/
def putOf : Instr → Option (BitVec 4 × BitVec 3 × RegNum × RegNum × Bool × Bool × Bool × Bool)
  | .rput n t a b x y z => some (n, t, a, b, false, x, y, z)
  | .rputG n t a b x y z => some (n, t, a, b, true, x, y, z)
  | _ => none

/-- What a put's sender checks of its form (R174, R176); `b` includes the `.b` that a sequencer's put to type 1 acts as. -/
def putAllowed (c : BitVec 128) (n : Nat) (g b d : Bool) : Prop :=
  (b = true → bits c 52 1 = 1) ∧ (d = true → bits c 51 1 = 1) ∧
  (g = false → n ≤ bits c 63 5 ∧ (d = true → bits c 124 4 = 1 → (bits c 68 10 + n) % 2 = 0 ∧ n + 1 ≤ bits c 63 5))

/-- The whole of a capability but its tag, as R163 fills it from the fields of `a`. -/
def minted (s : State) (a : BitVec 128) : Nat :=
  let line := bits a 124 4 = 5
  bits a 124 4 * 2 ^ 124 + s.node.toNat * 2 ^ 104
    + (if line then 8 * s.ctxCol s.cur else ctxTeam s.cur / 64) * 2 ^ 94
    + (if line then 0 else s.handle (ctxTeam s.cur)) * 2 ^ 78 + bits a 51 27 * 2 ^ 51 + s.ctxJob s.cur % 256 * 2 ^ 43

/-- The condition of R163 on the fields of `a`. -/
def mintable (s : State) (a : BitVec 128) : Prop :=
  let l := (s.team (ctxTeam s.cur)).launch
  let ty := bits a 124 4
  (ty = 1 ∧ bits a 58 5 < lrGroups l ∧ bits a 68 10 + bits a 63 5 + 1 ≤ lrRegs l) ∨
  (ty = 2 ∧ bits a 58 5 < lrGroups l ∧ bits a 68 10 + bits a 63 5 + 1 ≤ 16) ∨
  (ty = 3 ∧ bits a 68 8 < lrBars l) ∨ (ty = 4 ∧ 256 * bits a 65 13 + 4352 ≤ lrVault l) ∨ ty = 5 ∨ ty = 6

/-- The physical registers of an `arm` or `disarm` of `n` registers, and whether they are `k` (R173). -/
def armRegs (s : State) (d : RegNum) (n : Nat) : Option (Bool × List Nat) :=
  if d.toNat < 96 then
    (if s.wb + d.toNat + n ≤ s.regsA then some (false, (List.range n).map (s.wb + d.toNat + ·)) else none)
  else if d.toNat < 112 ∧ d.toNat - 96 + n ≤ 16 then some (true, (List.range n).map (d.toNat - 96 + ·)) else none

/-- A port leads toward a node and works: a plane (0 to 31) inside the pod, an Ethernet port (32 to 35) to another (R317, R323). -/
def worksToward (s : State) (node : BitVec 20) (q : Nat) : Bool :=
  s.links.getLsbD q && !s.lnkdrain.getLsbD q &&
    if node.toNat / 512 = s.node.toNat / 512 then decide (q < 32) else decide (32 ≤ q ∧ q < 36)

/-- Every chunk that a remote copy of the issuing group or sequencer will perform has left or is done (R212, R315). -/
def copiesSent (s : State) : Prop :=
  ∀ q ∈ (s.core (s.ctxCore s.cur)).cq, q.rem = true → q.ctx = engCtx s.cur →
    ∀ k, k < q.most → (∀ n, q.stop = some n → k ≤ n) → k ∈ q.sentChunks ∨ k ∈ q.done

/-! ### Barriers and gauges (R178 to R188) -/

/-- R178: the team and number of the barrier that `bN` names. -/
def namedBarrier (s : State) (t n : Nat) : Option (Nat × Nat) :=
  let tm := s.team t
  if tm.clusterSize = 1 ∨ n < 128 then (if n < lrBars tm.launch then some (t, n) else none)
  else match s.findTeam (tm.rank0.toNat / 2 ^ 16) (tm.rank0.toNat % 2 ^ 16) with
    | none => none
    | some r => if n - 128 < lrBars (s.team r).launch then some (r, n - 128) else none

/-- R180: a barrier after one arrival. -/
def arrived (b : Barrier) : Barrier :=
  if b.arrivals + 1 = b.expected then { b with arrivals := 0, phase := b.phase + 1 } else { b with arrivals := b.arrivals + 1 }

/-! ### The activation table (R134, R135) -/

/-- The format of `tbl` by `fn[1:0]`. -/
def tableFmt (f : BitVec 2) : Fmt := if f = 1 then bf16 else if f = 2 then fp16 else fp32

/-- R135: the result for an argument, over the entries of the current bank. -/
def tableResult (bank : List Host.Cell) (f : BitVec 2) (a : Nat) : Nat :=
  let x := if f = 1 then a % 2 ^ 16 * 2 ^ 16 else if f = 2 then (fp32.round 0 false (fp16.value (a % 2 ^ 16))).1 else a
  let c := fun o => fp32.value (memNat bank (8 * (x / 2 ^ 20 % 2 ^ 12) + o) 4)
  if (fp32.value x).isNan || (c 0).isNan || (c 4).isNan then (tableFmt f).nan
  else ((tableFmt f).round 0 false (((c 4).mul (.fin false (x % 2 ^ 20) (-20))).add 0 (c 0))).1

/-! ### The matrix engine (R189 to R207) -/

/-- The issuing team, and the core it is on. -/
def teamOf (s : State) : Team := s.team (ctxTeam s.cur)

/-- Bank `b` of the issuing team. -/
def bankOf (s : State) (b : Nat) : Option Bank := tabFind b (teamOf s).acc

/-- A row is inside the window of a group in window mode; a sequencer has none (R195). -/
def inWindow (s : State) (lo hi : Nat) : Prop :=
  s.kind = .group → lrWindow (teamOf s).launch = true → s.myGroup.awb.toNat ≤ lo ∧ hi ≤ s.myGroup.awl.toNat

/-- The engine of the issuing core holds no command, and none is prepared. -/
def engineIdle (s : State) : Prop :=
  let c := s.core (s.ctxCore s.cur)
  c.mq = [] ∧ c.chains = [] ∧ c.followOn = none ∧ c.released = [] ∧ (∀ q ∈ c.cq, q.follow = none) ∧
  (teamOf s).state = .resident ∧ (teamOf s).halted = false

/-- The matrix queue of the issuing core has room, beside the places kept for prepared follow-ons (R190; log 106). -/
def engineRoom (s : State) : Prop :=
  let c := s.core (s.ctxCore s.cur)
  c.mq.length + ((c.followOn.toList ++ c.cq.filterMap (·.follow) ++ c.released).filter fun m => !m.dead).length < 16

/-- What a command that was performed at once leaves unchanged: other teams, other banks of the team, memory, columns. -/
def bankFrame (bs : List Nat) (s t : State) : Prop :=
  t = { s with teams := t.teams, cores := t.cores, fresh := t.fresh } ∧
  (∀ u, u ≠ ctxTeam s.cur → t.team u = s.team u) ∧ (∀ b, b ∉ bs → bankOf t b = bankOf s b) ∧
  ∀ c, t.core c = { s.core c with mq := (t.core c).mq }

/-- The open chain of the issuing context. -/
def openChainOf (s : State) : Option Chain :=
  (s.ctxRegs s.cur).chain.bind fun id => (s.core (s.ctxCore s.cur)).chains.find? fun c => c.id = id

/-- A register tile captured whole: lane `i` holds the 64 bytes of line `i` in 16 registers, and four more rows that hold its block
scales where it has them (R197). -/
def tileOf (s : State) (r : RegNum) : MOperand :=
  let lines := fun (first n : Nat) => (List.range 32).flatMap fun l => (List.range n).flatMap fun i =>
    toBytes 4 (laneOf (s.myGroup.row (s.wb + r.toNat + first + i)) l).toNat
  .tile (lines 0 16) (lines 16 4)

/-- The classes of formats that one `mma` may combine (R200). -/
def engineClass (f : Nat) : Option Nat := [none, none, some 0, some 0, some 1, some 1, some 3, some 3, some 2].getD f none

/-- The format of an operand at issue (R200); 0 where its pages give it, 15 where the other operand does. -/
def operandFormat (f : BitVec 3) (op : MOperand) : Nat :=
  if f ≠ 7 then [2, 3, 4, 5, 8, 6, 7].getD f.toNat 0
  else match op with
    | .tile _ _ => 15
    | .desc d => if d.toNat.testBit 127 then 0 else bits d 60 4

/-- A scale factor (R198). -/
def scaleFactor (s : State) (on : Bool) (n : Nat) : Word := if on then tabGet 0 n (s.ctxRegs s.cur).sc else 0x3F800000

/-- R199, R200: what a descriptor must be. -/
def descAllowed (s : State) (f : BitVec 3) (d : BitVec 128) : Prop :=
  let line := fun i => (s.vaultLoc (ctxTeam s.cur) (16 * (bits d 0 21 + i * bits d 28 12)) 64).isSome
  let scales := fun i => (s.vaultLoc (ctxTeam s.cur) (16 * (bits d 0 21 + bits d 40 16 + i)) 16).isSome
  bits d 121 6 = 0 ∧ bits d 21 7 = 0 ∧ 4 ≤ bits d 28 12 ∧ (f ≠ 7 → bits d 60 4 = 0) ∧
  if d.toNat.testBit 127 then f = 7 ∧ bits d 0 21 = 0
  else bits d 64 57 = 0 ∧ (f = 7 → 2 ≤ bits d 60 4 ∧ bits d 60 4 ≤ 8) ∧ (∀ i, i < 32 → line i = true) ∧
    (operandFormat f (.desc d) = 7 → ∀ i, i < 32 → scales i = true)

/-- R198, R200, R215: a position word and two operands that raise no trap. -/
def mmaAllowed (s : State) (pos : Nat) (f : BitVec 3) (x y : MOperand) : Prop :=
  pos / 2 ^ 16 % 2 ^ 47 = 0 ∧ pos.testBit 7 = false ∧ (∀ d, x = .desc d ∨ y = .desc d → descAllowed s f d) ∧
  (f = 7 → ∃ d, x = .desc d ∨ y = .desc d) ∧
  (let a := operandFormat f x
   let b := operandFormat f y
   a ≠ 0 → a ≠ 15 → b ≠ 0 → b ≠ 15 → engineClass a = engineClass b) ∧
  (pos.testBit 63 = true → s.kind ≠ .group ∧ (s.core (s.ctxCore s.cur)).followOn = none)

/-- A register tile, or a vault operand without poison, of format `f` as the engine reads it: its lines, its block scales, and the
band scale 1 (R197, R199, R200). -/
def localTile (s : State) (team : Nat) (op : MOperand) (f : Nat) (x : Tile) : Prop :=
  let tile := fun (bytes scales : List Byte) =>
    x = { bytes := bytes, scales := scales, bands := List.replicate 32 0x3F8000, codes := List.replicate 32 (f, 64, f) }
  match op with
  | .tile bytes scales => tile bytes scales
  | .desc d =>
    d.toNat.testBit 127 = false ∧
    ∃ l c : Nat → Nat × Nat,
      (∀ i, i < 32 → s.vaultLoc team (16 * (bits d 0 21 + i * bits d 28 12)) 64 = some (l i) ∧
        s.poisonIn (s.vaultPa (l i).1 (l i).2) 64 = none) ∧
      (f = 7 → ∀ i, i < 32 → s.vaultLoc team (16 * (bits d 0 21 + bits d 40 16 + i)) 16 = some (c i) ∧
        s.poisonIn (s.vaultPa (c i).1 (c i).2) 16 = none) ∧
      tile ((List.range 32).flatMap fun i => s.physRead (s.vaultPa (l i).1 (l i).2) 64)
        (if f = 7 then (List.range 32).flatMap fun i => s.physRead (s.vaultPa (c i).1 (c i).2) 16 else [])

/-- The code of element `k` of a line (R197). -/
def elementCode (x : Tile) (cls line k : Nat) : Nat :=
  let byte := fun i => (x.bytes.getD (64 * line + i) 0).toNat
  if cls = 0 then byte (2 * k) + 256 * byte (2 * k + 1) else if cls = 3 then byte (k / 2) / 16 ^ (k % 2) % 16 else byte k

/-- Element `k` of a line, decoded: a scaled one above the largest FP32 number is an infinity (R45, R49, R50, R197). -/
def element (x : Tile) (cls line k : Nat) : Val :=
  let code := x.codes.getD line (0, 0, 0)
  let f := if (if cls = 0 then 2 * k else if cls = 3 then k / 2 else k) < code.2.1 then code.1 else code.2.2
  if f = 7 then
    match ((codeVal e2m1 (elementCode x cls line k)).times (blockScale (x.scales.getD (16 * line + k / 8) 0).toNat)).times
        (bandScale (x.bands.getD line 0 % 2 ^ 24)) with
    | .num n q => if grid fp32 fp32.maxCode < q then .inf n else .num n q
    | v => v
  else match formatOf f with
    | some g => codeVal g (elementCode x cls line k)
    | none => .nan false

/-- R62 to R65: the word `(i, j)` of a bank after k-step `q`. A floating segment is summed exactly, scaled exactly, and added with one
rounding; the sum starts from negative zero (log 100). -/
def wordAfter (x y : Tile) (cls q i j : Nat) (sa sb old new : Word) : Prop :=
  let n := [8, 16, 16, 32].getD cls 0
  let ks := (List.range n).map (q * n + ·)
  if cls = 2 then
    new.toNat = wrap 32 (sgn 32 old.toNat + (ks.map fun k => sgn 8 (elementCode x cls i k) * sgn 8 (elementCode y cls j k)).sum)
  else
    let sum := ks.foldl (fun v k => v.plus 0 ((element x cls i k).times (element y cls j k))) (Val.num true 0)
    let scaled := (sum.times (codeVal fp32 sa.toNat)).times (codeVal fp32 sb.toNat)
    ∃ fl, rounded fp32 0 false 1 ((codeVal fp32 old.toNat).plus 0 scaled) (new.toNat, fl)


/-! ### Host control (R240 to R243) -/

/-- A cached translation, or a cached table entry, that a `tlbi` names: the reach of the entry, its address and its ASID. -/
def named (kind va asid : Nat) (e : TlbEntry) : Prop :=
  let n := match e.level with
    | 0 => if e.entry.getLsbD 56 then 2 ^ 21 else 2 ^ 16
    | 1 => 2 ^ 27
    | 2 => 2 ^ 38
    | _ => 2 ^ 49
  (kind = 1 ∨ kind = 3 → e.asid.toNat = asid) ∧ (kind = 2 ∨ kind = 3 → 65536 * e.page / n = va / n)

/-- The clusters of a `preempt` or `resume` of a team. -/
def teamTarget (s : State) (x : Nat) : Option Nat :=
  (s.findTeam (x / 2 ^ 16 % 2 ^ 10) (x % 2 ^ 16)).map fun t => (s.team t).cluster

/-- The teams that a pre-emption or resumption of a grid or of a core reaches: those of every cluster that has a team of the grid,
or on the core (R241). -/
def reached (s : State) (hit : Nat × Team → Prop) (m : Nat) : Prop :=
  ∃ e ∈ s.teams, hit e ∧ m ∈ s.clusterTeams (s.team e.1).cluster

/-- The answer of `preempt` and `resume`. -/
def counted (n status : Nat) : BitVec 128 := BitVec.ofNat 128 (2 ^ 32 * (n % 2 ^ 16) + status)

/-! ### Storage commands (R227 to R229, R326, R327) -/

/-- `n` bits of a register from bit `lo` on. -/
def field64 (x : DWord) (lo n : Nat) : Nat := x.toNat / 2 ^ lo % 2 ^ n

/-- The first checks of R228 refuse a command of a job: the queue is off or bound to another job, its LBA size is reserved, a
reserved bit is set, the operation is none of flush, write and read, the buffer is not a multiple of 512, the transfer is above
1 MiB, or it asks for a guard that the queue has not. -/
def refusedCommand (q : NvQueue) (c : NvCmd) (job : Nat) : Prop :=
  q.ctl.getLsbD 63 = false ∨ field64 q.ctl 48 8 ≠ job ∨ 2 ≤ field64 q.ctl 60 2 ∨ c.reserved = true ∨ 2 < c.opc ∨
    (c.opc ≠ 0 ∧ c.buf % 512 ≠ 0) ∨ 2 ^ 20 < (c.nlb + 1) * q.lba ∨ (c.pichk = true ∧ q.ctl.getLsbD 62 = false)

/-- No slot is free: the ring has no entry left, or every identifier is taken (log 41). -/
def ringFull (q : NvQueue) : Prop :=
  let depth := field64 q.ctl 32 12 + 1
  (q.sqtail + 1) % depth = q.sqhead.toNat % depth ∨ ∀ i, i < depth → tabFind i q.slots ≠ none

/-- The slot that a command takes (log 41). -/
def firstFree (q : NvQueue) (slot : Nat) : Prop :=
  let depth := field64 q.ctl 32 12 + 1
  (q.sqtail + 1) % depth ≠ q.sqhead.toNat % depth ∧ slot < depth ∧ tabFind slot q.slots = none ∧
    ∀ i, i < slot → tabFind i q.slots ≠ none

/-- A submission entry as a number, its first byte lowest: operation, SGL use and identifier; namespace; the protection area of
the slot; one SGL data block descriptor; for a read or write, the block, the count, FUA and the tags (log 41). -/
def submission (q : NvQueue) (slot : Nat) (c : NvCmd) (pa len : Nat) : Nat :=
  c.opc + 2 ^ 14 + 2 ^ 16 * slot + 2 ^ 32 * field64 q.ctl 0 32 + (if c.pichk then 2 ^ 96 * (c.ref / 2 ^ 32 % 2 ^ 32) else 0) +
    2 ^ 128 * ((q.pab.toNat + 32768 * slot) % 2 ^ 64) + 2 ^ 192 * pa + 2 ^ 256 * len +
    (if c.opc = 0 then 0 else 2 ^ 320 * c.slba + 2 ^ 384 * (c.nlb + (if c.pichk then 7 * 2 ^ 26 else 0) + (if c.fua then 2 ^ 30 else 0)) +
      (if c.pichk then 2 ^ 448 * (c.ref % 2 ^ 32) + 2 ^ 480 * (c.app + 0xFFFF * 2 ^ 16) else 0))

/-- A command is placed in slot `slot` of queue `n`: the slot holds it for its context, its entry stands at the tail, the tail
goes on, and the doorbell holds it. -/
def placed (s w : State) (n slot : Nat) (c : NvCmd) (pa len : Nat) : Prop :=
  let q := s.nvq n
  let tail := (q.sqtail + 1) % (field64 q.ctl 32 12 + 1)
  let at_ := q.sqb.toNat + 64 * q.sqtail
  (∃ k, tabFind slot (w.nvq n).slots = some k ∧ k.ctx = s.cur ∧ k.op.toNat = c.opc ∧ k.result = none ∧ k.waiter = none ∧
    k.orphan = false) ∧
  (w.nvq n).sqtail = tail ∧ (∀ i, i ≠ slot → tabFind i (w.nvq n).slots = tabFind i q.slots) ∧
  (Memory.wf s.mem = true → q.sqdb.toNat + 4 ≤ at_ ∨ at_ + 64 ≤ q.sqdb.toNat →
    (c.slba < 2 ^ 64 → c.nlb < 2 ^ 16 → c.app < 2 ^ 16 → c.ref < 2 ^ 48 → pa < 2 ^ 64 → len < 2 ^ 32 → slot < 2 ^ 16 →
      Spec.stores s at_ → ∀ i, i < 64 → Spec.stores s (at_ + i) →
        (w.physByte (at_ + i)).toNat = submission q slot c pa len / 256 ^ i % 256) ∧
    (Spec.stores s q.sqdb.toNat → ∀ i, i < 4 → Spec.stores s (q.sqdb.toNat + i) →
      (w.physByte (q.sqdb.toNat + i)).toNat = tail / 256 ^ i % 256))

/-- A context waits in `nvwait` for slot `slot` of queue `n`. -/
def waitsFor (s : State) (c : Ctx) (n slot : Nat) : Prop :=
  ∃ d x, s.ctxWait c = .nvwait d x ∧ field64 x 8 6 = n ∧ field64 x 16 16 = slot

/-- STATUS of a completion, from the status field that the drive returned: UE for a media error (type 2) and for a data transfer
error (type 0, code 4), DENIED for any other that is not 0 (R229; the codes are log 41's). -/
def driveStatus (nsf : Nat) : Nat :=
  if nsf = 0 then 0 else if nsf / 2 ^ 8 % 8 = 2 ∨ (nsf / 2 ^ 8 % 8 = 0 ∧ nsf % 2 ^ 8 = 4) then 4 else 10

/-! ### Steps -/

/-- No interrupt is taken before the instruction of a host core, and nothing holds the core (R239, R242). -/
def hostIssues (s : State) (c : Nat) : Prop :=
  let h := s.host c
  h.stopped = false ∧ h.wfi = false ∧ h.wait.passive = false ∧
  ∀ n, n < 4 → (s.hip c).testBit n = true → h.hie.getLsbD n = true →
    let lvl : BitVec 2 := if h.hdeleg.getLsbD (32 + n) = true ∧ h.pl.toNat < 3 then 1 else 3
    lvl.toNat < h.pl.toNat ∨ (lvl = h.pl ∧ h.ie = false)

/-- A team's contexts may issue: every team of its cluster is resident, it is not halted, and its core is awake. -/
def runs (s : State) (tm : Nat) : Prop :=
  ∃ t, tabFind tm s.teams = some t ∧ t.state = .resident ∧ t.halted = false ∧ (s.core t.core).asleep = false ∧
    ∀ u ∈ s.clusterTeams t.cluster, (s.team u).state = .resident

/-- The slot of the quarter of a group, at the issue boundary `u`, goes to group `e`, which has no trap due. -/
def groupIssues (s : State) (tm g : Nat) (e : Nat × Nat) (u : State) : Prop :=
  (tabFind tm s.teams).isSome ∧ u = s.boundary (s.team tm).core (s.group tm g).quarter ∧
  u.chosenGroup (s.team tm).core (s.group tm g).quarter = some e ∧ (u.group e.1 e.2).posts = [] ∧
  (u.group e.1 e.2).overwrite = none

/-- The state that the chosen split of a group issues in: its issue is recorded, and the slot counted. -/
def groupIssue (u : State) (e : Nat × Nat) : State :=
  let p := u.chosenSplit e.1 e.2
  let v := { u with cur := .group e.1 e.2 p }
  ((v.modGroup e.1 e.2 (Group.issued u.now p)).countSlot e.1 e.2).busyCore (u.team e.1).core

/-- The state that a sequencer issues in. -/
def seqIssue (s : State) (tm : Nat) : State :=
  (s.modSeq tm fun q => { q with regs := { q.regs with parked := [] } }).busyCore (s.team tm).core

/-- What a host core's fetch changes beside cached translations and homes: its instruction cache (R247). -/
def hostFetched (s : State) (c : Nat) (t : State) : Prop :=
  ∃ v ic, onlyTlb s v ∧ (t = v ∨ t = v.modHost c fun h => { h with icache := ic })

/-- One ready group of a quarter comes before another (R285). -/
def goesBefore (s : State) (a b : Nat × Nat) : Prop :=
  let x := s.group a.1 a.2
  let y := s.group b.1 b.2
  let pri := fun (e : Nat × Nat) => lrPri (s.team e.1).launch
  if x.urgent = true ∨ y.urgent = true then
    x.urgent = true ∧ (y.urgent = false ∨ y.waitingIssue < x.waitingIssue)
  else pri b < pri a ∨ (pri a = pri b ∧ y.waitingIssue < x.waitingIssue)

/-- Two splits meet (R31). -/
def meet (p q : Split) : Prop :=
  p.valid = true ∧ q.valid = true ∧ p.code = 0 ∧ q.code = 0 ∧ p.pc = q.pc ∧ p.wbi = q.wbi ∧ p.loops = q.loops

/-- The levels of a host core are levels (R235). -/
def modesLegal (s : State) : Prop := ∀ c, (s.host c).pl ≠ 2 ∧ (s.host c).ppl ≠ 2

/-- Words of the spec's encoding, with the instructions that they are. -/
def words : List (Word × Instr) :=
  [ (0x02040610, .add 1 0 97 false 0), (0xF0140014, .movs 5 false 0x14), (0xF18800A6, .movsWrite 98 false 0x26),
    (0xF4100000, .sysr 4 0), (0xF6140006, .sysw 5 6), (0xF8000000, .eret), (0xF8200000, .wfi), (0xF8400000, .halt),
    (0xFA001033, .tlbi 2 3 3), (0xFC183800, .preempt 6 7 0), (0xFC183803, .resume 6 7), (0xFE001030, .mfree 2 3),
    (0xFE001032, .rgrel 2 3), (0xE8031680, .launch 98), (0xEB8F1681, .nvsub 99 98 104 true), (0xED931801, .nvwait 100 99 true) ]

/-! ### Events of accesses (R145, R148, R155, R159, R264) -/

/-- A group or sequencer that exists, of a resident team. -/
def onCore (s : State) (c : Ctx) : Prop :=
  (∃ tm, tabFind (ctxTeam c) s.teams = some tm ∧ tm.state = .resident ∧ tm.core < 1024) ∧
  match c with
  | .group t g _ => g < (s.team t).groups.length
  | .seq t => (s.team t).seq.isSome
  | .host _ => False

/-- What holds an access back: any earlier one while it is a release or an `sc` operation, an earlier load that a `fence.rel`
of one of its lanes orders before its writes, or an earlier one that shares bytes with it in a lane (R148, R264, R267, R268). -/
def after (s : State) (job : Nat) (e a : Access) : Prop :=
  a.rel = true ∨ a.sc = true ∨ ((a.kind = .store ∨ a.kind = .atomic) ∧ e.fenced &&& a.mask ≠ 0) ∨ s.conflicts job e a = true

/-- Access `n` of a context may be performed: nothing issued before holds it back, it waits on no fault record, and no trap of
it is due. -/
def due (s : State) (c : Ctx) (n : Nat) (a : Access) : Prop :=
  (∃ pre post, (s.ctxRegs c).outs = pre ++ a :: post ∧ a.id = n ∧ ∀ e ∈ pre, e.id ≠ n ∧ ¬ after s (s.ctxJob c) e a) ∧
  a.fault = none ∧
  ∀ t g p, c = .group t g p → ∀ x ∈ (s.group t g).posts, x.accessId ≠ n

/-- The access has left the context's list, and no other team has changed. -/
def ended (n : Nat) (c : Ctx) (s t : State) : Prop :=
  (t.ctxRegs c).outs = (s.ctxRegs c).outs.filter (fun a => a.id ≠ n) ∧ ∀ u, u ≠ ctxTeam c → t.team u = s.team u

/-- The destination of an access holds the values in its lanes, and no other register of the context changed (R140). -/
def delivered (c : Ctx) (a : Access) (value : Nat → Nat) (s t : State) : Prop :=
  (∀ tm g p, c = .group tm g p → ∀ r l, l < 32 →
    laneOf ((t.group tm g).row r) l = match a.dst with
      | .v row w => if row ≤ r ∧ r < row + w ∧ a.mask.getLsbD l = true then BitVec.ofNat 32 (value l / 2 ^ (32 * (r - row)))
          else laneOf ((s.group tm g).row r) l
      | _ => laneOf ((s.group tm g).row r) l) ∧
  (∀ m, t.getK c m = match a.dst with
    | .k r w => if r ≤ m ∧ m < r + w then BitVec.ofNat 64 (value (lowLane a.mask) / 2 ^ (64 * (m - r))) else s.getK c m
    | _ => s.getK c m) ∧
  (∀ m, t.getS c m = match a.dst with
    | .s r w => if c = .seq (ctxTeam c) ∧ r ≤ m ∧ m < r + w then BitVec.ofNat 64 (value (lowLane a.mask) / 2 ^ (64 * (m - r)))
        else s.getS c m
    | _ => s.getS c m)

/-- What the first lane of a number reads, as the access extends it. -/
def loaded (s : State) (a : Access) (i : Nat) : Nat :=
  match a.lanes.find? fun l => l.lane = i with
  | none => 0
  | some l =>
    let x := ofBytes (s.physRead (s.locPa l.loc) a.size)
    if a.signed then wrap (if a.wide then 64 else 32) (sgn (8 * a.size) x) else x

/-- An address outside the region table of a context's tower. -/
def noHome (s : State) (c : Ctx) (pa : Nat) : Prop :=
  ∀ g, g < 2 ^ 40 → let e := s.regionEntry (towerOfCore (s.ctxCore c)) g; pa < e ∨ e + 4 ≤ pa

/-- The bytes of a lane of an access. -/
def laneBytes (s : State) (a : Access) (l : LaneAcc) (pa : Nat) : Prop :=
  s.locPa l.loc ≤ pa ∧ pa < s.locPa l.loc + a.size

/-- A trap of an access that is due before its group issues again. -/
def postOf (a : Access) (cause : BitVec 8) (info : DWord) : PostTrap :=
  { cause := cause, pc := a.pc, mask := a.mask, split := a.split, info := info, accessId := a.id }

/-- The trap of a split of a group: the registers of R237, the split in its vector, the others held. -/
def groupInVector (tm g p : Nat) (tr : TrapRegs) (f : Group → Group) (s t : State) : Prop :=
  t = s.modGroup tm g fun y =>
    let x := f y
    { x with
      regs := { x.regs with trap := tr }
      splits := x.splits.mapIdx fun i e =>
        if i = p then { e with pc := BitVec.ofNat 57 (lrTvec (s.team tm).launch), wait := .none, parkHeld := false }
        else { e with held := e.held || e.valid } }

/-! ### Messages at their destination and their sender (R165 to R176, R308 to R311, R319 to R321) -/

/-- The event at which a message is taken. -/
def arrival (m : Msg) : Instr :=
  match m.cls with
  | .rput => if m.toGauge then .rputGArrival m.id else .putArrival m.id
  | .barRarv => .barrierArrival m.id
  | .gauge => .barrierArrival m.id
  | .msgs => .messageArrival m.id
  | .stp => .stpArrival m.id
  | .atomp => .atompArrival m.id
  | .ldp => .ldpArrival m.id
  | .chunk => .tcopyChunkArrival m.id

/-- The message is the first of its identity at the interface, and is no WRITEOFF. -/
def arrived? (s : State) (m : Msg) : Prop :=
  m.writeoff = false ∧ ∃ pre post, s.inbound = pre ++ m :: post ∧ ∀ e ∈ pre, e.id ≠ m.id

/-- No outcome of the message's number is kept, and it is not older than the numbers that are. -/
def undecided (s : State) (m : Msg) : Prop :=
  ∀ o ∈ s.outcomes, o.stream = recvStream m → o.seqNo ≠ m.seqNo ∧
    ((o.seqNo - m.seqNo).toNat < 65536 ∨ 2 ^ 31 ≤ (o.seqNo - m.seqNo).toNat)

/-- It waits on no fault record, and every earlier number of its stream, from the first undecided one on, was decided here or
has arrived with another 6-bit tag (R308; that the interface waits for a number that has not arrived, within 65,536, is the model's
reading, log 99). -/
def inTurn (s : State) (m : Msg) : Prop :=
  m.fault = none ∧
  let low := tabGet 0 (recvStream m) s.undecided
  (m.seqNo - low).toNat < 65536 → ∀ k, k < (m.seqNo - low).toNat →
    let n := low + BitVec.ofNat 32 k
    (∃ o ∈ s.outcomes, o.stream = recvStream m ∧ o.seqNo = n) ∨
    ∃ e ∈ s.inbound, e.writeoff = false ∧ recvStream e = recvStream m ∧ e.ord ≠ m.ord ∧ e.seqNo = n

/-- The message is taken now. -/
def takenNow (s : State) (m : Msg) : Prop := arrived? s m ∧ undecided s m ∧ inTurn s m

/-- The interface holds no more of the message. -/
def gone (m : Msg) (s t : State) : Prop :=
  t.inbound = s.inbound.filter fun e => !(recvStream e = recvStream m && e.seqNo = m.seqNo && e.writeoff = m.writeoff)

/-- An answer is with the sender when that is this node, and leaves for it otherwise. -/
def answers (m : Msg) (a : Ack) (s t : State) : Prop :=
  (m.snode = s.node → t.acks = s.acks ++ [a] ∧ t.ackOut = s.ackOut) ∧
  (m.snode ≠ s.node → t.acks = s.acks ∧ t.ackOut = s.ackOut ++ [{ msg := m, kind := a.kind, xlate := a.xlate, va := a.va }])

/-- Nothing differs but what waits at the interfaces and what their ports have sent. -/
def onlyWire (s t : State) : Prop :=
  t = { s with inbound := t.inbound, sent := t.sent, acks := t.acks, ackOut := t.ackOut, planes := t.planes, shltx := t.shltx }

/-- A message is decided: it is gone, its outcome is kept and answered, and CON counts it once when `con` (R166, R311), but for the
part of a copy chunk that a redirect of the rest left behind (log 111). -/
def decided (m : Msg) (st sub : BitVec 4) (bad : Bool) (data : BitVec 128) (con : Bool) (s t : State) : Prop :=
  gone m s t ∧ answers m { id := m.id, kind := .decided st sub bad data, xlate := none } s t ∧
  { stream := recvStream m, seqNo := m.seqNo, status := some st, away := none } ∈ t.outcomes ∧
  ∀ w j, (t.towerJob w j).con = if con = true ∧ m.part = false ∧ w = m.dtwr.toNat ∧ j = m.job.toNat then (s.towerJob w j).con + 1
    else (s.towerJob w j).con

/-- A capability message names a resident team: its job is valid, its tag good, and its handle that team's. -/
def names (s : State) (m : Msg) (tm : Nat) : Prop :=
  (s.job m.job.toNat).ctl.getLsbD 63 = true ∧
  m.cap.toNat % 2 ^ 32 = capTag ((s.job m.job.toNat).key0.toNat + 2 ^ 64 * (s.job m.job.toNat).key1.toNat) (m.cap.toNat / 2 ^ 32) ∧
  s.findTeam (bits m.cap 94 10) (bits m.cap 78 16) = some tm ∧ (s.team tm).state = .resident

/-- The registers of a put, and what they are before it (R174). -/
def putRegs (m : Msg) : List Nat :=
  let b := bits m.cap 68 10 + m.reg.toNat
  if m.wide = true ∧ bits m.cap 124 4 = 1 then [b, b + 1] else [b]

/-- The state of a register of a group that a put names. -/
def putState (m : Msg) (g : Group) (r : Nat) : RegState :=
  if bits m.cap 124 4 = 1 then tabGet .plain r g.states else tabGet .plain r g.k.states

/-- An answer to message `n` is the first, and so is the message; its completion's team is not on the move. -/
def answered (s : State) (n : Nat) (x : SentMsg) (a : Ack) : Prop :=
  (∃ pre post, s.sent = pre ++ x :: post ∧ x.msg.id = n ∧ ∀ e ∈ pre, e.msg.id ≠ n) ∧
  (∃ pre post, s.acks = pre ++ a :: post ∧ a.id = n ∧ ∀ e ∈ pre, e.id ≠ n) ∧ s.compHeld x.comp = false

/-- Message `n` is waited for no longer. -/
def unsent (n : Nat) (s t : State) : Prop :=
  t.sent = s.sent.filter (fun x => x.msg.id ≠ n) ∧ t.acks = s.acks.filter fun a => a.id ≠ n

/-- A token has one operation less, and keeps its first failure (R33). -/
def tokenEnds (c : Ctx) (k : Nat) (st : BitVec 4) (s t : State) : Prop :=
  (let x := tabGet Token.zero k (s.ctxRegs c).tok
   let y := tabGet Token.zero k (t.ctxRegs c).tok
   y.count = x.count - 1 ∧ y.status = (if x.status = 0 then st else x.status) ∧
   y.info = (if x.status = 0 ∧ st ≠ 0 then 0 else x.info)) ∧
  ∀ i, i ≠ k → tabGet Token.zero i (t.ctxRegs c).tok = tabGet Token.zero i (s.ctxRegs c).tok

/-- A message not acknowledged, and the state with it changed. -/
def waits (s : State) (n : Nat) (x : SentMsg) : Prop := ∃ pre post, s.sent = pre ++ x :: post ∧ x.msg.id = n ∧ ∀ e ∈ pre, e.msg.id ≠ n

/-- The counter LOST at the sending interface has one more, and no other (R166; log 111 for a divided copy chunk). -/
def lostOne (m : Msg) (s t : State) : Prop :=
  ∀ w j, (t.towerJob w j).lost = if m.cls ≠ .ldp ∧ m.part = false ∧ w = m.stwr.toNat ∧ j = m.job.toNat then (s.towerJob w j).lost + 1
    else (s.towerJob w j).lost

/-- A record enters a tower's loss log, which holds 64, with PEER and DONE in bits 40 and 39 of its second word (R312). -/
def lossLogged (m : Msg) (peer done : Bool) (s t : State) : Prop :=
  let l := (s.tower m.stwr.toNat).losses
  (l.length < 64 → ∃ r, (t.tower m.stwr.toNat).losses = l ++ [r] ∧ r.w1.getLsbD 40 = peer ∧ r.w1.getLsbD 39 = done ∧
    r.w1.toNat / 2 ^ 44 = m.dnode.toNat ∧ r.w2.toNat / 2 ^ 32 = m.seqNo.toNat) ∧
  (64 ≤ l.length → (t.tower m.stwr.toNat).losses = l ∧ (t.tower m.stwr.toNat).lossOvf = true)

/-- Message `m` leaves as `m'`, with the next number of its new stream, and is not counted again (R321). -/
def resent (n : Nat) (x : SentMsg) (m' : Msg) (s t : State) : Prop :=
  (∃ y : SentMsg, t.sent = (s.sent.filter fun e => e.msg.id ≠ n) ++ [y] ∧ y.comp = x.comp ∧ y.first = s.now ∧
    y.msg = { m' with id := s.fresh, seqNo := tabGet 0 (sendStream m') s.streams } ∧ y.port = s.pickPort y.msg none) ∧
  tabGet 0 (sendStream m') t.streams = tabGet 0 (sendStream m') s.streams + 1 ∧
  ∀ w j, (t.towerJob w j).inj = (s.towerJob w j).inj

/-- No request of the same interface for the same line is unacknowledged before it (R167; log 99). -/
def firstOut (s : State) (x : SentMsg) : Prop :=
  ∀ pre y post, s.sent = pre ++ y :: post → (∀ e ∈ pre, e.msg.id ≠ x.msg.id) → y.msg.id ≠ x.msg.id →
    y.msg.stwr = x.msg.stwr → y.msg.onode = x.msg.onode → y.msg.tag = x.msg.tag →
    y.msg.cls ∈ [MsgClass.rput, .barRarv, .msgs, .gauge]

/-- A kept entry that an invalidation names: of its job, for a page of its target or leading to one (R320). -/
def invalidated (v : Inval) (y : XEntry) : Prop :=
  y.job = v.job ∧ ((y.node = v.target ∧ (v.page = none ∨ v.page = some y.page)) ∨
    (y.fwdNode = v.target ∧ (v.page = none ∨ v.page = some y.vpage)))

/-- A request that went through such an entry is not acknowledged. -/
def wentThrough (s : State) (v : Inval) : Prop :=
  ∃ x ∈ s.sent, x.msg.kept = true ∧ x.msg.job.toNat = v.job ∧
    ((x.msg.onode.toNat = v.target ∧ (v.page = none ∨ v.page = some (x.msg.ova / 65536))) ∨
      (x.msg.dnode.toNat = v.target ∧ x.msg.dnode ≠ x.msg.onode))

/-! ### Routes (R299, R300, R302) -/

/-- Where a packet without an intermediate quadrant is after `n` hops from router `r` on its die. -/
def afterHops (p : Packet) (n r : Nat) : Nat :=
  match n with
  | 0 => r
  | n + 1 => if r = p.dst then r else afterHops p n (p.hop r)

/-- The same of a packet that keeps its intermediate quadrant until it is there. -/
def afterDetour (p : Packet) (n r : Nat) : Nat :=
  match n with
  | 0 => r
  | n + 1 => if r = p.dst then r
      else let x := p.hop r; afterDetour { p with via := p.via.filter fun q => q ≠ x % 16 / 4 } n x

/-- The long links, by the quadrants of a die, and the links within one (R299). -/
def wired (a b : Nat) : Prop :=
  a ≠ b ∧ a / 16 = b / 16 ∧
    (a / 4 = b / 4 ∨ ∃ x y, x < 4 ∧ y < 4 ∧ x ≠ y ∧ a % 16 = 4 * x + (y + 4 - x) % 4 - 1 ∧ b % 16 = 4 * y + (x + 4 - y) % 4 - 1)

/-! ### Waves and gauges (R182 to R187, R313 to R315) -/

/-- The children's nodes of a job, from `WVKIDS` and `WVKID` (R307). -/
def kids (s : State) (j : Nat) : List (BitVec 20) :=
  (List.range (min 16 ((s.job j).wvkids.toNat % 32))).map fun i => (tabGet 0 i (s.job j).wvkid).setWidth 20

/-- No team of a job is being saved or restored. -/
def jobStill (s : State) (j : Nat) : Prop :=
  ∀ e ∈ s.teams, lrJob e.2.launch = j → e.2.state ≠ .saving ∧ e.2.state ≠ .restoring

/-- Packets of a job leave in place of those that left before, in order, as far as the budget of wave packets goes; the others
wait for its next period (R314, R342). -/
def sendsWaves (j : Nat) (ps : List (BitVec 20 × WavePacket)) (s t : State) : Prop :=
  ∃ gone waiting, ps = gone ++ waiting ∧ t.waveOut = (s.waveOut.filter fun x => x.2.job ≠ j) ++ gone ∧
    t.waveWait = s.waveWait ++ waiting ∧ (waiting ≠ [] → t.budgetLeft 0 2 = false)

/-- Pass `p` has begun here: no tower has taken its snapshot yet, and the children are told. -/
def passBegun (j : Nat) (p : DWord) (s t : State) : Prop :=
  (let w := (t.job j).wave; w.pass = p ∧ w.running = true ∧ w.snaps = [] ∧ w.replies = []) ∧
  sendsWaves j ((kids s j).map fun k => (k, .wave j p)) s t ∧ t.mem = s.mem ∧ t.towers = s.towers

/-- A counter of the towers' snapshots and of the replies added up, modulo 2^64. -/
def passSum (w : WaveState) (f : DWord × DWord × DWord × Bool → DWord) : DWord :=
  ((w.snaps.map (·.2) ++ w.replies.map (·.2)).map f).foldl (· + ·) 0

/-- Another store of the same gauge is due before. -/
def storeBefore (q : GaugeStore) (pre : List GaugeStore) : Prop := ∃ p ∈ pre, sameGauge p.record q.record = true

/-- The bytes of a number have been stored at a physical address, and nothing else in memory. -/
def stored (pa n x : Nat) (s t : State) : Prop :=
  bytesKept pa n s t ∧
  (Memory.wf s.mem = true → stores s pa → ∀ i, i < n → stores s (pa + i) → (t.physByte (pa + i)).toNat = x / 256 ^ i % 256)

/-- ERRC of the checks at a firing, 0 when all pass (R184): 1 the parameter block lies outside the allocation; 2 a capability that a
flagged action uses is of another type, without USE, or of another job; 3 a reserved bit of the block is set. -/
def firingError (job flags : Nat) (block : Option (List Byte)) : Nat :=
  match block with
  | none => 1
  | some b =>
    let cap := fun (o : Nat) => ofBytes ((b.drop o).take 16)
    let bad := fun (o type : Nat) => cap o / 2 ^ 124 ≠ type ∨ (cap o).testBit 54 = false ∨ cap o / 2 ^ 43 % 2 ^ 8 ≠ job
    open Classical in
    if (flags.testBit 2 = true ∧ bad 0x10 3) ∨ (flags.testBit 1 = true ∧ bad 0x20 5) then 2
    else if cap 0x30 ≠ 0 then 3 else 0

/-- A GAUGE record (R185): time, the bits that name the gauge, the generation, ERRC and ERR, and job. -/
def gaugeRecord (cyc name gen errc job : Nat) : BitVec 256 :=
  BitVec.ofNat 256 (cyc * 2 ^ 192 + name + gen * 2 ^ 32 + errc * 2 ^ 20 + (if errc = 0 then 0 else 2 ^ 16) + job * 2 ^ 8 + 0x40)

/-- The event records of a host core after more have arrived: 64 are held, and the rest dropped (R26). -/
def received (c : Nat) (rs : List (BitVec 256)) (s t : State) : Prop :=
  (t.host c).q6 = (s.host c).q6 ++ rs.take (64 - (s.host c).q6.length)

/-- The firings of a gauge at the generations `gens` (R184, R185): where its block passes the checks, each appends the NOTIFY store
and the LAUNCH store, sends the ARRIVE message and pushes the EVENT record that its flags ask for; where the block fails, each
pushes a record with ERR, and does nothing else. -/
def fired (job pri flags : Nat) (block : Option (List Byte)) (col cyc name : Nat) (gens : List Nat) (s t : State) : Prop :=
  let bad := firingError job flags block
  let field := fun o n => ofBytes (((block.getD []).drop o).take n)
  let on := fun i => bad = 0 ∧ flags.testBit i = true
  (bad ≠ 0 ∨ on 0 → received col (gens.map fun g => gaugeRecord cyc name g bad job) s t) ∧
  (¬ (bad ≠ 0 ∨ on 0) → (t.host col).q6 = (s.host col).q6) ∧
  (∃ qs, t.notifies = s.notifies ++ qs ∧ (¬ on 3 → qs = []) ∧
    (on 3 → (qs.map fun q => (q.va, q.gen.toNat, q.job.toNat)) = gens.map fun g => (field 8 8, g, job))) ∧
  (∃ qs, t.glaunches = s.glaunches ++ qs ∧ (¬ on 1 → qs = []) ∧
    (on 1 → (qs.map fun q => (q.cap.toNat, q.launch.toNat, q.job.toNat, q.pri.toNat)) =
      gens.map fun _ => (field 0x20 16, field 0x40 64, job, pri))) ∧
  (on 2 → t.sent.length = s.sent.length + gens.length) ∧ (¬ on 2 → t.sent = s.sent)

/-- The generations of `n` firings after `gen`, modulo 2^32 (R183). -/
def gensAfter (gen n : Nat) : List Nat := (List.range n).map fun i => (gen + i + 1) % 2 ^ 32

/-! ### Launch, placement and the life of teams (R105, R222 to R226, R238, R271 to R297) -/

/-- The part of a grid as its record enters the table (R274). -/
def newPart (h : DWord) (r : BitVec 512) (argp : DWord) : GridPart :=
  { handle := h, launch := r, argp := argp, next := 0, retired := 0, ended := 0, lost := 0, denied := false, met := false,
    noticed := false }

/-- A record that R224 refuses for an alignment, a job, a priority or a reserved bit. -/
def refusedRecord (s : State) (r : BitVec 512) (user : Bool) (job pri : Nat) : Prop :=
  lrEntry r % 4 ≠ 0 ∨ lrTvec r % 4 ≠ 0 ∨ lrCnaddr r % 8 ≠ 0 ∨ (s.job (lrJob r)).ctl.getLsbD 63 = false ∨
  (user = true ∧ (lrJob r ≠ job ∨ pri < lrPri r)) ∨ r.toNat / 2 ^ 448 ≠ 0 ∨ r.toNat / 2 ^ 57 % 2 ^ 7 ≠ 0

/-- The first split of a group as it starts: all lanes at an address (R29). -/
def started (entry : Nat) (g : Group) : Prop :=
  (g.splits.getD 0 Split.none) = { Split.none with valid := true, pc := BitVec.ofNat 57 entry, mask := BitVec.allOnes 32 } ∧
  (∀ i, 1 ≤ i → (g.splits.getD i Split.none).valid = false) ∧ g.rows = [] ∧ g.k = KFile.zero ∧ g.preds = [] ∧
  g.regs = Regs.zero ∧ g.deferred = [] ∧ g.part = 5 ∧ g.retired = false

/-- A fatal cause that no context raised stands in the trap registers of a context (R236). -/
def fatalMark (cause : Nat) (info : DWord) (r : Regs) : Prop :=
  r.trap.tcause = BitVec.ofNat 32 (2 ^ 31 + 2 ^ 30 + cause) ∧ r.trap.tinfo = info ∧ r.trap.respc = 0

/-- Offset of group `g`'s section in a save record (R293, R294). -/
def groupSection (l : BitVec 512) (g : Nat) : Nat := 0x30000 + g * (8192 + 128 * lrRegs l)

/-! ### Engines, power, service and the outside (R69, R136 to R138, R193, R211, R216, R234, R239, R261, R302 to R359) -/

/-- A chain's team and the context whose token it completes are resident. -/
def chainsResident (s : State) (core : Nat) : Prop :=
  ∀ ch ∈ (s.core core).chains, (s.team ch.team).state = .resident ∧ (s.team (ctxTeam ch.ctx)).state = .resident

/-- The level at which a host core takes interrupt `n` (R239). -/
def interruptLevel (n : Nat) (h : HostCore) : BitVec 2 := if h.hdeleg.getLsbD (32 + n) = true ∧ h.pl.toNat < 3 then 1 else 3

/-- Interrupt `n` is pending, enabled, and above the level of the host core, or at it with IE (R234, R239). -/
def interrupts (s : State) (col n : Nat) : Prop :=
  let h := s.host col
  (s.hip col).testBit n = true ∧ h.hie.getLsbD n = true ∧
  (h.pl.toNat < (interruptLevel n h).toNat ∨ (interruptLevel n h = h.pl ∧ h.ie = true))

/-- Entry to the handler of interrupt `n` (R239). -/
def interrupted (n : Nat) (h : HostCore) : HostCore :=
  let tr : HostTrap := { cause := BitVec.ofNat 64 (2 ^ 63 + n), info := 0, epc := h.pc.setWidth 64, vec := 0 }
  if interruptLevel n h = 1 then
    { h with strap := { tr with vec := h.strap.vec }, ppl := h.pl, pie := h.ie, ie := false, pl := 1,
             pc := h.strap.vec.setWidth 57, wait := .none, wfi := false }
  else
    { h with mtrap := { tr with vec := h.mtrap.vec }, ppl := h.pl, pie := h.ie, ie := false, pl := 3,
             pc := h.mtrap.vec.setWidth 57, wait := .none, wfi := false }

/-- Nothing but resident contexts waits on a fault record of a column, or for one. -/
def nothingElseWaits (s : State) (col : Nat) : Prop :=
  (∀ e ∈ s.teams, e.2.state ≠ .saved ∧ ∀ r ∈ e.2.contexts, ∀ a ∈ r.outs, a.fault = none) ∧ (s.col col).unfiled = [] ∧
  (∀ e ∈ s.cores, (∀ m ∈ e.2.mq, m.fault = none) ∧ (∀ q ∈ e.2.cq, q.faults = []) ∧ ∀ ch ∈ e.2.chains, ch.auditFault = none) ∧
  (∀ e ∈ s.cols, ∀ b ∈ e.2.batches, b.2.fault = none) ∧ (∀ n ∈ s.notices, n.fault = none) ∧ (∀ n ∈ s.notifies, n.fault = none) ∧
  ∀ m ∈ s.inbound, m.fault = none

/-- The decision of R331 for island `n` of a column. -/
def asked (now n : Nat) (col : Column) (v : DWord) (i : Island) : Island :=
  let val := v.toNat % 256
  let t : Int := if v.getLsbD 15 = true then i.point.toNat + sgn 8 val else (val : Int)
  let lim : Int := if n % 4 < 2 ∧ 2 ≤ col.gov.level.toNat then (col.gov.thcap.toNat : Int) else 15
  let p := BitVec.ofInt 4 (min t lim)
  if v.toNat / 65536 ≠ 0 ∨ v.toNat / 256 % 128 ≠ 0 ∨ (v.getLsbD 15 = false ∧ 16 ≤ val) ∨ col.svc.retired = true ∨
      col.svc.failed = true ∨ col.gov.level = 3 then { i with status := 10 }
  else if i.step = true then { i with status := 6 }
  else if t < 0 then { i with status := 5 }
  else if p = i.point then { i with status := 0, capped := decide (lim < t), target := p }
  else
    { i with status := 0, capped := decide (lim < t), target := p, step := true, since := now,
             phase := if i.point.toNat < p.toNat then 1 else 3 }

/-- A steady island that is above a point starts down to it; another stays (R332). -/
def loweredTo (now : Nat) (cap : BitVec 4) (i : Island) : Island :=
  if cap.toNat < i.point.toNat then { i with target := cap, step := true, phase := 3, since := now } else i

/-- An island after a change of point: a lowering asked for meanwhile starts (R332). -/
def changed (now : Nat) (i : Island) : Island :=
  let j := { i with point := i.target, step := false, phase := 0, lowerTo := none }
  match i.lowerTo with
  | none => j
  | some cap => loweredTo now cap j

/-- The governor's level after a sample of `tj` eighths of a degree, `held` ns after the last change (R335). -/
def level (old tj held : Nat) : Nat :=
  let up := if 840 ≤ tj then 3 else if 800 ≤ tj then 2 else if 760 ≤ tj then 1 else 0
  let low := [0, 736, 776, 816].getD old 0
  if old < up then up else if 0 < old ∧ tj < low ∧ 100000 ≤ held then old - 1 else old

/-- The HBM codes after a reading in °C: refresh (R339) and bandwidth. -/
def hbmCode (two lowTwo one lowOne : Nat) (old : BitVec 2) (t : Nat) : BitVec 2 :=
  if two ≤ t then 2
  else if lowTwo ≤ t then (if old = 2 then 2 else 1)
  else if one ≤ t then 1
  else if lowOne ≤ t then (if old = 0 then 0 else 1)
  else 0

/-- Contexts of job `j` on a column that share its energy: group slots in use and sequencers (R341). -/
def energyOf (s : State) (col j : Nat) : Nat :=
  sumNat ((s.teamsOn fun c => colOfCore c = col).map fun t =>
    if lrJob (s.team t).launch = j then
      ((s.team t).groups.filter fun g => !g.retired).length + (if (s.team t).seq = none then 0 else 1)
    else 0)

/-- A record has entered the error log of a column, with its unit, class, address and syndrome (R349, R350). -/
def errorLogged (col unit cls addr : Nat) (synd : DWord) (s t : State) : Prop :=
  if cls = 0 ∧ 32 ≤ (s.col col).errs.length then (t.col col).errs = (s.col col).errs
  else if 64 ≤ (s.col col).errs.length then (t.col col).errs = (s.col col).errs ∧ (t.col col).errOvf = true
  else ∃ r, (t.col col).errs = (s.col col).errs ++ [r] ∧ r.w0 = BitVec.ofNat 64 (2 ^ 60 * unit + 2 ^ 58 * cls + addr % 2 ^ 52) ∧
    r.w2 = synd

/-- A host core that is stopped, in every column. -/
def hostsStopped (t : State) : Prop := ∀ c, c < 128 → (t.host c).stopped = true

/-- R322: what the cumulative acknowledgement of a header leaves of a message that waits for its answer: one of the reverse stream
before ACKSEQ has been decided, and is not sent again (log 113). -/
def covered (h : Nat) (x : SentMsg) : SentMsg :=
  let ahead := (h / 2 ^ 96 % 2 ^ 32 + 2 ^ 32 - x.msg.seqNo.toNat) % 2 ^ 32
  if x.msg.dnode.toNat = h / 2 ^ 172 % 2 ^ 20 ∧ x.msg.dtwr.toNat = h / 2 ^ 231 % 8 ∧ x.msg.stwr.toNat = h / 2 ^ 228 % 8 ∧
    0 < ahead ∧ ahead < 2 ^ 31 then { x with resent := true } else x

/-- The Sahlin datagram's header fields (R322): version, destination and payload length. -/
def datagramFor (s : State) (dg : Datagram) : Prop :=
  let h := dg.header.toNat
  h / 2 ^ 252 % 16 = 1 ∧ h / 2 ^ 152 % 2 ^ 20 = s.node.toNat ∧ h / 2 ^ 128 % 2 ^ 16 = dg.payload.length ∧
  dg.payload.length ≤ 4096

/-- The tag of a datagram verifies under the pair's key, or under the previous one within 1 ms of a change (R323, R349). -/
def tagHolds (s : State) (dg : Datagram) : Prop :=
  let k := tabGet ShlKey.reset (dg.header.toNat / 2 ^ 172 % 2 ^ 20 / 512) s.shlkeys
  dg.tagCurrent = true ∨ (dg.tagPrevious = true ∧ k.old ≠ none ∧ s.now < k.changed + 1000000)

/-- Chunk `k` of command `n` in a core's copy queue can be done: it has started, is neither done nor sent, waits on no fault, and its
team and the context of its token are resident. -/
def chunkDue (s : State) (core n k : Nat) (c : CCmd) : Prop :=
  (s.core core).cq.find? (fun q => q.id = n) = some c ∧ c.stop = none ∧ k < c.started.length ∧ k ∉ c.done ∧ k ∉ c.sentChunks ∧
  (∀ f ∈ c.faults, f.2.2 ≠ k) ∧ c.follow = none ∧ (s.team c.team).state = .resident ∧
  (s.team (ctxTeam c.ctx)).state = .resident ∧ c.gen = false ∧ c.rem = false

/-- The bytes of a list stand at a physical address, and nothing else in memory has changed. -/
def bytesAt (pa : Nat) (bs : List Byte) (s t : State) : Prop :=
  bytesKept pa bs.length s t ∧
  (Memory.wf s.mem = true → stores s pa → ∀ i b, bs[i]? = some b → stores s (pa + i) → t.physByte (pa + i) = b)

/-- FP32 words as the elements of a code that CONVERT writes, each converted under .sat with rounding to nearest even, elements of
half a byte two to a byte, the first in the low half (R52, R209). -/
def encodedBytes (code : Nat) (ws : List Nat) : List Byte :=
  let x := ws.map fun w => (fCvt code 1 true 0 w).1
  if code = 6 then
    (List.range (x.length / 2)).map fun i => BitVec.ofNat 8 (x.getD (2 * i) 0 % 16 + 16 * (x.getD (2 * i + 1) 0 % 16))
  else x.flatMap fun v => toBytes (elemSize code 4) v

end Sys2Proof.Spec

open Sys2Proof Sys2Proof.Machine


/-! ### Encoding -/

/-- Every word of a well-formed instruction decodes to it (R70, R74). -/
def Obligations.DecodeOfEncodeIsTheInstruction : Prop :=
  ∀ (i : Instr) (w : Word), i.wellFormed = true → encode i = some w → decode w = .ok i

/-- A word that decodes is the one word of the instruction it decodes to: no bit of it is dropped (R70, R77). -/
def Obligations.EncodeOfDecodeIsTheWord : Prop :=
  ∀ (i : Instr) (w : Word), decode w = .ok i → encode i = some w

/-- R75: the reason for a word is 0 exactly when its major opcode is one of those that R75 lists. -/
def Obligations.UnassignedMajorOpcodesAreReasonZero : Prop :=
  ∀ w : Word, decode w = .error (.illegal 0) ↔ Spec.unassignedMajor (w.toNat / 2 ^ 25) = true

/-! ### Integer forms -/

/-- R88 to R95: a two-source integer form whose operands pass the checks at issue and are ready completes, with the
result of its rule in every lane it writes. Divisions may set DZ beside it. -/
def Obligations.TwoSourceIntegerResults : Prop :=
  ∀ (i : Instr) (s : State) (d a b : RegNum) (w : Bool) (f : Nat → Nat → Nat → Nat),
    Spec.intTwo i = some (d, a, b, w, f) →
    let n := s.width w [d, a, b]
    let os := [srcAny a (n / 32), srcAny b (n / 32), dstAny d (n / 32)]
    s.ready os = .ok () →
    let x := fun l => (nthLanes (s.readAll os).1 0 l).toNat % 2 ^ n
    let y := fun l => (nthLanes (s.readAll os).1 1 l).toNat % 2 ^ n
    let t := (s.readAll os).2
    let fl := if Spec.isDivision i = true ∧ ∃ l ∈ t.computing d, y l = 0 then flagDZ else 0
    exec i s = .next (((t.writeOpd (dstAny d (n / 32)) fun l => BitVec.ofNat 128 (f n (x l) (y l))).raiseFlags fl).advance)

/-- R90, R98, R99: the one-source and immediate forms complete with the result of their rule.

R89, R90, R93, R96, R99: `mad` and `movh` read their destination; `bfi` and `brev` place bits one by one; `sel` takes
one source or the other in each lane. -/
def Obligations.OneAndThreeSourceIntegerResults : Prop :=
  (∀ (i : Instr) (s : State) (d : RegNum) (a : Option RegNum) (w : Bool) (f : Nat → Nat → Nat),
    Spec.intOne i = some (d, a, w, f) →
    let n := s.width w (d :: a.toList)
    let os := a.toList.map (fun r => srcAny r (n / 32)) ++ [dstAny d (n / 32)]
    s.ready os = .ok () →
    let x := fun l => (nthLanes (s.readAll os).1 0 l).toNat % 2 ^ n
    exec i s = .next (((s.readAll os).2.writeOpd (dstAny d (n / 32)) fun l => BitVec.ofNat 128 (f n (x l))).advance)) ∧
  (∀ (s : State) (d a b : RegNum) (w : Bool),
    let n := s.width w [d, a, b]
    let os := [srcAny a (n / 32), srcAny b (n / 32), bothAny d (n / 32)]
    s.ready os = .ok () →
    let v := fun i l => (nthLanes (s.readAll os).1 i l).toNat % 2 ^ n
    let t := (s.readAll os).2
    exec (.mad d a b w) s = .next ((t.writeOpd (dstAny d (n / 32)) fun l =>
      BitVec.ofNat 128 ((v 0 l * v 1 l + v 2 l) % 2 ^ n)).advance) ∧
    ∃ r : Lanes, exec (.bfi d a b w) s = .next ((t.writeOpd (dstAny d (n / 32)) r).advance) ∧
      ∀ l j, (r l).getLsbD j = (decide (j < n) &&
        (let p := v 1 l % 256
         let len := v 1 l / 256 % 256
         if p ≤ j ∧ j < p + len then (v 0 l).testBit (j - p) else (v 2 l).testBit j))) ∧
  (∀ (s : State) (d a : RegNum) (w : Bool),
    let n := s.width w [d, a]
    let os := [srcAny a (n / 32), dstAny d (n / 32)]
    s.ready os = .ok () →
    ∃ r : Lanes, exec (.brev d a w) s = .next (((s.readAll os).2.writeOpd (dstAny d (n / 32)) r).advance) ∧
      ∀ l j, (r l).getLsbD j = (decide (j < n) && (nthLanes (s.readAll os).1 0 l).getLsbD (n - 1 - j))) ∧
  (∀ (s : State) (d a b : RegNum) (w : Bool) (p : BitVec 3),
    let n := s.width w [d, a, b]
    let os := [srcAny a (n / 32), srcAny b (n / 32), dstAny d (n / 32)]
    s.ready os = .ok () →
    exec (.sel d a b w p) s = .next (((s.readAll os).2.writeOpd (dstAny d (n / 32)) fun l =>
      BitVec.ofNat 128 ((nthLanes (s.readAll os).1 (if (s.pred p.toNat).getLsbD l then 0 else 1) l).toNat % 2 ^ n)).advance)) ∧
  (∀ (s : State) (d : RegNum) (i : BitVec 18),
    let n := s.width false [d]
    let os := [bothAny d (n / 32)]
    s.ready os = .ok () →
    exec (.movh d i) s = .next (((s.readAll os).2.writeOpd (dstAny d (n / 32)) fun l =>
      BitVec.ofNat 128 ((nthLanes (s.readAll os).1 0 l).toNat * 2 ^ 18 % 2 ^ n ||| i.toNat)).advance))

/-- R97: a compare completes with its condition in the predicate, for codes 0 to 5; codes 6 and 7 are reason 1. -/
def Obligations.ComparesWriteTheirCondition : Prop :=
  ∀ (i : Instr) (s : State) (p : BitVec 3) (a b : RegNum) (w : Bool) (c : BitVec 3) (v : Nat → Nat → Int),
    Spec.compareForm i = some (p, a, b, w, c, v) → Spec.live s →
    let n := s.width w [a, b]
    let os := [srcAny a (n / 32), srcAny b (n / 32)]
    (c.toNat < 6 → s.ready os = .ok () →
      let x := fun k l => v n ((nthLanes (s.readAll os).1 k l).toNat % 2 ^ n)
      let u := (s.readAll os).2
      ∃ t, exec i s = .next t ∧ Spec.predicateWritten p.toNat (fun l => Spec.condition c.toNat (x 0 l) (x 1 l)) u t ∧
        (p = 7 → t = u.advance)) ∧
    (6 ≤ c.toNat → i.fieldReason = some 1 ∧ ∀ word, encode i = some word →
      instrOf word = .error (.trap 1 (BitVec.ofNat 64 (word.toNat + 2 ^ 32)) 0))

/-- R100: predicate logic writes its function of two predicates in the active lanes, and nothing for predicate 7; a
reserved bit of its word is reason 2. -/
def Obligations.PredicateLogicWritesItsFunction : Prop :=
  (∀ (i : Instr) (s : State) (d a b : BitVec 3) (f : Bool → Bool → Bool),
    Spec.predicateLogic i = some (d, a, b, f) → Spec.live s →
    ∃ t, exec i s = .next t ∧
      Spec.predicateWritten d.toNat (fun l => f ((s.pred a.toNat).getLsbD l) ((s.pred b.toNat).getLsbD l)) s t ∧
      (d = 7 → t = s.advance)) ∧
  (∀ w : Word, w.toNat / 2 ^ 25 = 0x3E → w.toNat % 16 ≤ 3 →
    (w &&& 0x01E3C780 ≠ 0 ∨ (w.toNat % 16 = 3 ∧ w &&& 0x70 ≠ 0)) → decode w = .error (.illegal 2))

/-- The forms that read registers and write one register change nothing else but flags, register states and the issuing
context's progress: no other register, no memory, no special register, no other context.

The compares and predicate forms change nothing but a predicate, flags, register states and the issuing context's
progress. -/
def Obligations.RegisterAndPredicateFormsFrame : Prop :=
  (∀ (i : Instr) (s : State) (os : List Opd) (o : Opd), Spec.registerForm s i = some (os, o) →
    Spec.noPort s os → s.ready os = .ok () → ∃ t, exec i s = .next t ∧ Spec.registerFrame o s t) ∧
  (∀ (i : Instr) (s : State) (p : BitVec 3) (a b : RegNum) (w : Bool) (c : BitVec 3) (v : Nat → Nat → Int),
    Spec.compareForm i = some (p, a, b, w, c, v) →
    let os := [srcAny a (s.width w [a, b] / 32), srcAny b (s.width w [a, b] / 32)]
    Spec.noPort s os → s.ready os = .ok () → ∃ t, exec i s = .next t ∧ Spec.predicateFrame s t) ∧
  (∀ (s : State) (p : BitVec 3) (a b : RegNum) (c : BitVec 3),
    let os := [srcAny a 1, srcAny b 1]
    Spec.noPort s os → s.ready os = .ok () → ∃ t, exec (.fcmp p a b c) s = .next t ∧ Spec.predicateFrame s t) ∧
  (∀ (i : Instr) (s : State) (d a b : BitVec 3) (f : Bool → Bool → Bool),
    Spec.predicateLogic i = some (d, a, b, f) → ∃ t, exec i s = .next t ∧ Spec.predicateFrame s t)

/-- R87: an integer instruction whose operands are ready completes on every data value, and sets no flag of `STAT` but DZ,
which a division sets when a lane that computes divides by zero. A host core has no `STAT` (log 28). -/
def Obligations.IntegerFormsSetNoFlagButDZ : Prop :=
  ∀ (i : Instr) (s : State) (os : List Opd), Spec.integerOperands s i = some os → Spec.live s → s.kind ≠ .host →
    s.ready os = .ok () →
    ∃ t, exec i s = .next t ∧ (t.ctxRegs s.cur).trap = (s.ctxRegs s.cur).trap ∧
      (Spec.dividesByZero s i → (t.ctxRegs s.cur).stat = (s.ctxRegs s.cur).stat ||| flagDZ) ∧
      (¬ Spec.dividesByZero s i → (t.ctxRegs s.cur).stat = (s.ctxRegs s.cur).stat)

/-! ### Floating-point forms -/

/-- R53 to R56, R59 to R61, R121 to R132: a floating-point form whose operands are ready completes, on every value of them,
with its exact result rounded once in every lane it writes, and the flags of the computations made accumulate. Where the table
of R61 gives no result, a transcendental form delivers the rounding of what the model evaluates, which is the model's choice
(logs 10 and 11).

R127: `fcmp` completes with its condition in the predicate, unordered operands as R127 says, and its flags. -/
def Obligations.FloatingResults : Prop :=
  (∀ (i : Instr) (s : State) (os : List Opd) (o : Opd) (f : (Nat → Nat) → Nat × Word → Prop),
    Spec.floatingForm i = some (os, o) → Spec.floatForm i = some f → i.fieldReason = none → s.ready os = .ok () →
    let t := (s.readAll os).2
    ∃ r : Nat → Nat × Word,
      exec i s = .next (((t.raiseFlags (orFlags (t.computing o.reg) fun l => (r l).2)).writeOpd o fun l =>
        BitVec.ofNat 128 (r l).1).advance) ∧
      ∀ l, f (fun k => (nthLanes (s.readAll os).1 k l).toNat) (r l)) ∧
  (∀ (s : State) (p : BitVec 3) (a b : RegNum) (c : BitVec 3),
    let os := [srcAny a 1, srcAny b 1]
    Spec.live s → s.ready os = .ok () →
    let u := (s.readAll os).2
    ∃ (t : State) (r : Nat → Bool × Word), exec (.fcmp p a b c) s = .next t ∧
      (∀ l, Spec.compared c.toNat (nthLanes (s.readAll os).1 0 l).toNat (nthLanes (s.readAll os).1 1 l).toNat (r l)) ∧
      Spec.predicateWritten p.toNat (fun l => (r l).1) u t ∧
      (p = 7 → t = (u.raiseFlags (orFlags u.lanes fun l => (r l).2)).advance))

/-- R58: each element of a packed operand is computed and rounded on its own, and the flags of both are combined. -/
def Obligations.PackedElementsAreIndependent : Prop :=
  ∀ (i : Instr) (s : State) (os : List Opd) (o : Opd) (k : Bool) (f : Fmt → Nat → Nat → Nat → Nat × Word),
    Spec.registerForm s i = some (os, o) → Spec.packedForm i = some (k, f) → s.ready os = .ok () →
    let t := (s.readAll os).2
    let v := fun n l => (nthLanes (s.readAll os).1 n l).toNat % 2 ^ 32
    let lo := fun l => f (packFmt k) (v 0 l % 2 ^ 16) (v 1 l % 2 ^ 16) (v 2 l % 2 ^ 16)
    let hi := fun l => f (packFmt k) (v 0 l / 2 ^ 16) (v 1 l / 2 ^ 16) (v 2 l / 2 ^ 16)
    exec i s = .next (((t.raiseFlags (orFlags (t.computing o.reg) fun l => (lo l).2 ||| (hi l).2)).writeOpd o fun l =>
      BitVec.ofNat 128 ((lo l).1 + 2 ^ 16 * (hi l).1)).advance)

/-- R45, R53, R54: a code that is no NaN and no infinity is a value that rounds to itself in every mode, with no flag. -/
def Obligations.RoundingAnExactValueGivesItsCode : Prop :=
  ∀ (f : Fmt) (mode : BitVec 2) (sat : Bool) (bits : Nat),
    f ∈ [fp32, bf16, fp16, e5m2, e4m3, e2m1] → bits < 2 ^ (f.signBit + 1) → bits % 2 ^ f.signBit ≤ f.maxCode →
    f.round mode sat (f.value bits) = (bits, 0)

/-! ### Lane instructions -/

/-- R115, R116, R120: `vote`, `shfl` and `lmask` complete in a group with the result of their rule in each lane.

R117, R118: `red` combines the contributing lanes in the tree of R117, and `scan` in ascending position. -/
def Obligations.LaneInstructionResults : Prop :=
  (∀ (s : State) (d : RegNum) (p : BitVec 3) (k : BitVec 4),
    let o : Opd := { reg := d, role := .dst, words := 1, set := .vu }
    s.kind = .group → k.toNat ≤ 4 → s.ready [o] = .ok () →
    exec (.vote d p k) s = .next ((s.writeOpd o fun l => BitVec.ofNat 128
      (Spec.voteResult k.toNat (Spec.contributors s d l) (fun i => (s.pred p.toNat).getLsbD i) (Spec.position s d))).advance)) ∧
  (∀ (s : State) (d a b : RegNum) (k : BitVec 4),
    let os : List Opd := [srcAny a 1, srcAny b 1, { reg := d, role := .both, words := 1, set := .v }]
    s.kind = .group → k.toNat ≤ 4 → s.ready os = .ok () →
    let v := fun i l => (nthLanes (s.readAll os).1 i l)
    let u := (s.readAll os).2
    let n := 2 ^ s.myGroup.part.toNat
    exec (.shfl d a b k) s = .next ((u.writeOpd (dstAny d 1) fun l =>
      match Spec.sourcePosition k.toNat (l % n) ((v 1 l).toNat % 2 ^ 32) n with
      | none => v 2 l
      | some p => if (s.ctxMask s.cur).getLsbD (l - l % n + p) then v 0 (l - l % n + p) else v 2 l).advance)) ∧
  (∀ (s : State) (d : RegNum),
    let o : Opd := { reg := d, role := .dst, words := 1, set := .vu }
    s.kind = .group → s.ready [o] = .ok () →
    exec (.lmask d) s = .next ((s.writeOpd o fun _ => (s.ctxMask s.cur).setWidth 128).advance)) ∧
  (∀ (s : State) (d a : RegNum) (o : BitVec 3),
    let dst := dstAny d 1
    let os := [srcAny a 1, dst]
    s.kind = .group → s.ready os = .ok () →
    let v := fun l => (nthLanes (s.readAll os).1 0 l).toNat % 2 ^ 32
    let u := (s.readAll os).2
    let at_ := fun l j => ((Spec.contributors s d l).find? fun i => decide (Spec.position s d i = j)).map fun i => (v i, (0 : Word))
    let r := fun l => (Spec.treeAt o.toNat (at_ l) 5 0).getD (0, 0)
    exec (.red d a o) s = .next (((u.raiseFlags (orFlags (u.computing d) fun l => (r l).2)).writeOpd dst fun l =>
      BitVec.ofNat 128 (r l).1).advance)) ∧
  (∀ (s : State) (d a : RegNum) (ex : Bool) (o : BitVec 3),
    let dst : Opd := { reg := d, role := .dst, words := 1, set := .laneDst }
    let os := [srcAny a 1, dst]
    s.kind = .group → s.ready os = .ok () →
    let v := fun l => (nthLanes (s.readAll os).1 0 l).toNat % 2 ^ 32
    let u := (s.readAll os).2
    let r := fun l =>
      match (Spec.contributors s d l).filter (fun i => decide (i < l) || (decide (i = l) && !ex)) with
      | [] => (Spec.identity o.toNat, 0)
      | i :: is => Spec.inOrder o.toNat (v i, 0) (is.map v)
    exec (.scan d a ex o) s = .next (((u.raiseFlags (orFlags u.lanes fun l => (r l).2)).writeOpd dst fun l =>
      BitVec.ofNat 128 (r l).1).advance))

/-- R119: `part` sets the partition code of the whole group and changes nothing else; codes 0, 6 and 7 are reason 2.

R113: `winb` sets the window base of the issuing split, or a base beyond the allocation is cause 3 with the physical
register that `v0` would name. -/
def Obligations.PartitionAndWindowAreSet : Prop :=
  (∀ (s : State) (n : BitVec 3),
    (∀ tm g p, s.cur = .group tm g p → Spec.live s →
      ∃ t, exec (.part n) s = .next t ∧ (t.group tm g).part = n ∧
        Spec.progressFrame (s.modGroup tm g fun x => { x with part := n }) t) ∧
    ((n = 0 ∨ n = 6 ∨ n = 7) → ∀ w, encode (.part n) = some w →
      instrOf w = .error (.trap 1 (BitVec.ofNat 64 (w.toNat + 2 ^ 33)) 0))) ∧
  (∀ (s : State) (w : BitVec 5) (tm g p : Nat), s.cur = .group tm g p → Spec.live s →
    (32 * w.toNat < s.regsA → ∃ t, exec (.winb w) s = .next t ∧ t.wb = 32 * w.toNat ∧
      Spec.progressFrame (s.modSplit tm g p fun e => { e with wbi := w }) t) ∧
    (s.regsA ≤ 32 * w.toNat → exec (.winb w) s = .next (s.raise 3 (BitVec.ofNat 64 (32 * w.toNat)) 0)))

/-! ### Control flow -/

/-- R101, R111: `br` moves the issuing context to its target, and so does `bp` when all active lanes take it; when none
does it goes on; when some do, the split divides and the taken lanes keep the entry, or with no room cause 11 is raised.

R30, R103: the first part keeps its entry, the others take the free entries in rising order, and those left over are
pushed so that the first of them pops first; with too little room on the deferred stack nothing moves. R30 says only that a free
entry is taken: that they are taken in rising order is the model's choice (log 97). -/
def Obligations.BranchesMoveOrDivide : Prop :=
  (∀ (s : State) (o : BitVec 21), Spec.live s →
    ∃ t, exec (.br o) s = .next t ∧ Spec.branched (BitVec.ofInt 57 ((s.ctxPc s.cur).toNat + 4 * o.toInt)) s t) ∧
  (∀ (s : State) (neg : Bool) (n : BitVec 3) (o : BitVec 21), Spec.live s →
    let m := s.ctxMask s.cur
    let taken := m &&& (if neg then ~~~(s.pred n.toNat) else s.pred n.toNat)
    let target := BitVec.ofInt 57 ((s.ctxPc s.cur).toNat + 4 * o.toInt)
    (taken = m → ∃ t, exec (.bp neg n o) s = .next t ∧ Spec.branched target s t) ∧
    (taken = 0 → m ≠ 0 → exec (.bp neg n o) s = .next s.advance) ∧
    (taken ≠ 0 → taken ≠ m → ∀ tm g p, s.cur = .group tm g p →
      let e := s.split tm g p
      let ls := (Spec.loopsKept e.pc target e.loops.reverse).reverse
      match (s.group tm g).diverge p
          [{ e with mask := taken, pc := target, loops := ls, wait := .none },
           Split.next { e with mask := m &&& ~~~taken, wait := .none }] with
      | some gr => exec (.bp neg n o) s = .next (s.modGroup tm g fun _ => gr)
      | none => exec (.bp neg n o) s = .next (s.raise 11 0 0))) ∧
  (∀ (g : Group) (i : Nat) (p : Split) (ps : List Split), i < g.splits.length → p.valid = true →
    let free := Spec.freeBelow g.splits i g.splits.length
    let left := ps.length - free
    (16 < g.deferred.length + left → g.diverge i (p :: ps) = none) ∧
    (g.deferred.length + left ≤ 16 → ∃ h, g.diverge i (p :: ps) = some h ∧
      h = { g with splits := h.splits, deferred := g.deferred ++ (ps.drop free).reverse } ∧
      h.splits.length = g.splits.length ∧
      ∀ j, j < g.splits.length → h.splits.getD j Split.none =
        if j = i then p
        else if (g.splits.getD j Split.none).valid then g.splits.getD j Split.none
        else ps.getD (Spec.freeBelow g.splits i j) (g.splits.getD j Split.none)))

/-- R102: `call` writes the return address to `v30` and `v31` of every active lane, or to `s31`, closes no loop and moves to
its target.

R103, R104: `jr` moves each lane to its own aligned target, dividing the split by target in order of the lowest lane; a
target that is not aligned is cause 4 at the branch. `ret` is `jr` through `v30` or `s31`. -/
def Obligations.CallsAndJumpsThroughRegisters : Prop :=
  (∀ (s : State) (o : BitVec 21),
    let link : Opd := { reg := s.linkReg, role := .dst, words := 2, set := .any }
    Spec.live s → s.ready [link] = .ok () →
    ∃ t, exec (.call o) s = .next t ∧ Spec.registerFrame link s t ∧
      t.ctxPc s.cur = BitVec.ofInt 57 ((s.ctxPc s.cur).toNat + 4 * o.toInt) ∧
      let back := (s.ctxPc s.cur + 4).toNat
      match s.cur with
      | .group tm g p =>
        (t.split tm g p).loops = (s.split tm g p).loops ∧
        ∀ l, l < 32 → (s.split tm g p).mask.getLsbD l = true →
          laneOf ((t.group tm g).row (s.wb + 30)) l = BitVec.ofNat 32 (back % 2 ^ 32) ∧
          laneOf ((t.group tm g).row (s.wb + 31)) l = BitVec.ofNat 32 (back / 2 ^ 32)
      | _ => t.getS s.cur 31 = BitVec.ofNat 64 back) ∧
  (∀ (s : State) (a : RegNum),
    let os : List Opd := [{ reg := a, role := .src, words := 2, set := .vu }]
    Spec.live s → s.ready os = .ok () →
    let u := (s.readAll os).2
    let f := fun l => (nthLanes (s.readAll os).1 0 l).toNat % 2 ^ 64
    let bad := fun l => f l % 4 ≠ 0 ∨ 2 ^ 57 ≤ f l
    let first := s.lanes.filter fun l => s.lanes.all fun k => decide (l ≤ k) || decide (f k ≠ f l)
    (∀ l ∈ s.lanes, bad l → (∀ k ∈ s.lanes, k < l → ¬ bad k) → exec (.jr a) s = .next (s.raise 4 (BitVec.ofNat 64 (f l)) 0)) ∧
    ((∀ l ∈ s.lanes, ¬ bad l) →
      (∀ l, first = [l] → ∃ t, exec (.jr a) s = .next t ∧ Spec.branched (BitVec.ofNat 57 (f l)) u t) ∧
      (1 < first.length → ∀ tm g p, s.cur = .group tm g p →
        let e := u.split tm g p
        let part := fun l => { e with
          mask := maskOf (s.lanes.filter fun k => decide (f k = f l))
          pc := BitVec.ofNat 57 (f l)
          loops := (Spec.loopsKept e.pc (BitVec.ofNat 57 (f l)) e.loops.reverse).reverse
          wait := Wait.none }
        match (u.group tm g).diverge p (first.map part) with
        | some gr => exec (.jr a) s = .next (u.modGroup tm g fun _ => gr)
        | none => exec (.jr a) s = .next (s.raise 11 0 0)))) ∧
  (∀ s : State, exec .ret s = exec (.jr (if s.kind = .group then 30 else 31)) s) ∧
  (∀ (s : State) (l : Nat),
    let os : List Opd := [{ reg := if s.kind = .group then 30 else 31, role := .src, words := 2, set := .vu }]
    Spec.live s → s.ready os = .ok () →
    let f := fun k => (nthLanes (s.readAll os).1 0 k).toNat % 2 ^ 64
    l ∈ s.lanes → (∀ k ∈ s.lanes, f k = f l) → f l % 4 = 0 → f l < 2 ^ 57 →
    ∃ t, exec .ret s = .next t ∧ Spec.branched (BitVec.ofNat 57 (f l)) (s.readAll os).2 t)

/-- R109: a loop opens with its count, or its body is skipped when the count is 0, or with three loops open it is an illegal
operand.

R110: the end test of the innermost open loop, and of those outside it when it closes. -/
def Obligations.LoopsOpenSkipAndReturn : Prop :=
  (∀ (s u : State) (i : Instr) (c : Word) (l : BitVec 8) (tm g p : Nat), s.cur = .group tm g p → Spec.live s →
    (i = .loopI (c.setWidth 10) l ∧ c.toNat < 1024 ∧ u = s) ∨
      (∃ a, i = .loop a l ∧
        let os : List Opd := [{ reg := a, role := .src, words := 2, set := .uz }]
        s.ready os = .ok () ∧ c = BitVec.ofNat 32 (nthLanes (s.readAll os).1 0 0).toNat ∧ u = (s.readAll os).2) →
    let e := s.split tm g p
    let last := BitVec.ofNat 57 (e.pc.toNat + 4 * (l.toNat + 1))
    (c ≠ 0 → e.loops.length ≠ 3 → ∃ t, exec i s = .next t ∧ Spec.progressFrame u t ∧ t.ctxPc s.cur = e.pc + 4 ∧
      (t.split tm g p).loops = e.loops ++ [{ count := c, start := e.pc + 4, last := last }]) ∧
    (c = 0 → ∃ t, exec i s = .next t ∧ Spec.progressFrame u t ∧
      (t.ctxPc s.cur, (t.split tm g p).loops.reverse) = endTest last e.loops.reverse) ∧
    (c ≠ 0 → e.loops.length = 3 → exec i s = .next (s.raise 2 0 0))) ∧
  (∀ pc, endTest pc [] = (pc + 4, [])) ∧
  (∀ pc (l : Loop) ls, l.last ≠ pc → endTest pc (l :: ls) = (pc + 4, l :: ls)) ∧
  (∀ pc (l : Loop) ls, l.last = pc → l.count ≠ 1 → endTest pc (l :: ls) = (l.start, { l with count := l.count - 1 } :: ls)) ∧
  (∀ pc (l : Loop) ls, l.last = pc → l.count = 1 → endTest pc (l :: ls) = endTest pc ls) ∧
  (∀ (s : State) tm g p, s.cur = .group tm g p → Spec.live s →
    (s.advance.ctxPc s.cur, (s.advance.split tm g p).loops.reverse)
      = endTest (s.ctxPc s.cur) (s.split tm g p).loops.reverse ∧ Spec.progressFrame s s.advance)

/-- R105: `exit` frees the issuing entry, into which the entry deferred last moves. In a sequencer whose accesses are
performed and whose tokens are complete, it ends the sequencer and releases every `join` of the team. That the entry which moves
in is not held is the model's choice (log 97). -/
def Obligations.ExitEndsTheContext : Prop :=
  (∀ (s : State) (tm g p : Nat), s.cur = .group tm g p → Spec.live s →
    ∃ t, exec .exit s = .next t ∧ Spec.onlyTeamsAndColumns s t ∧ t.cols = s.cols ∧
      (∀ u, u ≠ tm → t.team u = s.team u) ∧ (∀ h, h ≠ g → t.group tm h = s.group tm h) ∧
      (∀ q, q ≠ p → t.split tm g q = s.split tm g q) ∧
      (t.group tm g).deferred = (s.group tm g).deferred.dropLast ∧
      t.split tm g p = (match (s.group tm g).deferred.getLast? with
        | none => Split.none
        | some d => { d with valid := true, wait := .none, held := false, parkHeld := false }) ∧
      (t.group tm g).rows = (s.group tm g).rows ∧ (t.group tm g).k = (s.group tm g).k ∧
      (t.group tm g).preds = (s.group tm g).preds) ∧
  (∀ (s : State) (tm : Nat), s.cur = .seq tm → Spec.live s → (s.seqr tm).regs.outs = [] →
    (∀ n, n < 8 → (tabGet Token.zero n (s.seqr tm).regs.tok).count = 0) →
    ∃ t, exec .exit s = .next t ∧ t.team tm = { (s.team tm).releaseJoins with seq := none } ∧
      (∀ u, u ≠ tm → t.team u = s.team u) ∧ (t.core (s.team tm).core).seqOwner = none ∧
      t = { s with teams := t.teams, cores := t.cores })

/-! ### Forms a context or a level does not provide -/

/-- R14, R77: a form that the issuing context does not provide is cause 1 with reason 3 and its word; a host form above the
current level is cause 1 with reason 4. -/
def Obligations.FormsNotProvidedTrap : Prop :=
  (∀ (i : Instr) (s : State),
    (Spec.groupOnly i = true ∧ s.kind ≠ .group) ∨ (Spec.noHost i = true ∧ s.kind = .host) ∨ (i = .rdv ∧ s.kind ≠ .seq)
      ∨ ((Spec.hostLevel i).isSome ∧ s.kind ≠ .host) →
    ∃ w, encode i = some w ∧ exec i s = .next (s.raise 1 (BitVec.ofNat 64 (w.toNat + 3 * 2 ^ 32)) 0)) ∧
  (∀ (i : Instr) (s : State) (n : Nat), Spec.hostLevel i = some n ∨ (i = .eret ∧ n = 1) → s.kind = .host →
    s.ctxLevel s.cur < n →
    ∃ w, encode i = some w ∧ exec i s = .next (s.raise 1 (BitVec.ofNat 64 (w.toNat + 4 * 2 ^ 32)) 0))

/-! ### Memory forms -/

/-- R141: the lanes' addresses are checked in order, address bits first, then alignment, then translation, then permission;
an access that passes has every lane translated and permitted, and changes nothing but cached translations and the homes of
the regions that its walks read. -/
def Obligations.AddressChecksInOrder : Prop :=
  ∀ (s : State) (t : AccType) (n : Nat) (eas : List (Nat × Nat)), 0 < n →
    (∀ pre x post, eas = pre ++ x :: post → 2 ^ 57 ≤ x.2 → (∀ y ∈ pre, y.2 < 2 ^ 57) →
      s.globalLanes t n eas = .error (.trap 6 (BitVec.ofNat 64 (2 ^ 60 + x.2 % 2 ^ 57)) 0)) ∧
    (∀ pre x post, eas = pre ++ x :: post → (∀ y ∈ eas, y.2 < 2 ^ 57) → x.2 % n ≠ 0 → (∀ y ∈ pre, y.2 % n = 0) →
      s.globalLanes t n eas = .error (.trap 4 (BitVec.ofNat 64 x.2) 0)) ∧
    (∀ ls u, s.globalLanes t n eas = .ok (ls, u) →
      Spec.onlyTlb s u ∧ (ls.map fun e => (e.1, e.2.1)) = eas ∧ (∀ y ∈ eas, y.2 < 2 ^ 57 ∧ y.2 % n = 0) ∧
      ∀ e ∈ ls, (∃ v w, Spec.onlyTlb s v ∧ v.translate (s.requester s.cur) t e.2.1 = .ok (e.2.2, w)) ∧
        s.permit (s.requester s.cur) t e.2.2 = .ok ())

/-- R139, R144, R145, R148, R150: a load or store of global space by a group or sequencer, whose operands are ready and
whose lanes pass R141, becomes an outstanding access with each lane at base plus offset, its order and its data; nothing
is performed, no register changes, and no memory byte but a region's home that a walk's read sets. -/
def Obligations.GlobalLoadsAndStoresIssue : Prop :=
  (∀ (i : Instr) (s : State) (d a : RegNum) (z : BitVec 3) (o : BitVec 8) (od : Spec.Order),
    Spec.globalLoad i = some (d, a, z, o, od) → s.kind ≠ .host →
    let n := Spec.bytes z
    let dst := dataDst d (if n ≤ 4 then 1 else n / 4)
    let os := [globalAddr a, dst]
    s.ready os = .ok () → Spec.mayAccess true (s.readAll os).2 →
    let u := (s.readAll os).2
    ∀ ls v, u.globalLanes .read n ((u.computing d).map fun l =>
        (l, Spec.address ((nthLanes (s.readAll os).1 0 l).toNat % 2 ^ 64) o n)) = .ok (ls, v) →
      ∃ x t, exec i s = .next t ∧ Spec.issued x u t ∧ x.kind = .load ∧ x.size = n ∧ x.peer = false ∧ od.carried x ∧
        x.signed = (decide (z = 1) || decide (z = 3)) ∧ x.dst = u.destOf dst ∧ Spec.lanesAt x ls) ∧
  (∀ (i : Instr) (s : State) (d a : RegNum) (z : BitVec 3) (o : BitVec 8) (od : Spec.Order),
    Spec.globalStore i = some (d, a, z, o, od) → s.kind ≠ .host →
    let n := Spec.bytes z
    let os := [globalAddr a, dataSrc d (if n ≤ 4 then 1 else n / 4)]
    s.ready os = .ok () → Spec.mayAccess false (s.readAll os).2 →
    let u := (s.readAll os).2
    ∀ ls v, u.globalLanes .write n (u.lanes.map fun l =>
        (l, Spec.address ((nthLanes (s.readAll os).1 0 l).toNat % 2 ^ 64) o n)) = .ok (ls, v) →
      ∃ x t, exec i s = .next t ∧ Spec.issued x u t ∧ x.kind = .store ∧ x.size = n ∧ x.peer = false ∧ od.carried x ∧
        x.dst = .none ∧ Spec.lanesAt x ls ∧ ∀ y ∈ x.lanes, y.data = nthLanes (s.readAll os).1 1 y.lane)

/-- R144, R146, R148, R155: a host core's loads, stores and atomics of global space complete at once. A load writes its register
from the bytes at its address, a store writes its bytes there and no other, an atomic writes its new value, if it has one, and
its register takes the old one; all go on to the next instruction. Beside, lines move between the caches. -/
def Obligations.HostAccessesCompleteAtOnce : Prop :=
  (∀ (i : Instr) (s : State) (c : Nat) (d a : RegNum) (z : BitVec 3) (o : BitVec 8) (od : Spec.Order),
    Spec.globalLoad i = some (d, a, z, o, od) → od.ro = false → s.cur = .host c →
    let n := Spec.bytes z
    let dst := dataDst d (if n ≤ 4 then 1 else n / 4)
    let os := [globalAddr a, dst]
    s.ready os = .ok () → Spec.mayAccess true (s.readAll os).2 →
    let u := (s.readAll os).2
    let va := Spec.address ((nthLanes (s.readAll os).1 0 0).toNat % 2 ^ 64) o n
    ∀ p v, u.globalLanes .read n [(0, va)] = .ok ([(0, va, p)], v) → v.poisonIn p.pa n = none →
      ∃ w, Spec.onlyLines (towerOfCol c) v w ∧
        let x := ofBytes (w.physRead p.pa n)
        let y := if z = 1 ∨ z = 3 then Spec.wrap 64 (Spec.sgn (8 * n) x) else x
        exec i s = .next (w.deliver s.cur (u.destOf dst) 1 fun _ => y).advance) ∧
  (∀ (i : Instr) (s : State) (c : Nat) (d a : RegNum) (z : BitVec 3) (o : BitVec 8) (od : Spec.Order),
    Spec.globalStore i = some (d, a, z, o, od) → s.cur = .host c →
    let n := Spec.bytes z
    let os := [globalAddr a, dataSrc d (if n ≤ 4 then 1 else n / 4)]
    s.ready os = .ok () → Spec.mayAccess false (s.readAll os).2 →
    let u := (s.readAll os).2
    let va := Spec.address ((nthLanes (s.readAll os).1 0 0).toNat % 2 ^ 64) o n
    ∀ p v, u.globalLanes .write n [(0, va)] = .ok ([(0, va, p)], v) →
      ∃ w t, Spec.onlyLines (towerOfCol c) v w ∧ exec i s = .next t ∧ Spec.bytesKept p.pa n w t ∧
        (Memory.wf s.mem = true → Spec.stores v p.pa → ∀ i, i < n → Spec.stores v (p.pa + i) →
          (t.physByte (p.pa + i)).toNat = (nthLanes (s.readAll os).1 1 0).toNat / 256 ^ i % 256) ∧
        t.host c = { w.host c with pc := (w.host c).pc + 4, wait := .none } ∧
        t = { w with mem := t.mem, counts := t.counts, cols := t.cols }) ∧
  (∀ (i : Instr) (s : State) (c : Nat) (d a b : RegNum) (n : Nat) (op : BitVec 4),
    Spec.atomicForm i = some (d, a, b, n, op, false) → s.cur = .host c → op.toNat ≤ 10 → (op = 10 → n = 4) →
    let os := Spec.atomicOpds d a b n op false
    s.ready os = .ok () → Spec.mayAccess true (s.readAll os).2 →
    let u := (s.readAll os).2
    let x := fun k => (nthLanes (s.readAll os).1 k 0).toNat
    ∀ p v, u.globalLanes .atomic n [(0, x 0 % 2 ^ 64)] = .ok ([(0, x 0 % 2 ^ 64, p)], v) → v.poisonIn p.pa n = none →
      ∃ w r, Spec.onlyLines (towerOfCol c) v w ∧
        (let old := ofBytes (w.physRead p.pa n)
         exec i s = .next (r.deliver s.cur (u.destOf (dstAny d (n / 4))) 1 fun _ => old).advance ∧
         match Spec.atomicResult (8 * n) op.toNat old (x 1 % 2 ^ (8 * n)) (x 2 % 2 ^ (8 * n)) with
         | none => r = w
         | some y => r = { w with mem := r.mem, counts := r.counts } ∧ Spec.bytesKept p.pa n w r ∧
           (Memory.wf s.mem = true → Spec.stores v p.pa → ∀ i, i < n → Spec.stores v (p.pa + i) →
             (r.physByte (p.pa + i)).toNat = y / 256 ^ i % 256)))

/-- R151 to R154: `ldv`, `stv` and `stv.g` name bytes of a team of the cluster and are outstanding with them; an address of
no such bytes is VBOUND. `ldt` names an element of a typed page; that its read permission is checked at the page of the element
alone is the model's choice (log 96). -/
def Obligations.VaultAndTypedFormsIssue : Prop :=
  (∀ (s : State) (d a : RegNum) (z : BitVec 3) (o : BitVec 8), s.kind ≠ .host →
    let n := Spec.bytes z
    let dst := dataDst d (if n ≤ 4 then 1 else n / 4)
    let os := [vaultAddr a, dst]
    s.ready os = .ok () → Spec.mayAccess true (s.readAll os).2 →
    let u := (s.readAll os).2
    let base := fun l => (nthLanes (s.readAll os).1 0 l).toNat
    Spec.vaultOk u n base o (u.computing d) →
    ∃ x t, exec (.ldv d a z o) s = .next t ∧ Spec.issued x u t ∧ x.kind = .load ∧ x.size = n ∧ x.dst = u.destOf dst ∧
      Spec.vaultLanesAt x u n base o (u.computing d) ∧ t.mem = s.mem) ∧
  (∀ (s : State) (d a : RegNum) (z : BitVec 3) (o : BitVec 8), s.kind ≠ .host →
    let n := Spec.bytes z
    let os := [vaultAddr a, dataSrc d (if n ≤ 4 then 1 else n / 4)]
    s.ready os = .ok () → Spec.mayAccess false (s.readAll os).2 →
    let u := (s.readAll os).2
    let base := fun l => (nthLanes (s.readAll os).1 0 l).toNat
    Spec.vaultOk u n base o u.lanes →
    ∃ x t, exec (.stv d a z o) s = .next t ∧ Spec.issued x u t ∧ x.kind = .store ∧ x.size = n ∧ x.dst = .none ∧
      Spec.vaultLanesAt x u n base o u.lanes ∧
      (∀ y ∈ x.lanes, y.data = nthLanes (s.readAll os).1 1 y.lane ∧ y.gauge = none) ∧ t.mem = s.mem) ∧
  (∀ (s : State) (d a b : RegNum) (z : BitVec 3), s.kind ≠ .host →
    let n := Spec.bytes z
    let os := [vaultAddr a, vaultAddr b, dataSrc d (if n ≤ 4 then 1 else n / 4)]
    s.ready os = .ok () → Spec.mayAccess false (s.readAll os).2 →
    let u := (s.readAll os).2
    let base := fun k l => (nthLanes (s.readAll os).1 k l).toNat
    Spec.vaultOk u n (base 0) 0 u.lanes → Spec.vaultOk u 16 (base 1) 0 u.lanes →
    ∃ x t, exec (.stvG d a b z) s = .next t ∧ Spec.issued x u t ∧ x.kind = .store ∧ x.size = n ∧ x.dst = .none ∧
      Spec.vaultLanesAt x u n (base 0) 0 u.lanes ∧
      (∀ y ∈ x.lanes, y.data = nthLanes (s.readAll os).1 2 y.lane ∧
        y.gauge = (Spec.vaultAt u 16 (base 1 y.lane % 2 ^ 32) 0).2) ∧ t.mem = s.mem) ∧
  (∀ (s : State) (d a b : RegNum) (wide : Bool), s.kind ≠ .host →
    let n := if wide then 8 else 4
    let dst := dataDst d (if wide then 2 else 1)
    let os := [globalAddr a, { reg := b, role := .src, words := 1, set := .data }, dst]
    s.ready os = .ok () → Spec.mayAccess true (s.readAll os).2 →
    let u := (s.readAll os).2
    let base := fun l => (nthLanes (s.readAll os).1 0 l).toNat % 2 ^ 64
    let ix := fun l => (nthLanes (s.readAll os).1 1 l).toNat % 2 ^ 32
    (∀ l ∈ u.computing d, base l < 2 ^ 57) →
    ∀ bx v, u.xlateLanes (u.requester u.cur) .read ((u.computing d).map fun l => (l, base l)) = .ok (bx, v) →
    (∀ e ∈ bx, leafFmt e.2.2.entry ≤ 10 ∧
      e.2.1 % max 1 (elemSize (leafFmt e.2.2.entry) n) = 0) →
    let at_ := fun (e : Nat × Nat × Xlat) =>
      let sz := elemSize (leafFmt e.2.2.entry) n
      if sz = 0 then e.2.1 + ix e.1 / 2 else e.2.1 + ix e.1 * sz
    (∀ e ∈ bx, at_ e < 2 ^ 57) →
    ∀ ex w, v.xlateLanes (u.requester u.cur) .read (bx.map fun e => (e.1, at_ e)) = .ok (ex, w) →
    w.permitLanes (u.requester u.cur) .read ex = .ok () →
    (∀ p ∈ bx.zip ex, formatBad p.2.2.2.entry p.2.2.2.pa = false ∧
      leafFmt p.1.2.2.entry = leafFmt p.2.2.2.entry ∧ leafGeom p.1.2.2.entry = leafGeom p.2.2.2.entry) →
    ∃ x t, exec (.ldt d a b wide) s = .next t ∧ Spec.issued x u t ∧ x.kind = .load ∧ x.size = n ∧ x.typed = true ∧
      x.dst = u.destOf dst ∧ Spec.lanesAt x ex)

/-- R155, R168: an atomic of a group or sequencer is outstanding with its operation, operand, destination and, for `cas`, the
value compared; the remote forms, with `ldp` and `stp`, send one request for each lane. That `z` may stand as the destination of a
group's atomic is the model's choice (log 117), and that a remote form waits for an earlier request of its lane by another stream
is read from R167 (log 61).

R155: one lane of an atomic that is performed answers the old value, and leaves the new one, if the operation writes one, in the
bytes at the lane's place, and no other byte changed. -/
def Obligations.AtomicsIssueAndCompute : Prop :=
  (∀ (i : Instr) (s : State) (d a b : RegNum) (n : Nat) (op : BitVec 4),
    Spec.atomicForm i = some (d, a, b, n, op, false) → s.kind ≠ .host →
    let os := Spec.atomicOpds d a b n op false
    s.ready os = .ok () → Spec.mayAccess true (s.readAll os).2 →
    let u := (s.readAll os).2
    ∀ ls v, u.globalLanes .atomic n (u.lanes.map fun l => (l, (nthLanes (s.readAll os).1 0 l).toNat % 2 ^ 64))
        = .ok (ls, v) →
      ∃ x t, exec i s = .next t ∧ Spec.issued x u t ∧ x.kind = .atomic ∧ x.size = n ∧ x.op = op ∧ x.peer = false ∧
        x.dst = u.destOf (dstAny d (n / 4)) ∧ Spec.lanesAt x ls ∧
        ∀ y ∈ x.lanes, y.data.toNat = (nthLanes (s.readAll os).1 1 y.lane).toNat % 2 ^ (8 * n) ∧
          y.cmp = (nthLanes (s.readAll os).1 2 y.lane).setWidth 64) ∧
  (∀ (i : Instr) (s : State) (d a b : RegNum) (n : Nat) (op : BitVec 4),
    Spec.atomicForm i = some (d, a, b, n, op, true) → Spec.live s →
    let os := Spec.atomicOpds d a b n op true
    s.ready os = .ok () → Spec.mayAccess true (s.readAll os).2 → Spec.mayWrite (s.readAll os).2 →
    let u := (s.readAll os).2
    let addr := fun l => (nthLanes (s.readAll os).1 0 l).toNat
    Spec.peersOk addr 0 n u.lanes → Spec.peersFree u addr 0 n u.lanes →
    ∃ x t, exec i s = .next t ∧ Spec.requested x u t addr 0 n u.lanes ∧ x.kind = .atomic ∧ x.op = op ∧
      x.dst = u.destOf (dstAny d (n / 4)) ∧
      ∀ y ∈ x.lanes, y.data.toNat = (nthLanes (s.readAll os).1 1 y.lane).toNat % 2 ^ (8 * n)) ∧
  (∀ (s : State) (d a : RegNum) (z : BitVec 3) (o : BitVec 8), Spec.live s →
    let n := Spec.bytes z
    let dst := dataDst d (if n ≤ 4 then 1 else n / 4)
    let os := [peerAddr a, dst]
    s.ready os = .ok () → Spec.mayAccess true (s.readAll os).2 →
    let u := (s.readAll os).2
    let addr := fun l => (nthLanes (s.readAll os).1 0 l).toNat
    Spec.peersOk addr o n (u.computing d) → Spec.peersFree u addr o n (u.computing d) →
    ∃ x t, exec (.ldp d a z o) s = .next t ∧ Spec.requested x u t addr o n (u.computing d) ∧ x.kind = .load ∧
      x.dst = u.destOf dst) ∧
  (∀ (s : State) (d a : RegNum) (z : BitVec 3) (o : BitVec 8), Spec.live s →
    let n := Spec.bytes z
    let os := [peerAddr a, dataSrc d (if n ≤ 4 then 1 else n / 4)]
    s.ready os = .ok () → Spec.mayAccess false (s.readAll os).2 → Spec.mayWrite (s.readAll os).2 →
    let u := (s.readAll os).2
    let addr := fun l => (nthLanes (s.readAll os).1 0 l).toNat
    Spec.peersOk addr o n u.lanes → Spec.peersFree u addr o n u.lanes →
    ∃ x t, exec (.stp d a z o) s = .next t ∧ Spec.requested x u t addr o n u.lanes ∧ x.kind = .store ∧
      ∀ y ∈ x.lanes, y.data = nthLanes (s.readAll os).1 1 y.lane) ∧
  (∀ (op : BitVec 4) (w old b d : Nat), op.toNat ≤ 10 → w = 32 ∨ w = 64 → (op = 10 → w = 32) →
    old < 2 ^ w → b < 2 ^ w → d < 2 ^ w →
    (let r := atomicValue w op.toNat old b d
     (if r.2 then some r.1 else none) = Spec.atomicResult w op.toNat old b d)) ∧
  (∀ (s : State) (n op : Nat) (a : LaneAcc), op ≤ 10 → n = 4 ∨ n = 8 → (op = 10 → n = 4) → a.data.toNat < 2 ^ (8 * n) →
    let pa := s.locPa a.loc
    let old := ofBytes (s.physRead pa n)
    let r := s.atomicLane n op a
    r.1 = old ∧
    match Spec.atomicResult (8 * n) op old a.data.toNat (a.cmp.toNat % 2 ^ (8 * n)) with
    | none => r.2 = s
    | some y => Spec.stored pa n y s r.2 ∧ r.2 = { s with mem := r.2.mem, counts := r.2.counts })

/-- R146, R149, R157, R158, R268: `pf` moves lines and changes no register and no byte, and a line that a lane of a scalar context
names comes into its L1, where there is room; `cctl.roinv` empties the read-only cache of the core, and the other operations are
outstanding, or performed at once in a host core, which leaves the line clean, out of its cache, or in no cache; a fence passes when
nothing it waits for is outstanding, and until then holds its split, which is the model's choice (log 56), and `fence.rel` marks the loads that come before later writes; `waitc` passes when both
counts are within its limits. -/
def Obligations.FencesPrefetchesAndWaitsOnCounts : Prop :=
  (∀ (s : State) (l : BitVec 2) (a : RegNum) (i : BitVec 11), s.ready [globalAddr a] = .ok () →
    let u := (s.readAll [globalAddr a]).2
    (∀ e ∈ (u.ctxRegs u.cur).outs, e.acq = true → e.mask &&& u.ctxMask u.cur = 0) → s.ctxCore s.cur < 1024 →
    ∃ v, Spec.onlyLines (towerOfCol (s.ctxCol s.cur)) { u with tlb := v.tlb } v ∧ exec (.pf l a i) s = .next v.advance ∧
      (l = 0 → s.kind ≠ .group →
        let va := Spec.wrap 64 (((nthLanes (s.readAll [globalAddr a]).1 0 0).toNat % 2 ^ 64 : Nat) + i.toInt)
        let agent := match s.cur with
          | .host c => 1024 + c
          | c => s.ctxCore c
        ∀ x w, va < 2 ^ 57 → u.access (u.requester u.cur) .read va = .ok (x, w) → w.cacheable x = true →
          (∀ h, agent ∉ (w.snoopOf h (x.pa / 128)).holders) → (w.l1Of agent).length < agentLines agent →
          tabFind (x.pa / 128) (v.l1Of agent) = some .s ∨ tabFind (x.pa / 128) (v.l1Of agent) = some .e)) ∧
  (∀ (s : State) (a : RegNum) (o : BitVec 4),
    (o = 3 → s.kind ≠ .host → (∀ e ∈ (s.ctxRegs s.cur).outs, e.acq = true → e.mask &&& s.ctxMask s.cur = 0) →
      exec (.cctl a o) s = .next (s.modCore (s.ctxCore s.cur) fun c => { c with roCache := [] }).advance) ∧
    (o ≠ 3 → s.ready [globalAddr a] = .ok () → Spec.mayAccess false (s.readAll [globalAddr a]).2 →
      let u := (s.readAll [globalAddr a]).2
      ∀ ls v, u.globalLanes .read 1 (u.lanes.map fun l =>
          (l, (nthLanes (s.readAll [globalAddr a]).1 0 l).toNat % 2 ^ 64)) = .ok (ls, v) →
        (s.kind ≠ .host → ∃ x t, exec (.cctl a o) s = .next t ∧ Spec.issued x u t ∧ x.kind = .maint ∧ x.op = o ∧
          Spec.lanesAt x ls) ∧
        (∀ c, s.cur = .host c → ∃ w, Spec.onlyLines (towerOfCol c) v w ∧ exec (.cctl a o) s = .next w.advance ∧
          ∀ e ∈ ls, Spec.maintained o.toNat (1024 + c) (e.2.2.pa / 128) w))) ∧
  (∀ (s : State) (o : BitVec 4) (ro : Bool) (c : BitVec 3), 1 ≤ o.toNat → o.toNat ≤ 4 →
    let waited := fun (a : Access) =>
      (a.kind = .load ∧ o ≠ 2) ∨ ((a.kind = .store ∨ a.kind = .maint) ∧ o ≠ 1) ∨ a.kind = .atomic
    let u := if o = 2 then s.modRegs s.cur fun r => { r with outs := r.outs.map fun a =>
        if a.kind = .load then { a with fenced := a.fenced ||| (a.mask &&& s.ctxMask s.cur) } else a } else s
    ((∀ a ∈ (s.ctxRegs s.cur).outs, ¬ waited a) →
      exec (.fence o ro c) s = .next (if ro = true then
        (match s.cur with
          | .host k => u.modHost k fun h => { h with icache := [] }
          | k => u.modCore (s.ctxCore k) fun x => { x with roCache := [] }).advance else u.advance)) ∧
    ((∃ a ∈ (s.ctxRegs s.cur).outs, waited a) → exec (.fence o ro c) s = .next (s.setWait s.cur .order))) ∧
  (∀ (s : State) (l n : BitVec 6), s.kind ≠ .host →
    ((s.ctxRegs s.cur).ldc ≤ l.toNat → (s.ctxRegs s.cur).stc ≤ n.toNat → exec (.waitc l n) s = .next s.advance) ∧
    ((l.toNat < (s.ctxRegs s.cur).ldc ∨ n.toNat < (s.ctxRegs s.cur).stc) →
      exec (.waitc l n) s = .next (s.setWait s.cur (.counts l n))))

/-! ### Traps -/

/-- R106: `brk` and `trap` raise causes 13 and 14 with their code; in a group or sequencer that is not in a trap and has a
vector, a recoverable cause is taken as R237 says, and in a host core every cause as R239 says.

R239: `eret` of a group or sequencer in a trap resumes at `RESPC` with VALID 0 and the held splits released; outside a
trap it is an illegal operand, and under another mask cause 16. In a host core it restores the address, level and interrupt
enable that entry saved. -/
def Obligations.TrapsAreTakenAndLeft : Prop :=
  (∀ (i : Instr) (s : State) (n : Nat) (c : BitVec 21), Spec.trapForm i = some (n, c) →
    exec i s = .next (s.raise n (c.setWidth 64) 0)) ∧
  (∀ (s : State) (cause : Nat) (info : DWord) (lane : Nat), 1 ≤ cause → cause ≤ 16 → Spec.fatalCause cause = false →
    s.kind ≠ .host → Spec.live s → (s.ctxRegs s.cur).trap.tcause.getLsbD 31 = false →
    lrTvec (s.team (ctxTeam s.cur)).launch ≠ 0 → Spec.inVector cause info s (s.raise cause info lane)) ∧
  (∀ (s : State) (cause : Nat) (info : DWord) (lane c : Nat), cause < 32 → s.cur = .host c →
    s.raise cause info lane = s.modHost c (Spec.hostEntered cause info)) ∧
  (∀ (s : State) (tm g p : Nat), s.cur = .group tm g p → Spec.live s →
    let tr := (s.group tm g).regs.trap
    (tr.tcause.getLsbD 31 = true → (s.split tm g p).mask = tr.emask →
      exec .eret s = .next (s.modGroup tm g fun x => { x with
        regs := { x.regs with trap := { tr with tcause := tr.tcause &&& 0x7FFFFFFF } },
        splits := x.splits.mapIdx fun i y =>
          if i = p then { y with pc := tr.respc.setWidth 57, wait := .none, held := false }
          else { y with held := false } })) ∧
    (tr.tcause.getLsbD 31 = false → exec .eret s = .next (s.raise 2 0 0)) ∧
    (tr.tcause.getLsbD 31 = true → (s.split tm g p).mask ≠ tr.emask →
      exec .eret s = .next (s.raise 16 (BitVec.ofNat 64 (256 * (tr.tcause.toNat % 256))) 0))) ∧
  (∀ (s : State) (tm : Nat), s.cur = .seq tm → Spec.live s →
    let tr := (s.seqr tm).regs.trap
    (tr.tcause.getLsbD 31 = true →
      exec .eret s = .next (s.modSeq tm fun q => { q with
        regs := { q.regs with trap := { tr with tcause := tr.tcause &&& 0x7FFFFFFF } },
        pc := tr.respc.setWidth 57, wait := .none })) ∧
    (tr.tcause.getLsbD 31 = false → exec .eret s = .next (s.raise 2 0 0))) ∧
  (∀ (s : State) (c : Nat), s.cur = .host c →
    let h := s.host c
    1 ≤ h.pl.toNat →
    let tr := if h.pl = 3 then h.mtrap else h.strap
    let skips := tr.cause.getLsbD 63 = false ∧ tr.cause.toNat % 256 ∈ [1, 2, 3, 4, 6, 8, 13, 14]
    exec .eret s = .next (s.modHost c fun h => { h with
      pc := (if skips then tr.epc + 4 else tr.epc).setWidth 57, pl := h.ppl, ie := h.pie, wait := .none }))

/-- R238: a fatal cause, a cause in a trap (which is 16) or a cause with no vector marks the context's trap registers and
halts every team of its cluster; without a save record the teams leave the directory. -/
def Obligations.FatalCausesHaltTheCluster : Prop :=
  ∀ (s : State) (cause : Nat) (info : DWord) (lane : Nat), 1 ≤ cause → cause ≤ 16 → lane < 32 → s.kind ≠ .host →
    Spec.live s →
    let k := ctxTeam s.cur
    let cl := (s.team k).cluster
    let tr := (s.ctxRegs s.cur).trap
    let inTrap := tr.tcause.getLsbD 31
    (Spec.fatalCause cause = true ∨ inTrap = true ∨ lrTvec (s.team k).launch = 0) →
    (∀ u ∈ s.clusterTeams cl, (s.team u).state = .resident) →
    k ∈ s.clusterTeams cl →
    let t := s.raise cause info lane
    ((s.team k).recPa ≠ 0 →
      (∀ u ∈ s.clusterTeams cl, (t.team u).halted = true) ∧ (∀ u, u ∉ s.clusterTeams cl → t.team u = s.team u) ∧
      t.mem = s.mem ∧
      (Spec.fatalCause cause = true →
        (t.ctxRegs s.cur).trap.tcause = BitVec.ofNat 32 (2 ^ 31 + 2 ^ 30 + 2 ^ 16 * lane + cause) ∧
        (t.ctxRegs s.cur).trap.tinfo = info ∧ (t.ctxRegs s.cur).trap.respc = 0) ∧
      (Spec.fatalCause cause = false → inTrap = true →
        (t.ctxRegs s.cur).trap.tcause = BitVec.ofNat 32 (2 ^ 31 + 2 ^ 30 + 16) ∧
        (t.ctxRegs s.cur).trap.tinfo = BitVec.ofNat 64 (cause + 256 * (tr.tcause.toNat % 256))) ∧
      (Spec.fatalCause cause = false → inTrap = false →
        (t.ctxRegs s.cur).trap.tcause = BitVec.ofNat 32 (2 ^ 31 + 2 ^ 30 + cause) ∧
        (t.ctxRegs s.cur).trap.tinfo = info)) ∧
    ((s.team k).recPa = 0 → ∀ u ∈ s.clusterTeams cl, tabFind u t.teams = none)

/-! ### Registers reached by number -/

/-- R231: `movs` reads the special register of its selector, and writes `AWB`, `AWL` and the bits of `STAT` that 1 clears; a
selector that the context lacks, a write of a read-only one, and `.d` on what is no `v` register are illegal operands.

R232, R234, R235: `sysr` reads and `sysw` writes a system register at or below the level of the host core; what is
written to a register that only holds its bits is read back, and nothing else but the pc and wait of that core changes. -/
def Obligations.NumberedRegistersAreReadAndWritten : Prop :=
  (∀ (s : State) (d : RegNum) (x : Bool) (n : BitVec 7), s.kind ≠ .host → n.toNat ∈ Spec.selectors →
    (s.kind = .seq → n.toNat ∉ Spec.groupSelectors) → (x = true → Spec.isV s d) →
    let o := Spec.movsOpd s d x .dst
    let i := Spec.movsOpd s d x .src
    (s.ready [o] = .ok () →
      exec (.movs d x n) s = .next ((s.writeOpd o fun _ => BitVec.ofNat 128 (s.special n.toNat)).advance)) ∧
    (s.ready [i] = .ok () →
      let u := (s.readAll [i]).2
      let v := nthLanes (s.readAll [i]).1 0 u.low
      (n = 0x22 → exec (.movsWrite d x n) s = .next ((u.modMyGroup fun g => { g with awb := v.setWidth 12 }).advance)) ∧
      (n = 0x23 → exec (.movsWrite d x n) s = .next ((u.modMyGroup fun g => { g with awl := v.setWidth 12 }).advance)) ∧
      (n = 0x26 → exec (.movsWrite d x n) s = .next ((u.modRegs s.cur fun r =>
        let kept := r.stat &&& ~~~(v.setWidth 32 &&& 0xE01F)
        { r with stat := if v.getLsbD 24 then kept &&& 0x00FFFFFF else kept }).advance))) ∧
    (n ≠ 0x22 → n ≠ 0x23 → n ≠ 0x26 → exec (.movsWrite d x n) s = .next (s.raise 2 0 0))) ∧
  (∀ (s : State) (d : RegNum) (x : Bool) (n : BitVec 7),
    (s.kind = .seq ∧ n.toNat ∈ Spec.groupSelectors) ∨ (s.kind ≠ .host ∧ x = true ∧ ¬ Spec.isV s d) →
    exec (.movs d x n) s = .next (s.raise 2 0 0) ∧ exec (.movsWrite d x n) s = .next (s.raise 2 0 0)) ∧
  (∀ (s : State) (tm g p : Nat), s.cur = .group tm g p →
    s.special 0x20 = (s.group tm g).part.toNat ∧ s.special 0x21 = 32 * (s.split tm g p).wbi.toNat ∧
    s.special 0x0C = g ∧ s.special 0x22 = (s.group tm g).awb.toNat ∧ s.special 0x23 = (s.group tm g).awl.toNat ∧
    s.special 0x24 = (s.group tm g).regs.ldc ∧ s.special 0x25 = (s.group tm g).regs.stc ∧
    s.special 0x26 = (s.group tm g).regs.stat.toNat ∧ s.special 0x27 = (s.group tm g).regs.trap.tcause.toNat ∧
    s.special 0x28 = (s.group tm g).regs.trap.tinfo.toNat ∧ s.special 0x29 = (s.group tm g).regs.trap.epc.toNat ∧
    s.special 0x2A = (s.group tm g).regs.trap.emask.toNat ∧ s.special 0x2C = (s.group tm g).regs.trap.respc.toNat ∧
    s.special 0x10 = (s.team tm).argp.toNat ∧ s.special 0x11 = 2 ^ 21 * (s.team tm).rank) ∧
  (∀ (s : State) (c : Nat) (d : RegNum) (n : BitVec 11), s.cur = .host c → s.ready [dstU d] = .ok () →
    (∃ l, numberLevel n.toNat = some l ∧ l ≤ (s.host c).pl.toNat) →
    exec (.sysr d n) s = .next (((s.latchEnergy c n.toNat).writeOpd (dstU d) fun _ =>
      (s.sysValue c n.toNat).setWidth 128).advance) ∧
    (n ≠ 0x208 → n ≠ 0x20A → s.latchEnergy c n.toNat = s)) ∧
  (∀ (s : State) (c : Nat) (d : RegNum) (n : BitVec 11) (m : DWord), s.cur = .host c → s.ready [srcU d] = .ok () →
    (n.toNat, m) ∈ Spec.heldBits → (∃ l, numberLevel n.toNat = some l ∧ l ≤ (s.host c).pl.toNat) →
    let v := (nthLanes (s.readAll [srcU d]).1 0 0).setWidth 64
    ∃ t, exec (.sysw d n) s = .next t ∧ t.sysValue c n.toNat = v &&& m ∧
      (∃ h, t = (s.readAll [srcU d]).2.modHost c fun _ => h) ∧
      (∀ k l, (k, l) ∈ Spec.heldBits → k ≠ n.toNat → t.sysValue c k = s.sysValue c k) ∧
      (t.host c).pl = (s.host c).pl ∧ (t.host c).ppl = (s.host c).ppl ∧ (t.host c).ie = (s.host c).ie ∧
      (t.host c).s = (s.host c).s ∧ (t.host c).k.vals = (s.host c).k.vals ∧ (t.host c).pc = (s.host c).pc + 4) ∧
  (∀ (s : State) (c : Nat) (d : RegNum), s.cur = .host c → s.ready [srcU d] = .ok () → 1 ≤ (s.host c).pl.toNat →
    let v := (nthLanes (s.readAll [srcU d]).1 0 0).setWidth 64
    let u := (s.readAll [srcU d]).2
    ∃ t, exec (.sysw d 0) s = .next t ∧
      t = u.modHost c fun h => { h with
        pc := h.pc + 4, wait := .none, ie := v.getLsbD 7, pie := v.getLsbD 6,
        ppl := if v.toNat / 4 % 4 = 2 ∨ (v.toNat / 4 % 4 = 3 ∧ h.pl.toNat < 3) then h.ppl else BitVec.ofNat 2 (v.toNat / 4) }) ∧
  (∀ (s : State) (tm : Nat) (d : RegNum) (n : BitVec 11), s.cur = .seq tm → n.toNat < 3 →
    (s.ready [dstU d] = .ok () → exec (.sysr d n) s =
      .next ((s.writeOpd (dstU d) fun _ => (s.seqValue tm n.toNat).setWidth 128).advance)) ∧
    (s.ready [srcU d] = .ok () → exec (.sysw d n) s = .next (s.readAll [srcU d]).2.advance))


/-! ### Messages and capabilities -/

/-- R166, R304, R308, R317: a message takes the next number of its stream, waits to be acknowledged, and counts once in INJ of
the sending tower when its class is counted; one to this node is then at its destination interface, another leaves by a
working plane of its tower, or by one of another tower where none of its own works, or by an Ethernet port toward another pod.

R171, R174, R176, R181: a put, a message and a remote arrival whose operands are ready attach to their token and send
one message with what they carry; one that fails its sender checks completes its token DENIED and sends nothing. -/
def Obligations.MessagesAreNumberedAndSent : Prop :=
  (∀ (s : State) (m : Msg) (c : Completion),
    let k := (m.stwr.toNat * 2 ^ 20 + m.dnode.toNat) * 8 + m.dtwr.toNat
    let n := tabGet 0 k s.streams
    let t := s.send m c
    let m' := { m with id := s.fresh, seqNo := n }
    (∃ p, t.sent = s.sent ++
        [{ msg := m', port := p, comp := c, first := s.now, resent := false, writeoffs := 0, lastWriteoff := 0 }] ∧
      (p = none ↔ m.dnode = s.node ∨ ∀ q, q < 36 → Spec.worksToward s m.dnode q = false) ∧
      (∀ q, p = some q → Spec.worksToward s m.dnode q = true) ∧
      (∀ q, p = some q → q / 4 ≠ m.stwr.toNat → q < 32 → ∀ r, r / 4 = m.stwr.toNat → Spec.worksToward s m.dnode r = false)) ∧
    tabGet 0 k t.streams = n + 1 ∧ (∀ j, j ≠ k → tabGet 0 j t.streams = tabGet 0 j s.streams) ∧
    t.inbound = (if m.dnode = s.node then s.inbound ++ [m'] else s.inbound) ∧
    (∀ w j, t.towerJob w j = if w = m.stwr.toNat ∧ j = m.job.toNat ∧ m.cls ≠ .ldp
      then { s.towerJob w j with inj := (s.towerJob w j).inj + 1 } else s.towerJob w j) ∧
    t.mem = s.mem ∧ t.teams = s.teams ∧ t.cols = s.cols ∧ t.cores = s.cores) ∧
  (∀ (i : Instr) (s : State) (n : BitVec 4) (tok : BitVec 3) (a b : RegNum) (g rel bc wide : Bool),
    Spec.putOf i = some (n, tok, a, b, g, rel, bc, wide) → s.kind ≠ .host →
    let os := [srcKp a, srcAny b (if wide then 2 else 1)]
    s.ready os = .ok () →
    let u := (s.readAll os).2
    (rel = true → (u.ctxRegs u.cur).outs = []) → Spec.mayWrite u → Spec.roomOn u tok.toNat →
    let c := nthLanes (s.readAll os).1 0 u.low
    let v := nthLanes (s.readAll os).1 1
    let ty := Spec.bits c 124 4
    let all := bc = true ∨ (s.kind = .seq ∧ g = false ∧ ty = 1)
    ∃ t, exec i s = .next t ∧ Spec.sentOrDenied
      (Spec.usable u c (if g then [4] else [1, 2]) ∧
        Spec.putAllowed c n.toNat g (bc || (decide (s.kind = .seq) && !g && decide (ty = 1))) wide)
      u tok.toNat
      (fun m => Spec.through c .rput u m ∧ m.reg = n ∧ m.wide = wide ∧ m.rel = rel ∧ m.toGauge = g ∧
        (all ∨ ty = 2 → m.mask = BitVec.allOnes 32) ∧ (¬ all → ty ≠ 2 → m.mask = u.ctxMask u.cur) ∧
        ∀ l, l < 32 → (m.lanes.getD l 0).toNat =
          (v (if all ∨ ty = 2 then u.low else l)).toNat % 2 ^ (if wide then 64 else 32))
      t) ∧
  (∀ (s : State) (d a b : RegNum) (tok : BitVec 3), s.kind = .group →
    let os : List Opd := [srcKp a, { reg := b, role := .src, words := 1, set := .v }, srcU d]
    s.ready os = .ok () →
    let u := (s.readAll os).2
    Spec.mayWrite u → Spec.roomOn u tok.toNat →
    let c := nthLanes (s.readAll os).1 0 u.low
    let h := (nthLanes (s.readAll os).1 2 u.low).toNat
    let len := h / 2 ^ 16 % 2 ^ 7
    ∃ t, exec (.msgs d a b tok) s = .next t ∧ Spec.sentOrDenied (Spec.usable u c [6] ∧ 1 ≤ len ∧ len ≤ 64) u tok.toNat
      (fun m => Spec.through c .msgs u m ∧ m.header.toNat = h % 2 ^ 23 ∧
        ∀ w, w < 16 → (m.lanes.getD w 0).toNat = (nthLanes (s.readAll os).1 1 w).toNat % 2 ^ (8 * min 4 (len - 4 * w)))
      t) ∧
  (∀ (s : State) (a : RegNum) (tok : BitVec 3), s.kind ≠ .host → s.ready [srcKp a] = .ok () →
    let u := (s.readAll [srcKp a]).2
    (u.ctxRegs u.cur).outs = [] → Spec.roomOn u tok.toNat →
    let c := nthLanes (s.readAll [srcKp a]).1 0 u.low
    ∃ t, exec (.barRarv a tok) s = .next t ∧
      Spec.sentOrDenied (Spec.usable u c [3]) u tok.toNat (fun m => Spec.through c .barRarv u m) t)

/-- R163: `capmk` writes the capability that R163 makes of `a`, with its tag under the job's key, or 0 where the condition
of its type fails; a host core mints type 5 alone. That bits [77:51] stay as `a` has them for the types 3 to 6 is the model's
choice (log 98). -/
def Obligations.CapabilitiesAreMinted : Prop :=
  (∀ (s : State) (d a : RegNum), (s.kind = .host → 1 ≤ s.ctxLevel s.cur) →
    let os := [srcKp a, dstKp d]
    s.ready os = .ok () →
    let u := (s.readAll os).2
    let x := nthLanes (s.readAll os).1 0 u.low
    let ok := if s.kind = .host then Spec.bits x 124 4 = 5 else Spec.mintable u x
    (ok → exec (.capmk d a) s = .next ((u.writeOpd (dstKp d) fun _ => u.mint x).advance)) ∧
    (¬ ok → exec (.capmk d a) s = .next ((u.writeOpd (dstKp d) fun _ => 0).advance))) ∧
  (∀ (s : State) (x : BitVec 128),
    let body := Spec.minted s x
    s.mint x = BitVec.ofNat 128 (body + capTag ((s.job (s.ctxJob s.cur)).key0.toNat + 2 ^ 64 * (s.job (s.ctxJob s.cur)).key1.toNat)
      (body / 2 ^ 32)))

/-- R164: `capck` writes 0 when the tag verifies under the issuing job's key, the job is the context's and the type is 1 to 6;
otherwise it writes 10. It changes nothing else and sends nothing, in every context; a nonzero `b` is reason 2. -/
def Obligations.CapabilitiesAreCheckedLocally : Prop :=
  (∀ (s : State) (d a : RegNum),
    let os := [srcKp a, dstU d]
    s.ready os = .ok () →
    let u := (s.readAll os).2
    let c := nthLanes (s.readAll os).1 0 u.low
    let j := s.job (s.ctxJob s.cur)
    let ok := c.toNat % 2 ^ 32 = capTag (j.key0.toNat + 2 ^ 64 * j.key1.toNat) (c.toNat / 2 ^ 32) ∧
      Spec.bits c 43 8 = s.ctxJob s.cur ∧ 1 ≤ Spec.bits c 124 4 ∧ Spec.bits c 124 4 ≤ 6
    ∃ t, exec (.capck d a) s = .next t ∧ t = (u.writeOpd (dstU d) fun _ => if ok then 0 else 10).advance ∧
      t.sent = s.sent ∧ t.jobs = s.jobs ∧ t.mem = s.mem) ∧
  (∀ w : Word, w.toNat / 2 ^ 25 = 0x5E → w.toNat % 16 = 1 → w.toNat / 16 % 128 ≠ 0 → decode w = .error (.illegal 2))

/-- R172, R173, R177: `arm` and `disarm` set the state of their run of registers and of no other; `msgd` retires the held
message and counts it in CON; `waitq` writes DENIED at once when the wave is off, and otherwise waits, with the pass and Σ LOST
that its tower knows; it does not issue while chunks of a remote copy of its group or sequencer have not left (R315). -/
def Obligations.ArmingRetiringAndWaitingForQuiet : Prop :=
  (∀ (s : State) (d : RegNum) (n : BitVec 5) (isK : Bool) (rs : List Nat) (tm g p : Nat), s.cur = .group tm g p → Spec.live s →
    Spec.armRegs s d (n.toNat + 1) = some (isK, rs) → (s.ctxRegs s.cur).outs = [] →
    let states := fun (t : State) => if isK then (t.group tm g).k.states else (t.group tm g).states
    (∀ q, ∃ t, exec (.arm d q n) s = .next t ∧
      (∀ r, tabGet .plain r (states t) = if r ∈ rs then .armedEmpty q else tabGet .plain r (states s)) ∧
      Spec.progressFrame (s.modGroup tm g fun _ => { s.group tm g with
        k := (t.group tm g).k, states := (t.group tm g).states }) t ∧
      (t.group tm g).k.vals = (s.group tm g).k.vals ∧
      (if isK then (t.group tm g).states = (s.group tm g).states else (t.group tm g).k = (s.group tm g).k)) ∧
    (∃ t, exec (.disarm d n) s = .next t ∧
      (∀ r, tabGet .plain r (states t) = if r ∈ rs then .plain else tabGet .plain r (states s)) ∧
      (t.group tm g).k.vals = (s.group tm g).k.vals ∧ (t.group tm g).rows = (s.group tm g).rows)) ∧
  (∀ (s : State) (tm g p : Nat), s.cur = .group tm g p → Spec.live s →
    ((s.group tm g).held = none → exec .msgd s = .next s.advance) ∧
    ((s.group tm g).held ≠ none → ∃ t, exec .msgd s = .next t ∧ (t.group tm g).held = none ∧
      (let w := tm / 64 / 128
       let j := lrJob (s.team tm).launch
       t.towerJob w j = { s.towerJob w j with con := (s.towerJob w j).con + 1 }) ∧ t.mem = s.mem ∧ t.cols = s.cols)) ∧
  (∀ (s : State) (d : RegNum), s.ready [dstU d] = .ok () →
    let j := s.ctxJob s.cur
    let w := s.towerJob (s.ctxCore s.cur / 128) j
    ((s.job j).wvctl.getLsbD 63 = false → exec (.waitq d) s = .next (s.writeOpd (dstU d) fun _ => 10).advance) ∧
    ((s.job j).wvctl.getLsbD 63 = true → Spec.copiesSent s →
      exec (.waitq d) s = .next (s.setWait s.cur (.waitq d w.snapPass w.qlost))) ∧
    ((s.job j).wvctl.getLsbD 63 = true →
      (∃ q ∈ (s.core (s.ctxCore s.cur)).cq, q.rem = true ∧ q.ctx = engCtx s.cur ∧ q.stop = none ∧ 0 < q.most ∧
        q.sentChunks = [] ∧ q.done = []) →
      exec (.waitq d) s = .next (s.setWait s.cur .order)))

/-! ### Barriers, gauges and tokens -/

/-- R178 to R180, R188: `bar.init` sets the expected count and clears the arrivals, and a count of 0 is an illegal operand with
the value in `TINFO` (R179); that the barrier number is checked before the registers is the model's choice (log 116); `bar.arv` records the phase and arrives
once; `bar.wait` passes when the phase has moved on from the recorded one and waits until then; `waitk` passes when its
tokens have COUNT 0. A number that names no barrier is an illegal operand. -/
def Obligations.BarriersAndTokenWaits : Prop :=
  (∀ (s : State) (n : BitVec 8) (a : RegNum) (tm g p : Nat), s.cur = .group tm g p → Spec.live s →
    (Spec.namedBarrier s tm n.toNat = none →
      exec (.barInit a n) s = .next (s.raise 2 0 0) ∧ exec (.barArv n) s = .next (s.raise 2 0 0) ∧
      exec (.barWait n) s = .next (s.raise 2 0 0)) ∧
    (∀ bt bn, Spec.namedBarrier s tm n.toNat = some (bt, bn) → (tabFind bt s.teams).isSome →
      (s.team bt).state = .resident →
      let b := tabGet Barrier.zero bn (s.team bt).barriers
      let arv := (s.group tm g).arv.getLsbD n.toNat
      (let os : List Opd := [{ reg := a, role := .src, words := 1, set := .vu }]
       s.ready os = .ok () →
       let u := (s.readAll os).2
       let x : BitVec 16 := (nthLanes (s.readAll os).1 0 u.low).setWidth 16
       (x ≠ 0 → ∃ t, exec (.barInit a n) s = .next t ∧
         tabGet Barrier.zero bn (t.team bt).barriers = { b with expected := x, arrivals := 0 } ∧
         ∀ m, m ≠ bn → tabGet Barrier.zero m (t.team bt).barriers = tabGet Barrier.zero m (s.team bt).barriers) ∧
       (x = 0 → exec (.barInit a n) s = .next (s.raise 2 0 0))) ∧
      ((s.group tm g).regs.outs = [] → ∃ t, exec (.barArv n) s = .next t ∧
        tabGet Barrier.zero bn (t.team bt).barriers = Spec.arrived b ∧
        (∀ m, m ≠ bn → tabGet Barrier.zero m (t.team bt).barriers = tabGet Barrier.zero m (s.team bt).barriers) ∧
        ∀ m, m < 256 → (t.group tm g).arv.getLsbD m =
          if m = n.toNat then b.phase.getLsbD 0 else (s.group tm g).arv.getLsbD m) ∧
      (b.phase.getLsbD 0 ≠ arv → exec (.barWait n) s = .next s.advance) ∧
      (b.phase.getLsbD 0 = arv → exec (.barWait n) s = .next (s.setWait s.cur (.barrier n.toNat arv))))) ∧
  (∀ (s : State) (m : BitVec 8), s.kind ≠ .host →
    let done := ∀ i, i < 8 → m.getLsbD i = true → (tabGet Token.zero i (s.ctxRegs s.cur).tok).count = 0
    (done → exec (.waitk m) s = .next s.advance) ∧ (¬ done → exec (.waitk m) s = .next (s.setWait s.cur (.token m))))

/-- R186, R187: `gset` of length 0 detaches the gauge of a handle and writes OK (that it writes exactly 0 is the model's choice,
log 51); a region that is no run of whole pages is
DENIED; one whose pages translate is attached or refused with its status. `gwait` writes GEN once it has reached g, all ones
for a handle of no gauge, and waits otherwise. -/
def Obligations.GaugesAreSetAndWaitedFor : Prop :=
  (∀ (s : State) (d a b : RegNum),
    let os := [srcU a, srcKp b, dstU d]
    s.ready os = .ok () →
    let u := (s.readAll os).2
    let h := (nthLanes (s.readAll os).1 0 u.low).toNat % 2 ^ 64
    let r := (nthLanes (s.readAll os).1 1 u.low).toNat
    let base := r % 2 ^ 64
    let len := r / 2 ^ 64
    let done := fun (x : Nat) (v : State) => (v.writeOpd (dstU d) fun _ => BitVec.ofNat 128 x).advance
    (len = 0 → u.gaugeBusy h = false → exec (.gset d a b) s = .next (done 0 (u.detachGauge h))) ∧
    (∀ block v, len ≠ 0 → u.readBlock h = .ok (block, v) →
      (base % 65536 ≠ 0 ∨ len % 65536 ≠ 0 ∨ 2 ^ 32 < len ∨ 2 ^ 57 < base + len →
        exec (.gset d a b) s = .next (done 10 v)) ∧
      (base % 65536 = 0 → len % 65536 = 0 → len ≤ 2 ^ 32 → base + len ≤ 2 ^ 57 →
        ∀ pages w, v.gaugePages (v.requester v.cur) base (len / 65536) = .ok (pages, w) →
          exec (.gset d a b) s = .next (done (w.attachGauge block pages).1 (w.attachGauge block pages).2)))) ∧
  (∀ (s : State) (block : List Byte) (pages : List Nat),
    let total := ofBytes (block.take 4)
    (s.oneAgent pages = none ∨ total = 0 ∨ (∃ p ∈ pages, ∃ g ∈ s.mgauges, p ∈ g.2.pages) →
      total < 2 ^ 32 → s.attachGauge block pages = (10, s)) ∧
    (∀ h, s.oneAgent pages = some h → 0 < total → total < 2 ^ 32 → (∀ p ∈ pages, ∀ g ∈ s.mgauges, p ∉ g.2.pages) →
      (s.freeGauge h = none → s.attachGauge block pages = (6, s)) ∧
      (∀ e, s.freeGauge h = some e → ∃ t g, s.attachGauge block pages = (256 * e + 65536 * h, t) ∧
        t = { s with mgauges := t.mgauges } ∧ tabFind (256 * h + e) t.mgauges = some g ∧ g.pages = pages ∧
        g.total.toNat = total ∧ g.count = 0 ∧ g.gen = 0 ∧ g.job = BitVec.ofNat 8 (s.ctxJob s.cur) ∧
        g.limit = BitVec.ofNat 3 (s.ctxPri s.cur)))) ∧
  (∀ (s : State) (d a b : RegNum) (acq : Bool), s.kind ≠ .host →
    let os := [srcU a, srcU b, dstU d]
    s.ready os = .ok () →
    let u := (s.readAll os).2
    let loc := (nthLanes (s.readAll os).1 0 u.low).toNat % 2 ^ 64
    let g : Word := (nthLanes (s.readAll os).1 1 u.low).setWidth 32
    let pass := fun (x : Nat) => (u.writeOpd (dstU d) fun _ => BitVec.ofNat 128 x).advance
    let wait := fun (mem : Bool) => s.setWait s.cur (.gauge mem (BitVec.ofNat 64 loc) g d)
    let reached := fun (n : Nat) => (n + 2 ^ 32 - g.toNat) % 2 ^ 32 < 2 ^ 31
    (u.gaugeOf loc = none → exec (.gwait d a b true acq) s = .next (pass (2 ^ 64 - 1))) ∧
    (∀ q, u.gaugeOf loc = some q → exec (.gwait d a b true acq) s = .next (if reached q.gen.toNat then pass q.gen.toNat else wait true)) ∧
    (∀ r o, loc % 16 = 0 → loc < 2 ^ 25 → u.vaultLoc (ctxTeam s.cur) loc 16 = some (r, o) →
      let n := u.vaultNat r (o + 8) 4
      exec (.gwait d a b false acq) s = .next (if reached n then pass n else wait false)))

/-! ### The activation table -/

/-- R135: `tbl` of the team that holds its core's table writes the piecewise-linear value of the current bank in every lane
that computes; of any other team it is a permission fault. That an infinite coefficient times 0 gives NaN there is the model's
choice (log 62).

R134, R136, R137: `tblld` of well-formed operands claims a free table with both banks zero and bank 0 current, starts the
fill and waits; a bad count is an illegal operand with the count, and a misaligned address a misaligned access. `tblsw` of the
holder exchanges the banks. -/
def Obligations.ActivationTablesFillExchangeAndEvaluate : Prop :=
  (∀ (s : State) (d a : RegNum) (f : BitVec 2), s.kind ≠ .host → f ≠ 3 →
    let os := [srcAny a 1, dstAny d 1]
    s.ready os = .ok () →
    let u := (s.readAll os).2
    let tab := (s.core (s.ctxCore s.cur)).table
    let bank := if tab.current then tab.bank1 else tab.bank0
    let bad := if tab.current then tab.bad1 else tab.bad0
    let x := fun l => (nthLanes (s.readAll os).1 0 l).toNat % 2 ^ 32
    (tab.holder = some (ctxTeam s.cur) → bad = [] →
      exec (.tbl d a f) s = .next ((u.writeOpd (dstAny d 1) fun l => BitVec.ofNat 128 (Spec.tableResult bank f (x l))).advance)) ∧
    (tab.holder ≠ some (ctxTeam s.cur) → exec (.tbl d a f) s = .next (s.raise 6 (BitVec.ofNat 64 (3 * 2 ^ 60)) 0))) ∧
  (∀ (s : State) (a b : RegNum), s.kind ≠ .host →
    let os := [srcU a, srcU b]
    s.ready os = .ok () →
    let u := (s.readAll os).2
    let addr := (nthLanes (s.readAll os).1 0 u.low).toNat % 2 ^ 64
    let n := (nthLanes (s.readAll os).1 1 u.low).toNat % 2 ^ 64
    let core := s.ctxCore s.cur
    let tab := (s.core core).table
    Spec.mayRead s →
    (addr < 2 ^ 57 → addr % 8 ≠ 0 → exec (.tblld a b) s = .next (s.raise 4 (BitVec.ofNat 64 addr) 0)) ∧
    (addr < 2 ^ 57 → addr % 8 = 0 → (n % 8 ≠ 0 ∨ n < 8 ∨ 32768 < n) →
      exec (.tblld a b) s = .next (s.raise 2 (BitVec.ofNat 64 n) 0)) ∧
    (addr < 2 ^ 57 → addr % 8 = 0 → n % 8 = 0 → 8 ≤ n → n ≤ 32768 → tab.draining = false → tab.fill = none →
      (tab.holder = none ∨ tab.holder = some (ctxTeam s.cur)) →
      exec (.tblld a b) s = .next ((u.modCore core fun k => { k with
        table := { (if tab.holder = none then { ActTable.empty with holder := some (ctxTeam s.cur) } else tab) with
          fill := some (s.cur, addr, n), fillPc := s.ctxPc s.cur } }).setWait s.cur .answer))) ∧
  (∀ s : State, s.kind ≠ .host →
    let core := s.ctxCore s.cur
    let tab := (s.core core).table
    (tab.holder = some (ctxTeam s.cur) → tab.fill = none →
      exec .tblsw s = .next ((s.modCore core fun k => { k with
        table := { k.table with current := !tab.current, draining := true } }).advance)) ∧
    ((∃ h, tab.holder = some h ∧ (h ≠ ctxTeam s.cur ∨ tab.fill ≠ none)) → exec .tblsw s = .next (s.setWait s.cur (.resource .exchange))))

/-! ### The matrix engine -/

/-- R206: `scs` writes bits 31 to 0 of `a` to its scale register of the issuing context and to no other.

R203, R207: `aud` sets the audit interval, and a value of more than 16 bits is an illegal operand with code 10. `chb`
opens a chain against its token with the interval captured; `che` with that token closes it. -/
def Obligations.ScalesAndChains : Prop :=
  (∀ (s : State) (n : BitVec 3) (a : RegNum), s.kind ≠ .host → Spec.live s →
    let os : List Opd := [{ reg := a, role := .src, words := 1, set := .vu }]
    s.ready os = .ok () →
    let u := (s.readAll os).2
    let x := nthLanes (s.readAll os).1 0 u.low
    ∃ t, exec (.scs n a) s = .next t ∧
      t = (u.modRegs s.cur fun r => { r with sc := tabSet n.toNat (x.setWidth 32) r.sc }).advance ∧
      (tabGet 0 n.toNat (t.ctxRegs s.cur).sc).toNat = x.toNat % 2 ^ 32 ∧
      ∀ m, m ≠ n.toNat → tabGet 0 m (t.ctxRegs s.cur).sc = tabGet 0 m (s.ctxRegs s.cur).sc) ∧
  (∀ (s : State) (a : RegNum), s.kind ≠ .host → s.ready [srcU a] = .ok () →
    let u := (s.readAll [srcU a]).2
    let x := (nthLanes (s.readAll [srcU a]).1 0 u.low).toNat % 2 ^ 64
    (x < 2 ^ 16 → exec (.aud a) s = .next ((u.modRegs s.cur fun r => { r with aud := BitVec.ofNat 16 x }).advance)) ∧
    (2 ^ 16 ≤ x → exec (.aud a) s = .next (s.raise 2 10 0))) ∧
  (∀ (s : State) (tok : BitVec 3), s.kind ≠ .host → Spec.live s →
    let r := s.ctxRegs s.cur
    (r.chain = none → Spec.roomOn s tok.toNat →
      ∃ t ch, exec (.chb tok) s = .next t ∧ (t.ctxRegs s.cur).chain = some ch.id ∧
        (t.core (s.ctxCore s.cur)).chains = (s.core (s.ctxCore s.cur)).chains ++ [ch] ∧ ch.token = tok.toNat ∧
        ch.audit = r.aud.toNat ∧ ch.open_ = true ∧ ch.tiles = 0 ∧ ch.failed = none ∧ ch.seqNo = r.chainSeq ∧
        (tabGet Token.zero tok.toNat (t.ctxRegs s.cur).tok).count = (tabGet Token.zero tok.toNat r.tok).count + 1 ∧
        (t.ctxRegs s.cur).stat = r.stat ∧ t.mem = s.mem) ∧
    (r.chain ≠ none → exec (.chb tok) s = .next (s.raise 2 2 0)) ∧
    (∀ ch, Spec.openChainOf s = some ch →
      (ch.token = tok.toNat → exec (.che tok) s = .next ((((s.modRegs s.cur fun r => { r with chain := none }).modCore
        (s.ctxCore s.cur) fun k => { k with chains := k.chains.map fun c => if c.id = ch.id then { c with open_ := false } else c
        }).advance).settleChains (s.ctxCore s.cur))) ∧
      (ch.token ≠ tok.toNat → exec (.che tok) s = .next (s.raise 2 3 0))) ∧
    (Spec.openChainOf s = none → exec (.che tok) s = .next (s.raise 2 1 0)))

/-- R192, R193: `acal` allocates the lowest run of banks, zero and with step count 0, on physical banks that no one holds,
and writes its handle; with no run free it writes BUSY; with WIN it writes the windows of the groups, and without leaves them; a
bad shape is code 6 and a WIN that the issuer may not give code 11. `acfr` of a handle unallocates its banks at once; that the
reserved and STATUS bits of the handle are not looked at is the model's choice (log 120).

R194, R195: `acrd` reads a row and its bank's step count, or zeros with ACUNALLOC from a bank that is not allocated;
with nothing queued, `acwr` writes the active lanes of its row and `acz` zeroes its banks, and no other bank changes: that an idle
engine performs them at once is the model's choice (log 46). -/
def Obligations.AccumulatorBanksAndRows : Prop :=
  (∀ (s : State) (d a : RegNum), s.kind ≠ .host → Spec.live s →
    let os := [srcU a, dstU d]
    s.ready os = .ok () →
    let u := (s.readAll os).2
    let x := (nthLanes (s.readAll os).1 0 u.low).toNat % 2 ^ 64
    let tr := x % 2 ^ 8
    let tc := x / 2 ^ 8 % 2 ^ 8
    let n := tr * tc
    let used := (s.core (s.ctxCore s.cur)).phys
    let free := fun b => ∀ i, i < n → Spec.bankOf s (b + i) = none
    let win := x / 2 ^ 16 % 2 = 1
    let winOk := win → lrWindow (Spec.teamOf s).launch = true ∧ ∃ tm p, s.cur = .group tm 0 p
    let good := x < 2 ^ 17 ∧ 1 ≤ n ∧ n ≤ 128
    (¬ good → exec (.acal d a) s = .next (s.raise 2 6 0)) ∧
    (good → ¬ winOk → exec (.acal d a) s = .next (s.raise 2 11 0)) ∧
    (good → winOk →
    ((∀ b, b + n ≤ 128 → ¬ free b) → exec (.acal d a) s = .next ((u.writeOpd (dstU d) fun _ => 6).advance)) ∧
    (∀ b, b + n ≤ 128 → free b → (∀ c, c < b → ¬ free c) → n ≤ ((List.range 128).filter fun p => decide (p ∉ used)).length →
      ∃ v, exec (.acal d a) s = .next ((v.writeOpd (dstU d) fun _ =>
          BitVec.ofNat 128 (tc * 2 ^ 24 + tr * 2 ^ 16 + b * 2 ^ 8)).advance) ∧
        (∀ i, i < n → ∃ k, Spec.bankOf v (b + i) = some k ∧ k.words = [] ∧ k.steps = 0 ∧ k.phys < 128 ∧ k.phys ∉ used ∧
          k.phys ∈ (v.core (s.ctxCore s.cur)).phys) ∧
        (∀ m, (m < b ∨ b + n ≤ m) → Spec.bankOf v m = Spec.bankOf s m) ∧ v.mem = s.mem ∧
        ∀ g x y, (Spec.teamOf s).groups[g]? = some x → (Spec.teamOf v).groups[g]? = some y →
          (win → (g < tr → y.awb.toNat = 32 * (b + g * tc) ∧ y.awl.toNat + 1 = 32 * (b + (g + 1) * tc)) ∧
            (tr ≤ g → y.awb = 1 ∧ y.awl = 0)) ∧
          (¬ win → y.awb = x.awb ∧ y.awl = x.awl)))) ∧
  (∀ (s : State) (a : RegNum), s.kind ≠ .host → Spec.live s → s.ready [srcU a] = .ok () →
    let u := (s.readAll [srcU a]).2
    let x := (nthLanes (s.readAll [srcU a]).1 0 u.low).toNat
    let b := x / 2 ^ 8 % 2 ^ 7
    let tr := x / 2 ^ 16 % 2 ^ 8
    let tc := x / 2 ^ 24 % 2 ^ 8
    let whole := tr * tc ≠ 0 ∧ ∀ i, i < tr * tc → ∃ k, Spec.bankOf s (b + i) = some k ∧ k.rect = (b, tr, tc)
    (whole → Spec.engineRoom s →
      ∃ t, exec (.acfr a) s = .next t ∧ (∀ i, i < tr * tc → Spec.bankOf t (b + i) = none) ∧
        ∃ m ∈ (t.core (s.ctxCore s.cur)).mq, ∃ ps, m.kind = .acfr ps ∧ ps.length = tr * tc) ∧
    (¬ whole → exec (.acfr a) s = .next (s.raise 2 7 0))) ∧
  (∀ (s : State) (d a b : RegNum), s.kind = .group → Spec.live s →
    let row : Opd := { reg := d, role := .dst, words := 1, set := .v }
    let cnt : Opd := { reg := b, role := .dst, words := 2, set := .uz }
    let os := [row, srcU a, cnt]
    s.ready os = .ok () →
    let u := (s.readAll os).2
    let r := (nthLanes (s.readAll os).1 0 u.low).toNat % 2 ^ 64
    r < 4096 → Spec.inWindow s r r →
    let done := fun (v : State) (w : Nat → Word) (n : Word) =>
      ((v.writeOpd cnt fun _ => n.setWidth 128).writeOpd row fun l => (w l).setWidth 128).advance
    (Spec.bankOf s (r / 32) = none → lrActrap (Spec.teamOf s).launch = false →
      exec (.acrd d a b) s = .next (done (u.modRegs s.cur fun g => { g with stat := g.stat ||| 0x8000 }) (fun _ => 0) 0)) ∧
    (∀ k, Spec.bankOf s (r / 32) = some k → k.bad = [] →
      (lrWindow (Spec.teamOf s).launch = true → s.bankBusy (r / 32) = false) →
      exec (.acrd d a b) s = .next (done u (fun l => tabGet 0 (32 * (r % 32) + l) k.words) k.steps))) ∧
  (∀ (s : State) (a b : RegNum), s.kind = .group → Spec.live s → Spec.engineIdle s →
    let os : List Opd := [srcU a, { reg := b, role := .src, words := 1, set := .v }]
    s.ready os = .ok () →
    let u := (s.readAll os).2
    let r := (nthLanes (s.readAll os).1 0 u.low).toNat % 2 ^ 64
    r < 4096 → Spec.inWindow s r r →
    ∀ k, Spec.bankOf s (r / 32) = some k →
      ∃ t v k', exec (.acwr a b) s = .next t ∧ t = v.advance ∧ Spec.bankFrame [r / 32] u v ∧
        Spec.bankOf t (r / 32) = some k' ∧ k'.steps = k.steps ∧
        ∀ i, i < 1024 → tabGet 0 i k'.words = if i / 32 = r % 32 ∧ (u.ctxMask u.cur).getLsbD (i % 32) = true
          then (nthLanes (s.readAll os).1 1 (i % 32)).setWidth 32 else tabGet 0 i k.words) ∧
  (∀ (s : State) (a : RegNum), s.kind ≠ .host → Spec.live s → Spec.engineIdle s → s.ready [srcU a] = .ok () →
    let u := (s.readAll [srcU a]).2
    let x := (nthLanes (s.readAll [srcU a]).1 0 u.low).toNat % 2 ^ 64
    let z := x % 2 ^ 7
    let n := x / 2 ^ 8 % 2 ^ 7 + 1
    x = z + 2 ^ 8 * (n - 1) → z + n ≤ 128 → Spec.inWindow s (32 * z) (32 * (z + n) - 1) →
    (∀ i, i < n → (Spec.bankOf s (z + i)).isSome) →
    ∃ t v, exec (.acz a) s = .next t ∧ t = v.advance ∧ Spec.bankFrame ((List.range n).map (z + ·)) u v ∧
      ∀ i, i < n → ∃ k, Spec.bankOf t (z + i) = some k ∧ k.words = [] ∧ k.steps = 0)

/-- R197 to R202, R215: an `mma` whose operands, position word, window and bank pass the checks of R195 and R198 to R200 takes
the chain's next tile number and enters the queue, or, prepared, becomes the follow-on; it keeps the formats and scale factors
of the time of issue. What a k-step reads of register tiles and vault operands. K-step `q` of it, the last one too, makes each word
of the bank the one that R63 to R65 give for segment `q` and counts a step, and the last one takes the command from the queue. The
order of the checks is log 45's, the rows read for block scales are logs 34 and 120, the places kept for follow-ons log 106, and
the sign of a zero segment sum log 100, all the model's choices. -/
def Obligations.MatrixCommandsAreQueuedAndPerformed : Prop :=
  (∀ (s : State) (d a b : RegNum) (f : BitVec 3), s.kind ≠ .host → Spec.live s →
    let oa := s.tileOpds a (s.scaledTile f b)
    let ob := s.tileOpds b (s.scaledTile f a)
    let os := oa ++ ob ++ [srcU d]
    s.ready os = .ok () →
    let xs := (s.readAll os).1
    let u := (s.readAll os).2
    let x := if s.isTile a then Spec.tileOf s a else .desc (nthLanes xs 0 u.low)
    let y := if s.isTile b then Spec.tileOf s b else .desc (nthLanes xs oa.length u.low)
    let pos := (nthLanes xs (oa.length + ob.length) u.low).toNat % 2 ^ 64
    let bank := pos % 2 ^ 7
    let core := s.ctxCore s.cur
    ∀ ch, Spec.openChainOf s = some ch → ch.aborted = false → Spec.mmaAllowed s pos f x y →
    Spec.inWindow s (32 * bank) (32 * bank + 31) → (Spec.bankOf s bank).isSome →
    let is := fun (m : MCmd) => m.team = ctxTeam s.cur ∧ m.kind = .mma bank ch.tiles ch.id x y
      (BitVec.ofNat 4 (Spec.operandFormat f x)) (BitVec.ofNat 4 (Spec.operandFormat f y))
      (Spec.scaleFactor s (pos.testBit 11) (pos / 2 ^ 8 % 8)) (Spec.scaleFactor s (pos.testBit 15) (pos / 2 ^ 12 % 8)) 0
    let kept := fun (t : State) => ∃ c ∈ (t.core core).chains, c = { ch with tiles := ch.tiles + 1 }
    (pos.testBit 63 = false → Spec.engineRoom s →
      ∃ t, exec (.mma d a b f) s = .next t ∧ (∃ m ∈ (t.core core).mq, is m) ∧ kept t) ∧
    (pos.testBit 63 = true →
      ∃ t m, exec (.mma d a b f) s = .next t ∧ (t.core core).followOn = some m ∧ is m ∧ kept t ∧ t.mem = s.mem)) ∧
  (∀ (s : State) (team cls f g : Nat) (a b : MOperand) (fa fb : BitVec 4) (x y : Tile),
    Spec.engineClass f = some cls → Spec.engineClass g = some cls → Spec.localTile s team a f x → Spec.localTile s team b g y →
    (fa.toNat = f ∨ (fa = 15 ∧ fb.toNat = g ∧ f = g ∧ ∃ bs cs, a = .tile bs cs)) →
    (fb.toNat = g ∨ (fb = 15 ∧ fa.toNat = f ∧ f = g ∧ ∃ bs cs, b = .tile bs cs)) →
    s.readTiles team a b fa fb = .ok (x, y, cls, s)) ∧
  (∀ (s : State) (core n q bank chain : Nat) (tile : Word) (a b : MOperand) (fa fb : BitVec 4) (sa sb : Word)
      (done : BitVec 4) (m : MCmd) (ch : Chain) (x y : Tile) (cls : Nat) (t : State) (k : Bank),
    (s.core core).mq.find? (fun c => c.id = n) = some m → m.kind = .mma bank tile chain a b fa fb sa sb done →
    (s.core core).chains.find? (fun c => c.id = chain) = some ch → q < 4 → done.getLsbD q = false → m.fault = none →
    s.engineRuns m.team = true → (s.core core).chainHeld ch = false → m.heldBy (cmdsBefore n (s.core core).mq) = false →
    s.readTiles m.team a b fa fb = .ok (x, y, cls, t) → tabFind bank (s.team m.team).acc = some k → k.bad = [] →
    let done' := done ||| ((1 : BitVec 4) <<< q)
    (done' = 15 → ∀ e ∈ (t.core core).mq, e.team = m.team → e.chain = none → e.banks = []) →
    ∃ v k', exec (.kstep core n q) s = .next v ∧ tabFind bank (v.team m.team).acc = some k' ∧ k'.steps = k.steps + 1 ∧
      (∀ i, i < 1024 → Spec.wordAfter x y cls q (i / 32) (i % 32) sa sb (tabGet 0 i k.words) (tabGet 0 i k'.words)) ∧
      (∀ o, o ≠ bank → tabFind o (v.team m.team).acc = tabFind o (s.team m.team).acc) ∧ v.mem = t.mem ∧
      (done' = 15 → ∀ r ∈ (v.core core).mq, r.id ≠ n) ∧
      (done' ≠ 15 → ∃ m' ∈ (v.core core).mq, m' = { m with kind := .mma bank tile chain a b fa fb sa sb done' }))

/-! ### Copies, sequencers, launches and storage -/

/-- R208, R213, R216: a `tcopy` whose command passes its checks waits while an acquire of its lanes, or a load that an earlier
`fence.rel` of them orders, is outstanding (R265 to R269); with room in the engine and on its token, it attaches to the token and
enters the copy engine with its four registers, or ends at once when its part holds no row; `pipe` sets the limits, and a depth outside them becomes the one of the mean latency between them (the 512 ns before 32 chunks are the model's choice,
log 108).

R217, R218: `fork` starts the sequencer of a core that runs none at its target, with copies of `k0` up to the register
named and all else 0 (in the registers that R217 does not name, the model's choice, log 49), and waits while one runs; `join` passes when the team's sequencer has ended and waits until then; `rdv`
releases every split that waits in `join`, and is a release.

R222: `launch` sends the record in `k8` to `k15` to the slice that `a` selects and holds its split until the answer; a
reserved bit of `a` is an illegal operand. -/
def Obligations.CopiesSequencersAndLaunches : Prop :=
  (∀ (s : State), s.kind ≠ .host → Spec.live s →
    let os : List Opd := [104, 105, 106, 107].map fun r => { reg := r, role := .src, words := 2, set := .k }
    s.ready os = .ok () →
    let u := (s.readAll os).2
    let k := fun i => (nthLanes (s.readAll os).1 i u.low).setWidth 64
    let core := s.ctxCore s.cur
    ∀ c : CCmd, c = { id := s.fresh, team := ctxTeam s.cur, ctx := engCtx s.cur, k8 := k 0, k9 := k 1, k10 := k 2, k11 := k 3,
                      started := [], done := [], sentChunks := [], failed := none, stop := none, follow := none, faults := [] } →
    c.fieldsBad (Spec.teamOf s).clusterSize = false → (c.follows = true → s.kind = .seq ∧ (s.core core).followOn ≠ none) →
    u.copyAligned c = .ok () → u.copyInside c = .ok () →
    (¬ (Spec.mayRead s ∧ Spec.mayWrite s) → exec .tcopy s = .next (s.setWait s.cur .order)) ∧
    (Spec.mayRead s → Spec.mayWrite s → (s.core core).cq.length < 16 → Spec.roomOn s c.token →
    (0 < c.part.2 → ∃ t c', exec .tcopy s = .next t ∧ c' ∈ (t.core core).cq ∧ c'.id = c.id ∧ c'.k8 = k 0 ∧ c'.k9 = k 1 ∧
      c'.k10 = k 2 ∧ c'.k11 = k 3 ∧ c'.done = [] ∧ (c.follows = true → c'.follow = (s.core core).followOn) ∧
      (tabGet Token.zero c.token (t.ctxRegs s.cur).tok).count = (tabGet Token.zero c.token (s.ctxRegs s.cur).tok).count + 1 ∧
      t.mem = s.mem) ∧
    (c.part.2 = 0 → ∃ t, exec .tcopy s = .next t ∧ ∀ c' ∈ (t.core core).cq, c'.id ≠ c.id))) ∧
  (∀ (s : State) (x n : BitVec 5), s.kind ≠ .host → Spec.live s →
    ∃ t, exec (.pipe x n) s = .next t ∧ (Spec.teamOf t).pipeMin = n.toNat ∧ (Spec.teamOf t).pipeMax = x.toNat ∧
      (n.toNat ≤ x.toNat → (Spec.teamOf t).depth =
        if n.toNat ≤ (Spec.teamOf s).depth ∧ (Spec.teamOf s).depth ≤ x.toNat then (Spec.teamOf s).depth
        else max n.toNat (min x.toNat (((Spec.teamOf s).lavg + 4095) / 4096))) ∧ t.mem = s.mem) ∧
  (∀ (s : State) (i : BitVec 18) (n : Nat), s.kind = .group → Spec.live s → n ≤ 16 →
    let d : RegNum := if n = 0 then 120 else BitVec.ofNat 7 (95 + n)
    let os : List Opd := (List.range n).map fun j => { reg := BitVec.ofNat 7 (96 + j), role := .src, words := 2, set := .k }
    s.ready os = .ok () →
    let core := s.ctxCore s.cur
    ((s.core core).seqOwner = none → ∃ t q, exec (.fork d i) s = .next t ∧ (Spec.teamOf t).seq = some q ∧
      (t.core core).seqOwner = some (ctxTeam s.cur) ∧ q.pc = BitVec.ofInt 57 ((s.ctxPc s.cur).toNat + 4 * i.toInt) ∧
      (∀ j, j < 16 → tabGet 0 j q.k.vals = if j < n then s.getK s.cur j else 0) ∧ q.s = [] ∧ q.p = 0 ∧ q.q6 = [] ∧
      q.regs = Regs.zero ∧ q.wait = .none ∧ t.mem = s.mem ∧ t.cols = s.cols) ∧
    ((s.core core).seqOwner ≠ none → exec (.fork d i) s = .next (s.setWait s.cur (.resource .sequencer)))) ∧
  (∀ s : State, s.kind = .group → exec .join s = .next (if (Spec.teamOf s).seq = none then s.advance else s.setWait s.cur .join)) ∧
  (∀ (s : State) (tm : Nat), s.cur = .seq tm → Spec.live s → (s.seqr tm).regs.outs = [] →
    ∃ t, exec .rdv s = .next t ∧ t = { s with teams := t.teams } ∧ (t.seqr tm).pc = (s.seqr tm).pc + 4 ∧
      (∀ u, u ≠ tm → t.team u = s.team u) ∧
      ∀ g p, t.split tm g p =
        if (s.split tm g p).valid = true ∧ (s.split tm g p).wait = .join then (s.split tm g p).next else s.split tm g p) ∧
  (∀ (s : State) (a : RegNum),
    let os : List Opd := { reg := a, role := .both, words := 2, set := .u } ::
      [104, 105, 106, 107, 108, 109, 110, 111].map fun r => { reg := r, role := .src, words := 2, set := .k }
    s.ready os = .ok () →
    let u := (s.readAll os).2
    let x := (nthLanes (s.readAll os).1 0 u.low).toNat % 2 ^ 64
    let record := BitVec.ofNat 512 (((List.range 8).map fun i =>
      (nthLanes (s.readAll os).1 (i + 1) u.low).toNat % 2 ^ 64 * 2 ^ (64 * i)).sum)
    (x < 256 → (128 ≤ x → x = 128) → (s.ctxRegs s.cur).outs = [] →
      exec (.launch a) s = .next { (u.advance.setWait s.cur .answer) with
        launches := s.launches ++ [
          { who := some s.cur, cap := none, reg := a, col := (if 128 ≤ x then s.ctxCol s.cur else x), launch := record,
            user := decide (s.kind ≠ .host), job := BitVec.ofNat 8 (s.ctxJob s.cur),
            pri := BitVec.ofNat 3 (s.ctxPri s.cur) }] }) ∧
    (256 ≤ x ∨ (128 < x ∧ x < 256) → exec (.launch a) s = .next (s.raise 2 0 0)))

/-- R227, R228: `nvsub` of the descriptor in `k8` to `k11` or `k12` to `k15` writes the outcome of its submission; a register
that starts no descriptor and a queue number above 63 are illegal operands. A command that the first checks refuse is DENIED;
one that passes, with no free slot, is BUSY; with one, it is placed in the queue's ring, its doorbell is written, and its ticket
answers: a flush, and a read or write of a buffer in one page that the drive may access.

R229, R327: `nvwait` of a ticket that is complete writes its result and frees its slot; of a ticket that names no command
of its job, or that another context waits for, it is DENIED; otherwise it waits, and the completion that the drive writes for the
slot is delivered to it. A completion that no context waits for is kept.

The bytes of the entries in the rings (`Spec.submission`, and the status, phase and identifier of a completion) are the layout of
NVM Express, which the model presumes (log 41). -/
def Obligations.StorageCommandsAreSubmittedAndCompleted : Prop :=
  (∀ (s : State) (d a b : RegNum) (r : Bool), b = 104 ∨ b = 108 →
    let os := [srcU a] ++ ((List.range 4).map fun i =>
      ({ reg := b + BitVec.ofNat 7 i, role := .src, words := 2, set := .k } : Opd)) ++ [dstU d]
    s.ready os = .ok () →
    let u := (s.readAll os).2
    let v := fun i => (nthLanes (s.readAll os).1 i u.low).toNat % 2 ^ 64
    let out := fun (w : State) (x : Nat) => (w.writeOpd (dstU d) fun _ => BitVec.ofNat 128 x).advance
    (v 0 < 64 → (r = true → (s.ctxRegs s.cur).outs = []) →
      let c := nvCmd (v 1) (v 2) (v 3) (v 4)
      let q := s.nvq (v 0)
      (∀ x w, u.nvsubmit (v 0) c = .ok (x, w) → exec (.nvsub d a b r) s = .next (out w x)) ∧
      (Spec.refusedCommand q c (s.ctxJob s.cur) → exec (.nvsub d a b r) s = .next (out u 10)) ∧
      (¬ Spec.refusedCommand q c (s.ctxJob s.cur) → c.opc = 0 →
        (Spec.ringFull q → exec (.nvsub d a b r) s = .next (out u 6)) ∧
        ∀ slot, Spec.firstFree q slot → ∃ w, exec (.nvsub d a b r) s = .next (out w (256 * v 0 + 65536 * slot)) ∧
          Spec.placed s w (v 0) slot c 0 0) ∧
      (¬ Spec.refusedCommand q c (s.ctxJob s.cur) → c.opc = 1 ∨ c.opc = 2 → c.pichk = false →
        let len := (c.nlb + 1) * q.lba
        c.buf % 65536 + len ≤ 65536 → c.buf + len ≤ 2 ^ 57 →
        ∀ x y, u.access (u.requester u.cur) (if c.opc = 1 then .read else .write) c.buf = .ok (x, y) →
        (Spec.ringFull q → exec (.nvsub d a b r) s = .next (out y 6)) ∧
        ∀ slot, Spec.firstFree q slot → ∃ w, exec (.nvsub d a b r) s = .next (out w (256 * v 0 + 65536 * slot)) ∧
          Spec.placed s w (v 0) slot c x.pa len) ∧
      (¬ Spec.refusedCommand q c (s.ctxJob s.cur) → c.opc = 1 ∨ c.opc = 2 →
        let len := (c.nlb + 1) * q.lba
        c.buf % 65536 + len ≤ 65536 → c.buf + len ≤ 2 ^ 57 →
        ∀ sub, u.access (u.requester u.cur) (if c.opc = 1 then .read else .write) c.buf = .error (.perm sub) →
          ∃ w, exec (.nvsub d a b r) s = .next (out w 10) ∧ w.nvqs = s.nvqs)) ∧
    (64 ≤ v 0 → exec (.nvsub d a b r) s = .next (s.raise 2 0 0))) ∧
  (∀ (s : State) (d a b : RegNum) (r : Bool), b ≠ 104 → b ≠ 108 → exec (.nvsub d a b r) s = .next (s.raise 2 0 0)) ∧
  (∀ (s : State) (n : Nat) (c : NvCmd),
    let q := s.nvq n
    (q.on = false ∨ q.job ≠ s.ctxJob s.cur ∨ c.reserved = true ∨ 2 < c.opc ∨ (c.opc ≠ 0 ∧ c.buf % 512 ≠ 0) ∨
        2 ^ 20 < (c.nlb + 1) * q.lba ∨ (c.pichk = true ∧ q.prot = false) → s.nvsubmit n c = .ok (10, s)) ∧
    (q.denies c (s.ctxJob s.cur) = false → c.opc = 0 → ∀ slot, q.freeSlot = some slot →
      ∃ t k, s.nvsubmit n c = .ok (256 * n + 65536 * slot, t) ∧ tabFind slot (t.nvq n).slots = some k ∧
        k.result = none ∧ k.ctx = s.cur ∧ (t.nvq n).sqtail = (q.sqtail + 1) % q.depth ∧
        (∀ i, i ≠ slot → tabFind i (t.nvq n).slots = tabFind i q.slots)) ∧
    (q.denies c (s.ctxJob s.cur) = false → c.opc = 0 → q.freeSlot = none → s.nvsubmit n c = .ok (6, s))) ∧
  (∀ (s : State) (d a : RegNum) (acq : Bool),
    let os := [srcU a, dstU d]
    s.ready os = .ok () →
    let u := (s.readAll os).2
    let x := (nthLanes (s.readAll os).1 0 u.low).toNat % 2 ^ 64
    let n := x / 2 ^ 8 % 2 ^ 6
    let slot := x / 2 ^ 16 % 2 ^ 16
    let q := s.nvq n
    let done := fun (y : Nat) (w : State) => (w.writeOpd (dstU d) fun _ => BitVec.ofNat 128 y).advance
    (x % 16 ≠ 0 ∨ q.job ≠ s.ctxJob s.cur ∨ tabFind slot q.slots = none → exec (.nvwait d a acq) s = .next (done 10 u)) ∧
    (x % 16 = 0 → q.job = s.ctxJob s.cur → ∀ k, tabFind slot q.slots = some k →
      (∀ y, k.result = some y → exec (.nvwait d a acq) s =
        .next (done y.toNat (u.modNvq n fun q => { q with slots := tabDel slot q.slots }))) ∧
      (∀ c e, k.result = none → k.waiter = some (c, e) → Spec.waitsFor u c n slot →
        exec (.nvwait d a acq) s = .next (done 10 u)) ∧
      (k.result = none → (∀ c e, k.waiter = some (c, e) → ¬ Spec.waitsFor u c n slot) → exec (.nvwait d a acq) s =
        .next ((u.modNvq n fun q => { q with slots := tabSet slot { k with waiter := some (s.cur, d) } q.slots }).setWait s.cur
          (.nvwait d (BitVec.ofNat 64 x)))))) ∧
  (∀ (s : State) (n : Nat),
    let q := s.nvq n
    let e := s.physRead (q.cqb.toNat + 16 * q.cqhead) 16
    let dw3 := ofBytes (e.drop 12)
    let slot := dw3 % 2 ^ 16
    let result := BitVec.ofNat 64 (dw3 / 2 ^ 17 % 2 ^ 15 * 2 ^ 32 + slot * 2 ^ 16 + Spec.driveStatus (dw3 / 2 ^ 17))
    (dw3.testBit 16 ≠ q.phase → exec (.nvmeCompletion n) s = .next s) ∧
    (q.on = true ∨ (∃ e ∈ q.slots, e.2.result = none) → dw3.testBit 16 = q.phase →
      (tabFind slot q.slots = none → ∃ t, exec (.nvmeCompletion n) s = .next t ∧
        (t.nvq n).cqhead = (q.cqhead + 1) % q.depth ∧ (t.nvq n).slots = q.slots) ∧
      ∀ k, tabFind slot q.slots = some k → k.pichk = false →
        (k.waiter = none → k.orphan = false →
          ∃ t k', exec (.nvmeCompletion n) s = .next t ∧ (t.nvq n).cqhead = (q.cqhead + 1) % q.depth ∧
            tabFind slot (t.nvq n).slots = some k' ∧ k'.result = some result) ∧
        (k.waiter = none → k.orphan = true →
          ∃ t, exec (.nvmeCompletion n) s = .next t ∧ (t.nvq n).cqhead = (q.cqhead + 1) % q.depth ∧
            tabFind slot (t.nvq n).slots = none) ∧
        (∀ c d, k.waiter = some (c, d) → Spec.onCore s c → Spec.waitsFor s c n slot → 96 ≤ d.toNat → d.toNat < 112 →
          ∃ t, exec (.nvmeCompletion n) s = .next t ∧ (t.nvq n).cqhead = (q.cqhead + 1) % q.depth ∧
            tabFind slot (t.nvq n).slots = none ∧ t.getK c (d.toNat - 96) = result ∧ t.ctxWait c = .none)))


/-! ### Host control -/

/-- R242: at the level that provides them, `wfi` goes on and waits unless an enabled interrupt is pending, and `halt` stops
the issue of its host core.

R240: `tlbi` removes exactly the cached translations and table entries that it names, of every page size and from every cache,
and passes at once when no access and no storage command is outstanding and no other package must answer. -/
def Obligations.HostCoresWaitStopAndInvalidate : Prop :=
  (∀ (s : State) (c : Nat), s.cur = .host c →
    (1 ≤ (s.host c).pl.toNat → exec .wfi s = .next (s.modHost c fun h => { h with
      pc := h.pc + 4, wait := .none, wfi := decide ((s.hip c) &&& h.hie.toNat = 0) })) ∧
    ((s.host c).pl = 3 → exec .halt s = .next (s.modHost c fun h => { h with pc := h.pc + 4, wait := .none, stopped := true }))) ∧
  (∀ (s : State) (c : Nat) (a b : RegNum) (k : BitVec 4), s.cur = .host c → 1 ≤ (s.host c).pl.toNat → k.toNat < 4 →
    (s.host c).pending = none →
    let kind := k.toNat
    let os := (if 2 ≤ kind then [srcU a] else []) ++ (if kind = 1 ∨ kind = 3 then [srcU b] else [])
    s.ready os = .ok () →
    let v := fun i => (nthLanes (s.readAll os).1 i 0).toNat
    let va := v 0 % 2 ^ 57
    let asid := v (kind / 2) % 2 ^ 16
    ∃ t, exec (.tlbi a b k) s = .next t ∧ (∀ e, e ∈ t.tlb ↔ e ∈ s.tlb ∧ ¬ Spec.named kind va asid e) ∧ t.mem = s.mem ∧
      t.teams = s.teams ∧
      ((∀ e ∈ s.teams, ∀ r ∈ e.2.contexts, r.outs = []) → (∀ q ∈ s.nvqs, q.2.slots = []) → s.sharers = [] →
        (∀ v ∈ s.invals, v.out = false) →
        (t.host c).pc = (s.host c).pc + 4 ∧ (t.host c).pending = none ∧ (t.host c).wait = .none))

/-- R241: `preempt` of a team that exists and can be saved halts and holds every team of its cluster, and passes with their
number once all have halted; of a team that does not exist it writes STALE, and with no save record DENIED. The grid and core
kinds reach every cluster with a team of the grid or on the core, and hold back the teams not yet placed, or the core's placement.

R241: `resume` of a held cluster releases every team of it and writes their number; of a target that is not held it
writes DENIED, of a team that does not exist STALE, and the kind 3 is an illegal operand. The grid and core kinds release every
held cluster that they reach, and placement. That bits [63:62] of a target other than 0 are STALE, the order of STALE, DENIED and
BUSY, and the count of teams are the model's choice (log 73). -/
def Obligations.PreemptionHoldsAndResumptionReleases : Prop :=
  (∀ (s : State) (c : Nat) (d a : RegNum), s.cur = .host c → 1 ≤ (s.host c).pl.toNat →
    let os := [dstU d, srcU a]
    s.ready os = .ok () →
    let u := (s.readAll os).2
    let x := (nthLanes (s.readAll os).1 0 0).toNat % 2 ^ 64
    let answer := fun (v : State) (n st : Nat) => Host.Outcome.next (v.writeOpd (dstU d) fun _ => Spec.counted n st).advance
    ((s.host c).pending = none →
      (Spec.teamTarget s x = none ∨ 2 ^ 62 ≤ x → exec (.preempt d a 0) s = answer u 0 3) ∧
      (∀ cl, x < 2 ^ 62 → Spec.teamTarget s x = some cl →
        ((∃ t ∈ s.clusterTeams cl, (s.team t).recPa = 0) → exec (.preempt d a 0) s = answer u 0 10) ∧
        ((∀ t ∈ s.clusterTeams cl, (s.team t).recPa ≠ 0) →
          ((∃ t ∈ s.clusterTeams cl, (s.team t).held = true ∧ (s.team t).state ≠ .saved) →
            exec (.preempt d a 0) s = answer u 0 6) ∧
          ((∀ t ∈ s.clusterTeams cl, (s.team t).held = false ∧ (s.team t).state = .resident) →
            ∃ t, exec (.preempt d a 0) s = .next t ∧ ∀ m ∈ s.clusterTeams cl,
              (t.team m).halted = true ∧ (t.team m).held = true ∧ (t.team m).groups = (s.team m).groups))) ∧
      (let stops := fun (k : BitVec 2) (hit : Nat × Team → Prop) (unsaved : Prop) (placed : State → Prop) =>
         let hits := Spec.reached s hit
         (unsaved ∨ (∃ m, hits m ∧ (s.team m).recPa = 0) → exec (.preempt d a k) s = answer u 0 10) ∧
         (¬ unsaved → (∀ m, hits m → (s.team m).recPa ≠ 0) →
           ((∃ m, hits m ∧ (s.team m).held = true ∧ (s.team m).state ≠ .saved) → exec (.preempt d a k) s = answer u 0 6) ∧
           ((∀ m, hits m → (s.team m).held = false ∧ (s.team m).state = .resident) →
             ∃ t, exec (.preempt d a k) s = .next t ∧ placed t ∧ ∀ m, hits m →
               (t.team m).halted = true ∧ (t.team m).held = true ∧ (t.team m).groups = (s.team m).groups))
       let grid := BitVec.ofNat 64 x
       (2 ^ 62 ≤ x → exec (.preempt d a 1) s = answer u 0 3 ∧ exec (.preempt d a 2) s = answer u 0 3) ∧
       (x < 2 ^ 62 → s.gridOf grid = none → exec (.preempt d a 1) s = answer u 0 3) ∧
       (x < 2 ^ 62 → ∀ l n, s.gridOf grid = some (l, n) →
         stops 1 (fun e => e.2.grid = grid) (n ≠ 0 ∧ (s.job (lrJob l)).savelen = 0)
           fun t => grid ∈ (t.col (handleCol grid)).heldGrids) ∧
       (x < 2 ^ 62 → stops 2 (fun e => e.2.core = x % 2 ^ 10 ∧ e.2.state ≠ .saved) False
           fun t => (t.core (x % 2 ^ 10)).heldPlacement = true))) ∧
    (∀ ts n, (s.host c).pending = some (.halt none ts n) →
      (∀ t ∈ ts, ∀ tm, tabFind t s.teams = some tm → tm.state = .saving ∨ tm.state = .saved) →
      exec (.preempt d a 0) s = .next (((u.writeOpd (dstU d) fun _ => Spec.counted n 0).modHost c fun h =>
        { h with pending := none }).advance))) ∧
  (∀ (s : State) (c : Nat) (d a : RegNum), s.cur = .host c → 1 ≤ (s.host c).pl.toNat →
    let os := [dstU d, srcU a]
    s.ready os = .ok () →
    let u := (s.readAll os).2
    let x := (nthLanes (s.readAll os).1 0 0).toNat % 2 ^ 64
    let answer := fun (v : State) (n st : Nat) => Host.Outcome.next (v.writeOpd (dstU d) fun _ => Spec.counted n st).advance
    (3 * 2 ^ 62 ≤ x → exec (.resume d a) s = .next (s.raise 2 0 0)) ∧
    (x < 2 ^ 62 → Spec.teamTarget s x = none → exec (.resume d a) s = answer u 0 3) ∧
    (∀ cl, x < 2 ^ 62 → Spec.teamTarget s x = some cl →
      ((∀ t ∈ s.clusterTeams cl, (s.team t).held = false) → exec (.resume d a) s = answer u 0 10) ∧
      ((∃ t ∈ s.clusterTeams cl, (s.team t).held = true) → (∀ t ∈ s.clusterTeams cl, (s.team t).state = .resident) →
        ∃ v, exec (.resume d a) s = answer v (s.clusterTeams cl).length 0 ∧
          ∀ t ∈ s.clusterTeams cl, (v.team t).held = false ∧ (v.team t).groups = (s.team t).groups)) ∧
    (let z := x % 2 ^ 62
     let grid := BitVec.ofNat 64 z
     let backHeld := grid ∈ (s.col (handleCol grid)).heldGrids
     let freed := fun (v : State) (hits : Nat → Prop) => ∀ m, hits m → (v.team m).held = false ∧ (v.team m).groups = (s.team m).groups
     let ofGrid := fun (e : Nat × Team) => e.2.grid = grid ∧ ∃ t ∈ s.clusterTeams (s.team e.1).cluster, (s.team t).held = true
     let ofCore := fun (e : Nat × Team) => e.2.held = true ∧ z % 2 ^ 10 ∈ e.2.heldCores
     (x / 2 ^ 62 = 1 → s.gridOf grid = none → exec (.resume d a) s = answer u 0 3) ∧
     (x / 2 ^ 62 = 1 → ∀ l n, s.gridOf grid = some (l, n) →
       (¬ backHeld → (∀ e ∈ s.teams, ¬ ofGrid e) → exec (.resume d a) s = answer u 0 10) ∧
       (backHeld → (∀ e ∈ s.teams, ¬ ofGrid e) → exec (.resume d a) s =
         answer (u.modCol (handleCol grid) fun q => { q with heldGrids := q.heldGrids.filter (· ≠ grid) }) n 0) ∧
       ((∃ e ∈ s.teams, ofGrid e) → (∀ m, Spec.reached s ofGrid m → (s.team m).state = .resident) →
         ∃ v i, exec (.resume d a) s = answer v i 0 ∧ grid ∉ (v.col (handleCol grid)).heldGrids ∧
           freed v (Spec.reached s ofGrid))) ∧
     (x / 2 ^ 62 = 2 →
       ((s.core (z % 2 ^ 10)).heldPlacement = false → (∀ e ∈ s.teams, ¬ ofCore e) → exec (.resume d a) s = answer u 0 10) ∧
       ((s.core (z % 2 ^ 10)).heldPlacement = true ∨ (∃ e ∈ s.teams, ofCore e) →
         (∀ m, Spec.reached s ofCore m → (s.team m).state = .resident) →
         ∃ v i, exec (.resume d a) s = answer v i 0 ∧ (v.core (z % 2 ^ 10)).heldPlacement = false ∧
           freed v (Spec.reached s ofCore)))))

/-- R243: in a range of whole granules of installed HBM, `mfree` makes every byte read 0 and empties the caches of what was not
freed already, where it has no effect; `mused` brings freed granules back as zeros; `rgrel` empties the caches and releases the
records of the regions' homes; a range that is not whole is an illegal operand. That `mfree` leaves the poison of the lines is log
78's reading of R345. -/
def Obligations.GranulesAreFreedAndReused : Prop :=
  ∀ (s : State) (c : Nat) (a b : RegNum), s.cur = .host c → 1 ≤ (s.host c).pl.toNat →
    let os := [srcU a, srcU b]
    s.ready os = .ok () →
    let x := (nthLanes (s.readAll os).1 0 0).toNat % 2 ^ 64
    let n := (nthLanes (s.readAll os).1 1 0).toNat % 2 ^ 64
    let inside := fun pa => x ≤ pa ∧ pa < x + n
    let uncached := fun (t : State) => ∀ l, inside (128 * l) →
      (tabFind l t.directory = none) ∧ (∀ e ∈ t.cores, tabFind l e.2.l1 = none ∧ tabFind l e.2.roCache = none) ∧
      (∀ e ∈ t.cols, tabFind l e.2.host.l1 = none ∧ tabFind l e.2.coh.lines = none)
    let emptied := fun (t : State) => ∀ l, inside (128 * l) → s.isFreed (128 * l) = false →
      (tabFind l t.directory = none) ∧ (∀ e ∈ t.cores, tabFind l e.2.l1 = none ∧ tabFind l e.2.roCache = none) ∧
      (∀ e ∈ t.cols, tabFind l e.2.host.l1 = none ∧ tabFind l e.2.host.icache = none ∧ tabFind l e.2.coh.lines = none)
    (x % 65536 ≠ 0 ∨ n % 65536 ≠ 0 ∨ n = 0 ∨ 2 ^ 40 < x + n →
      exec (.mfree a b) s = .next (s.raise 2 0 0) ∧ exec (.mused a b) s = .next (s.raise 2 0 0) ∧
      exec (.rgrel a b) s = .next (s.raise 2 0 0)) ∧
    (x % 65536 = 0 → n % 65536 = 0 → 0 < n → x + n ≤ 2 ^ 40 → (∀ k, k < 16 → (s.stack k).range31gone = false) →
      (∃ t, exec (.mfree a b) s = .next t ∧ (∀ pa, inside pa → t.isFreed pa = true ∧ t.physByte pa = 0) ∧ emptied t ∧
        t.poison = s.poison ∧ ((∀ pa, inside pa → s.isFreed pa = true) → t = State.advance (s.readAll os).2) ∧
        (∀ pa, ¬ inside pa → t.isFreed pa = s.isFreed pa) ∧
        (∀ pa, ¬ inside pa →
          (∀ w g, w < 8 → g % 65536 = 0 → inside g → pa < s.regionEntry w g ∨ s.regionEntry w g + 4 ≤ pa) →
          t.physByte pa = s.physByte pa) ∧
        (t.host c).pc = (s.host c).pc + 4) ∧
      (∃ t, exec (.mused a b) s = .next t ∧ (∀ pa, inside pa → t.isFreed pa = false) ∧
        (∀ pa, ¬ inside pa → t.isFreed pa = s.isFreed pa) ∧ (∀ pa, t.physByte pa = s.physByte pa) ∧
        (t.host c).pc = (s.host c).pc + 4) ∧
      (∃ t, exec (.rgrel a b) s = .next t ∧ uncached t ∧ t.freed = s.freed ∧
        (Memory.wf s.mem = true → ∀ w g, w < 8 → g % 65536 = 0 → inside g → s.homeSlice w g ≠ none →
          ∀ i, i < 4 → Spec.stores s (s.regionEntry w g) → Spec.stores s (s.regionEntry w g + i) →
            t.physByte (s.regionEntry w g + i) = 0) ∧
        (∀ pa, (∀ w g, w < 8 → g % 65536 = 0 → inside g → pa < s.regionEntry w g ∨ s.regionEntry w g + 4 ≤ pa) →
          t.physByte pa = s.physByte pa) ∧
        (t.host c).pc = (s.host c).pc + 4))

/-! ### Steps, reset and invariants -/

/-- R70 to R77: words written out from the spec's encodings decode to their instructions. -/
def Obligations.WordsOfTheSpecDecode : Prop :=
  ∀ e ∈ Spec.words, decode e.1 = .ok e.2 ∧ encode e.2 = some e.1

/-- When the word at the issuing context's address decodes to an instruction whose fields are legal, a step is that
instruction, in the state that fetching leaves (only cached translations and homes differ, and a host core's instruction
cache). For a group the instruction is that of the split to which the slot of its quarter goes (R285, R286). A host core without
translation fetches the four bytes at its pc, from its instruction cache where that holds the line. An event at the head of the agenda is that event; an issue there is an issue of its context.

That a host core of no valid job fetches at the physical address is the model's choice (log 7), its instruction cache and what a
group fetches are log 17's, and the agenda, which stands for every order that the spec leaves to the machine, is log 4's.

The instruction that an issue runs is run in a context that exists: the premise `live` of other statements holds there. -/
def Obligations.StepRunsTheDecodedInstruction : Prop :=
  (∀ (s t : State) (w : Word) (i : Instr), s.agenda = [] → decode w = .ok i → i.fieldReason = none →
    (∀ c, s.cur = .host c → Spec.hostIssues s c → s.fetch = .ok (w, t) → step s = exec i t ∧ Spec.hostFetched s c t) ∧
    (∀ tm, s.cur = .seq tm → Spec.runs s tm → (s.team tm).seq ≠ none → (s.seqr tm).wait.passive = false →
      let u := Spec.seqIssue s tm
      u.fetch = .ok (w, t) → step s = exec i t ∧ Spec.onlyTlb u t) ∧
    (∀ tm g p e u, s.cur = .group tm g p → Spec.groupIssues s tm g e u →
      let v := Spec.groupIssue u e
      v.fetch = .ok (w, t) → step s = exec i t ∧ Spec.onlyTlb v t)) ∧
  (∀ (s : State) (c : Nat), s.cur = .host c → (s.job (s.ctxJob s.cur)).ctl.getLsbD 63 = false →
    let pa := (s.host c).pc.toNat % 2 ^ 52
    s.place pa = .hbm → pa % 4 = 0 →
    ∃ x u t, s.access (s.requester s.cur) .fetch (s.host c).pc.toNat = .ok (x, u) ∧ x.pa = pa ∧
      (tabFind (pa / 128) (s.host c).icache = none →
        s.fetch = .ok (BitVec.ofNat 32 (ofBytes (u.physRead pa 4)), t)) ∧
      ∀ bs, tabFind (pa / 128) (s.host c).icache = some bs → s.cacheable x = true →
        s.fetch = .ok (BitVec.ofNat 32 (ofBytes ((bs.drop (pa % 128)).take 4)), u)) ∧
  (∀ (s : State) (i : Instr) (rest : List Agenda), s.agenda = .event i :: rest → isEvent i = true →
    step s = exec i { s with agenda := rest }) ∧
  (∀ (s : State) (c : Ctx) (rest : List Agenda), s.agenda = .issue c :: rest →
    step s = stepIssue { s with agenda := rest, cur := c }) ∧
  (∀ (s t : State) (i : Instr), s.prepare = .run i t → Spec.live t)

/-- R31: of two splits of a group that are valid, wait on nothing and agree in pc, window base and loops, the lower-numbered
takes the lanes of both and the other's entry is freed; splits that differ in any of these stay as they are. After the
confluence of an issue boundary no two entries meet. R285, R286: a slot goes to a ready group that no other ready group of the
quarter comes before; urgent groups come first, the longest ready first; then the higher PRI, and the longest ready within one
PRI; and in it to the first ready split after the one that issued last. That an entry which moves in takes part in the same
confluence is the model's choice (log 97), and so is the count of readiness by issue slots and the first team and number among
equals (log 43). -/
def Obligations.SplitsThatMeetMerge : Prop :=
  (∀ (g : Group) (i j : Nat), i < j → j < g.splits.length →
    let p := g.splits.getD i Split.none
    let q := g.splits.getD j Split.none
    (Spec.meet p q →
      (g.mergePair i j).splits.getD i Split.none = { p with mask := p.mask ||| q.mask } ∧
      (g.deferred = [] → (g.mergePair i j).splits.getD j Split.none = Split.none) ∧
      (∀ k, k ≠ i → k ≠ j → (g.mergePair i j).splits.getD k Split.none = g.splits.getD k Split.none) ∧
      (g.mergePair i j).rows = g.rows ∧ (g.mergePair i j).k = g.k ∧ (g.mergePair i j).preds = g.preds) ∧
    (¬ Spec.meet p q → g.mergePair i j = g)) ∧
  (∀ (g : Group) (i j : Nat), i < j → j < 4 →
    ¬ Spec.meet (g.confluence.splits.getD i Split.none) (g.confluence.splits.getD j Split.none)) ∧
  (∀ (s : State) (core q : Nat),
    let ready := fun e => e ∈ s.quarterGroups core q ∧ s.slotReady e.1 e.2 = true
    (∀ e, s.chosenGroup core q = some e → ready e ∧ ∀ f, ready f → ¬ Spec.goesBefore s f e) ∧
    (s.chosenGroup core q = none → ∀ f, ¬ ready f)) ∧
  (∀ (s : State) (t g i : Nat), 1 ≤ i → i ≤ 4 → s.splitReady t g (((s.group t g).lastIssued + i) % 4) = true →
    (∀ k, 1 ≤ k → k < i → s.splitReady t g (((s.group t g).lastIssued + k) % 4) = false) →
    s.chosenSplit t g = ((s.group t g).lastIssued + i) % 4)

/-- The memory of the package keeps its canonical form: addresses strictly rising, and no byte listed that reads 0. -/
def Obligations.StepsKeepMemoryCanonical : Prop :=
  ∀ s t : State, Memory.wf s.mem = true → step s = .next t → Memory.wf t.mem = true

/-- R235: no step brings a host core to a level that is none, nor saves one. -/
def Obligations.StepsKeepHostLevelsLegal : Prop :=
  ∀ s t : State, Spec.modesLegal s → step s = .next t → Spec.modesLegal t

/-- The state after reset meets both invariants, and has the values that R225, R234, R235, R329, R335 and R359 give: every host
core at machine level with PPL 3 and interrupts off, `HTCMP` all ones, `HDELEG` 0, `TRSIZE` 4; islands at point 15; governors at
level 0 with cap 9; boot complete; no team, no translation, no byte of HBM, no poison. That `JOBCTL` is 0 is the model's choice (log 3), and that the
machine starts after boot is its reading of reset (log 2). -/
def Obligations.ResetIsAsTheSpecGivesIt : Prop :=
  Memory.wf State.reset.mem = true ∧ Spec.modesLegal State.reset ∧
  (∀ c, let h := State.reset.host c
    h.pl = 3 ∧ h.ppl = 3 ∧ h.ie = false ∧ h.pie = false ∧ h.htcmp = BitVec.allOnes 64 ∧ h.hdeleg = 0 ∧ h.q6 = [] ∧
    h.stopped = false) ∧
  (∀ j, (State.reset.job j).trsize = 4 ∧ (State.reset.job j).ctl = 0) ∧
  (∀ i, (State.reset.island i).point = 15 ∧ (State.reset.island i).target = 15) ∧
  (∀ c, (State.reset.col c).gov.level = 0 ∧ (State.reset.col c).gov.thcap = 9 ∧ (State.reset.col c).gseq = 0 ∧
    State.reset.cyc c = 0) ∧
  State.reset.hertor.step = 8 ∧ State.reset.hertor.failure = 0 ∧ State.reset.teams = [] ∧ State.reset.tlb = [] ∧
  State.reset.poison = [] ∧ ∀ pa, pa < 2 ^ 40 → State.reset.physByte pa = 0

/-! ### Events: accesses and caches -/

/-- R145, R155, R159, R174, R264: a load, store, `cctl` or atomic of a group or sequencer that nothing issued before holds back
is performed: a load writes its destination, a store its bytes, an atomic both, and the access leaves the list; one held back
stays. A load or atomic that meets poison makes a trap due, which is taken before the group's next issue, as an overwrite is.

R249, R252, R253: a core's write, for an access that wants it, leaves it the one holder of the line; its read makes it a holder
that owns nothing dirty; a write-back leaves no dirty copy at the slice; an eviction of a snoop-filter entry invalidates every copy it covers. Data are
not touched by any of them. -/
def Obligations.AccessesAreDoneAndLinesMove : Prop :=
  (∀ (s : State) (c : Ctx) (n : Nat) (a : Access), Spec.onCore s c → Spec.due s c n a → a.kind = .load → a.peer = false →
    a.reissue = false → a.typed = false → a.ro = false →
    ((∀ l ∈ a.lanes, s.poisonIn (s.locPa l.loc) a.size = none) →
      ∃ w t, exec (.loadReturn c n) s = .next t ∧ Spec.ended n c s t ∧ t.mem = w.mem ∧
        Spec.onlyLines (towerOfCore (s.ctxCore c)) s w ∧ Spec.delivered c a (Spec.loaded w a) s t) ∧
    (∀ tm g p, c = .group tm g p → ∀ pre l post line, a.lanes = pre ++ l :: post →
      (∀ k ∈ pre, s.poisonIn (s.locPa k.loc) a.size = none) → s.poisonIn (s.locPa l.loc) a.size = some line →
      exec (.loadReturn c n) s = .next (s.modGroup tm g fun x =>
        { x with posts := x.posts ++ [Spec.postOf a 8 (BitVec.ofNat 64 line)] }))) ∧
  (∀ (s : State) (c : Ctx) (n : Nat) (a : Access), Spec.onCore s c → Spec.due s c n a → a.kind = .store → a.peer = false →
    ∃ t, exec (.storePerformed c n) s = .next t ∧ Spec.ended n c s t ∧
      (∀ pa, (∀ l ∈ a.lanes, ¬ Spec.laneBytes s a l pa) → Spec.noHome s c pa → t.physByte pa = s.physByte pa) ∧
      (Memory.wf s.mem = true → ∀ pre l post, a.lanes = pre ++ l :: post → ∀ i, i < a.size →
        Spec.stores s (s.locPa l.loc + i) → Spec.stores s (s.locPa l.loc) → Spec.noHome s c (s.locPa l.loc + i) →
        (∀ k ∈ post, ¬ Spec.laneBytes s a k (s.locPa l.loc + i)) →
        (t.physByte (s.locPa l.loc + i)).toNat = l.data.toNat / 256 ^ i % 256)) ∧
  (∀ (s : State) (c : Ctx) (n : Nat) (a : Access), Spec.onCore s c → Spec.due s c n a → a.kind = .maint →
    ∃ t, exec (.storePerformed c n) s = .next t ∧ Spec.ended n c s t ∧ t.mem = s.mem ∧
      ∀ l ∈ a.lanes, Spec.maintained a.op.toNat (s.ctxCore c) (s.locPa l.loc / 128) t) ∧
  (∀ (s : State) (c : Ctx) (n : Nat) (a : Access), Spec.onCore s c → Spec.due s c n a → a.kind = .atomic → a.peer = false →
    let r := s.atomicLanes (s.ctxCore c) a a.lanes
    ((∀ l ∈ a.lanes, s.poisonIn (s.locPa l.loc) a.size = none) →
      ∃ t, exec (.atomicReturn c n) s = .next t ∧ Spec.ended n c s t ∧ t.mem = r.2.mem ∧
        Spec.delivered c a (fun i => ((r.1.find? fun e => e.1 = i).map (·.2)).getD 0) s t) ∧
    (∀ tm g p, c = .group tm g p → ∀ pre l post line, a.lanes = pre ++ l :: post →
      (∀ k ∈ pre, s.poisonIn (s.locPa k.loc) a.size = none) → s.poisonIn (s.locPa l.loc) a.size = some line →
      exec (.atomicReturn c n) s = .next (r.2.modGroup tm g fun x =>
        { x with posts := x.posts ++ [Spec.postOf a 8 (BitVec.ofNat 64 line)] }))) ∧
  (∀ (s : State) (c : Ctx) (n : Nat) (a e : Access) (pre post : List Access), (s.ctxRegs c).outs = pre ++ a :: post →
    a.id = n → (∀ x ∈ pre, x.id ≠ n) → e ∈ pre → Spec.after s (s.ctxJob c) e a →
    exec (.loadReturn c n) s = .next s ∧ exec (.storePerformed c n) s = .next s ∧ exec (.atomicReturn c n) s = .next s) ∧
  (∀ (s : State) (tm g q : Nat) (x : PostTrap) (rest : List PostTrap), Spec.runs s tm → g < (s.team tm).groups.length →
    (s.group tm g).posts = x :: rest → (s.split tm g x.split).valid = true →
    (s.group tm g).regs.trap.tcause.getLsbD 31 = false → lrTvec (s.team tm).launch ≠ 0 →
    ∃ t, exec (.memoryPoison (.group tm g q)) s = .next t ∧
      Spec.groupInVector tm g x.split
        { tcause := BitVec.ofNat 32 (2 ^ 31 + x.cause.toNat), tinfo := x.info, epc := x.pc.setWidth 64,
          emask := (s.split tm g x.split).mask, respc := (s.split tm g x.split).pc.setWidth 64 }
        (fun y => { y with posts := rest, regs := { y.regs with outs := y.regs.outs.filter fun a => a.id ≠ x.accessId } }) s t) ∧
  (∀ (s : State) (tm g p : Nat) (info : DWord), Spec.runs s tm → g < (s.team tm).groups.length →
    (s.group tm g).overwrite = some info → (s.group tm g).nextSplit = some p →
    (s.group tm g).regs.trap.tcause.getLsbD 31 = false → lrTvec (s.team tm).launch ≠ 0 →
    ∃ t, exec (.overwrite tm g) s = .next t ∧
      Spec.groupInVector tm g p (Spec.trapRegs 9 info (s.split tm g p).pc (s.split tm g p).mask)
        (fun y => { y with overwrite := none }) s t) ∧
  (∀ (s : State) (c : Ctx) (a : Access) (l : LaneAcc) (core line : Nat) (write : Bool), Spec.onCore s c → s.ctxCore c = core →
    a ∈ (s.ctxRegs c).outs → (write = true → a.kind = .store ∨ a.kind = .atomic) → l ∈ a.lanes → l.ro = true →
    s.locPa l.loc / 128 = line → s.place (128 * line) = .hbm ∨ s.place (128 * line) = .window →
    (s.core core).l1.length < 2048 →
    (write = true → ∃ t, exec (.homeRequest core line true) s = .next t ∧
      tabFind line (t.core core).l1 = some (if (s.gaugeAt (128 * line)).isSome then .s else .m) ∧
      (tabFind line (s.core core).l1 ≠ some .m → ∀ d, d < 1024 → d ≠ core → tabFind line (t.core d).l1 = none) ∧
      (∀ pa, pa < s.regionEntry (core / 128) (128 * line) ∨ s.regionEntry (core / 128) (128 * line) + 4 ≤ pa →
        t.physByte pa = s.physByte pa)) ∧
    (∀ h, write = false → s.homeSlice (core / 128) (128 * line) = some h → core ∉ (s.snoopOf h line).holders →
      ∃ t, exec (.homeRequest core line false) s = .next t ∧ t.mem = s.mem ∧
        (tabFind line (t.core core).l1 = some .s ∨ tabFind line (t.core core).l1 = some .e) ∧
        core ∈ (t.snoopOf h line).holders)) ∧
  (∀ (s : State) (col line : Nat) (x : Moesi), tabFind line (s.col col).coh.lines = some x → x = .m ∨ x = .o →
    (s.snoopOf col line).owner = none →
    ∃ t, exec (.writeBack col line) s = .next t ∧ t = { s with cols := t.cols, directory := t.directory } ∧
      tabFind line (t.col col).coh.lines = (if (s.snoopOf col line).holders = [] then none else some .s) ∧
      ∀ l, l ≠ line → tabFind l (t.col col).coh.lines = tabFind l (s.col col).coh.lines ∧
        tabFind l t.directory = tabFind l s.directory) ∧
  (∀ (s : State) (col line : Nat),
    ∃ t, exec (.snoopFilterEviction col line) s = .next t ∧
      t = { s with cols := t.cols, cores := t.cores, directory := t.directory } ∧
      tabFind line (t.col col).coh.snoop = none ∧
      ∀ c ∈ (s.snoopOf col line).holders, tabFind line (t.l1Of c) = none)


/-! ### Events: messages -/

/-- R27, R165, R168, R171, R174, R176, R181, R212, R311: what a message does at its destination interface: a put fills armed
registers and reports NOTARMED or OVERWRITE otherwise; a gauge put, a remote store and a copy chunk write their bytes; an arrival
arrives at its barrier; a message is queued or BUSY; a remote atomic and load answer with what they read. Each is decided once; a
capability that fails its checks is DENIED or STALE; a number already decided is answered from the kept outcome, and one written
off is discarded. -/
def Obligations.MessagesAreTakenAtTheirDestination : Prop :=
  (∀ (s : State) (m : Msg) (tm : Nat), Spec.takenNow s m → m.cls = .rput → m.toGauge = false → Spec.names s m tm →
    let gi := Spec.bits m.cap 58 5
    let g := s.group tm gi
    let code : BitVec 4 := if ∃ r ∈ Spec.putRegs m, Spec.putState m g r = .plain then 2
      else if ∃ r ∈ Spec.putRegs m, ∃ q, Spec.putState m g r = .armedFull q then 1 else 0
    gi < (s.team tm).groups.length →
    ∃ t, exec (.putArrival m.id) s = .next t ∧ Spec.decided m code 0 false 0 true s t ∧ t.mem = s.mem ∧
      (code = 0 → ∀ r ∈ Spec.putRegs m, ∃ q, Spec.putState m g r = .armedEmpty q ∧
        Spec.putState m (t.group tm gi) r = .armedFull q ∧
        (Spec.bits m.cap 124 4 = 1 → ∀ l, l < 32 → laneOf ((t.group tm gi).row r) l =
          if m.mask.getLsbD l then BitVec.ofNat 32 ((m.lanes.getD l 0).toNat / 2 ^ (32 * (r - (Spec.bits m.cap 68 10 + m.reg.toNat))))
          else laneOf (g.row r) l) ∧
        (Spec.bits m.cap 124 4 ≠ 1 → tabGet 0 r (t.group tm gi).k.vals = m.lanes.headD 0)) ∧
      (code = 1 → t.group tm gi = g.overwritten (Spec.bits m.cap 68 10 + m.reg.toNat) m.snode.toNat (m.cap.getLsbD 53)) ∧
      (code = 2 → t.group tm gi = g) ∧ ∀ u, u ≠ tm → t.team u = s.team u) ∧
  (∀ (s : State) (m : Msg) (tm : Nat), Spec.takenNow s m → m.cls = .rput → m.toGauge = true → Spec.names s m tm →
    let w := if m.wide then 8 else 4
    let block := 256 * Spec.bits m.cap 65 13
    let at_ := fun l => s.vaultPa tm (block + 256 + 256 * m.reg.toNat + w * l)
    ∃ t, exec (.rputGArrival m.id) s = .next t ∧ Spec.decided m 0 0 false 0 true s t ∧ (∀ u, t.team u = s.team u) ∧
      t.counts = s.counts ++ [.vault tm block (w * (lanesOf m.mask).length)] ∧
      (∀ pa, (∀ l ∈ lanesOf m.mask, pa < at_ l ∨ at_ l + w ≤ pa) → t.physByte pa = s.physByte pa) ∧
      (Memory.wf s.mem = true → ∀ l ∈ lanesOf m.mask, ∀ i, i < w → Spec.stores s (at_ l) → Spec.stores s (at_ l + i) →
        (t.physByte (at_ l + i)).toNat = (m.lanes.getD l 0).toNat / 256 ^ i % 256)) ∧
  (∀ (s : State) (m : Msg) (tm : Nat), Spec.takenNow s m → m.cls = .barRarv ∨ m.cls = .gauge → Spec.names s m tm →
    let n := Spec.bits m.cap 68 8
    ∃ t, exec (.barrierArrival m.id) s = .next t ∧ Spec.decided m 0 0 false 0 true s t ∧ t.mem = s.mem ∧
      ∀ k, tabGet Barrier.zero k (t.team tm).barriers =
        if k = n then Spec.arrived (tabGet Barrier.zero n (s.team tm).barriers) else tabGet Barrier.zero k (s.team tm).barriers) ∧
  (∀ (s : State) (m : Msg) (tm : Nat), Spec.takenNow s m → m.cls = .msgs → Spec.names s m tm →
    (32 ≤ (s.team tm).q4.length → ∃ t, exec (.messageArrival m.id) s = .next t ∧ Spec.decided m 6 0 false 0 true s t ∧
      t.teams = s.teams ∧ t.mem = s.mem) ∧
    ((s.team tm).q4.length < 32 → ∃ t q, exec (.messageArrival m.id) s = .next t ∧ Spec.decided m 0 0 false 0 false s t ∧
      (t.team tm) = { s.team tm with q4 := (s.team tm).q4 ++ [q] } ∧ q.payload = m.lanes.map (fun x => x.setWidth 32) ∧
      q.header = m.header.setWidth 32 ∧ q.snode = m.snode.setWidth 32 ∧ q.score = m.score.setWidth 32 ∧ t.mem = s.mem)) ∧
  (∀ (s : State) (m : Msg), Spec.takenNow s m → m.cls ∈ [MsgClass.rput, .barRarv, .gauge, .msgs] →
    let j := s.job m.job.toNat
    let good := m.cap.toNat % 2 ^ 32 = capTag (j.key0.toNat + 2 ^ 64 * j.key1.toNat) (m.cap.toNat / 2 ^ 32)
    (j.ctl.getLsbD 63 = false → ∃ t, exec (Spec.arrival m) s = .next t ∧ Spec.decided m 10 0 false 0 true s t ∧
      t.teams = s.teams ∧ t.mem = s.mem) ∧
    (j.ctl.getLsbD 63 = true → ¬ good → j.ctl.toNat / 2 ^ 32 % 2 ^ 16 = 0 → ∃ t, exec (Spec.arrival m) s = .next t ∧
      Spec.decided m 10 0 false 0 true s t ∧ (t.job m.job.toNat).mcfail = j.mcfail + 1 ∧ t.teams = s.teams ∧ t.mem = s.mem) ∧
    (j.ctl.getLsbD 63 = true → good → s.findTeam (Spec.bits m.cap 94 10) (Spec.bits m.cap 78 16) = none →
      ∃ t, exec (Spec.arrival m) s = .next t ∧ Spec.decided m 3 0 false 0 true s t ∧ t.teams = s.teams ∧ t.mem = s.mem)) ∧
  (∀ (s : State) (m : Msg), Spec.takenNow s m → m.cls ∈ [MsgClass.stp, .atomp, .ldp, .chunk] → m.phys = false →
    m.pool = false →
    let r := engineFor m.job.toNat (dieVia m.dtwr.toNat)
    let j := s.job m.job.toNat
    (j.ctl.getLsbD 63 = false → ∃ t, exec (Spec.arrival m) s = .next t ∧
      Spec.decided m 10 0 false 0 (decide (m.cls ≠ .ldp)) s t ∧ t.mem = s.mem) ∧
    (j.ctl.getLsbD 63 = true → j.fwctl.getLsbD 0 = false →
      (m.cls = .stp → ∀ x u, s.access r .write m.addr = .ok (x, u) →
        ∃ t, exec (.stpArrival m.id) s = .next t ∧ Spec.decided m 0 0 false 0 true s t ∧ t.teams = s.teams ∧
          Spec.bytesKept x.pa m.bytes.length u t ∧
          (Memory.wf u.mem = true → Spec.stores u x.pa → ∀ i, i < m.bytes.length → Spec.stores u (x.pa + i) →
            t.physByte (x.pa + i) = m.bytes.getD i 0)) ∧
      (m.cls = .atomp → ∀ x u, s.access r .atomic m.addr = .ok (x, u) →
        let l := { LaneAcc.at 0 m.addr (.phys x.pa) with data := BitVec.ofNat 128 (ofBytes m.bytes), cmp := m.cmp }
        let y := u.atomicLane m.size m.op.toNat l
        (u.isPoisoned x.pa = false → ∃ t, exec (.atompArrival m.id) s = .next t ∧
          Spec.decided m 0 0 false (BitVec.ofNat 128 y.1) true s t ∧ t.mem = y.2.mem ∧ t.teams = s.teams) ∧
        (u.isPoisoned x.pa = true → ∃ t, exec (.atompArrival m.id) s = .next t ∧ Spec.decided m 0 0 true 0 true s t ∧
          t.mem = u.mem ∧ t.teams = s.teams)) ∧
      (m.cls = .ldp → ∀ x u, s.access r .read m.addr = .ok (x, u) →
        ∃ t, exec (.ldpArrival m.id) s = .next t ∧
          Spec.decided m 0 0 (u.poisonIn x.pa m.size).isSome (BitVec.ofNat 128 (ofBytes (u.physRead x.pa m.size))) false s t ∧
          t.mem = u.mem ∧ t.teams = s.teams) ∧
      (∀ (ty : AccType), (m.cls = .stp ∧ ty = .write) ∨ (m.cls = .atomp ∧ ty = .atomic) ∨ (m.cls = .ldp ∧ ty = .read) →
        ∀ sub, s.access r ty m.addr = .error (.perm sub) →
          ∃ t, exec (Spec.arrival m) s = .next t ∧
            Spec.decided m 10 (BitVec.ofNat 4 sub) false 0 (decide (m.cls ≠ .ldp)) s t ∧ t.mem = s.mem) ∧
      (m.cls = .chunk → ∀ a n : DWord, m.lanes = [a, n] → m.bytes.length = n.toNat → a.toNat % 65536 + n.toNat ≤ 65536 →
        ∀ x u, s.access r .write a.toNat = .ok (x, u) →
        ∃ t, exec (.tcopyChunkArrival m.id) s = .next t ∧ Spec.decided m 0 0 false 0 true s t ∧ t.teams = s.teams ∧
          Spec.bytesKept x.pa n.toNat u t ∧
          (Memory.wf u.mem = true → Spec.stores u x.pa → ∀ i, i < n.toNat → Spec.stores u (x.pa + i) →
            t.physByte (x.pa + i) = m.bytes.getD i 0) ∧
          (m.bad = false → t.poison = s.poison) ∧
          (m.bad = true → ∀ i, i < n.toNat → (x.pa + i) / 128 ∈ t.poison)))) ∧
  (∀ (s : State) (m : Msg) (o : Outcome) (pre post : List Outcome), Spec.arrived? s m → s.outcomes = pre ++ o :: post →
    o.stream = recvStream m → o.seqNo = m.seqNo → (∀ e ∈ pre, ¬ (e.stream = o.stream ∧ e.seqNo = o.seqNo)) →
    ∃ t, exec (Spec.arrival m) s = .next t ∧ Spec.gone m s t ∧ Spec.onlyWire s t ∧
      (∀ k, o.away = some k → Spec.answers m { id := m.id, kind := k, xlate := none, va := o.va } s t) ∧
      (∀ st, o.away = none → o.status = some st → Spec.answers m { id := m.id, kind := .kept st, xlate := none } s t) ∧
      (o.away = none → o.status = none → t = { s with inbound := t.inbound })) ∧
  (∀ (s : State) (m : Msg), Spec.arrived? s m → Spec.undecided s m → ¬ Spec.inTurn s m →
    exec (Spec.arrival m) s = .next s)

/-- R166, R169, R309 to R312, R320, R321: at the sender, an acknowledgement completes the message's operation; without one it is
sent once more after 50 µs and WRITEOFF goes after 100 µs, and the operation is LOST when that is accepted or after 1 ms. A
redirected or retranslated message is replayed with a new number and is not counted again, after the earlier ones for its line
(log 99); of a copy chunk the pieces in the forwarded page go to the new place, and the others to the old one (R212; log 111).

R303: an output that has a packet with credit at the head of an input sends one of those: a MGMT packet if there is one, else the
urgent one that arrived first, else one of the highest class; it takes a credit of its channel and goes on at the next router. A
packet that has waited at the head of an input until its age is 255 stays urgent.

R299, R300, R302: every hop is over a link of the die; a minimal route there takes at most 3 hops, one over an intermediate
quadrant at most 5; between towers a packet goes row first, then along the target row.

That a message sent again after a redirect starts its times anew (log 64), that it waits for the earlier ones of its line (log 99),
which MGMT packet goes first of several (log 112), how kept outcomes end a request (log 114) and that a fifth redirect counts in CON
at the sending interface (log 105) are the model's choices. -/
def Obligations.MessagesEndOnceAtTheirSender : Prop :=
  (∀ (s : State) (n : Nat) (x : SentMsg) (a : Ack) (st sub : BitVec 4) (bad : Bool) (data : BitVec 128),
    Spec.answered s n x a → a.kind = .decided st sub bad data → a.xlate = none →
    (∀ c k, x.comp = .token c k → Spec.onCore s c → ∃ t, exec (.messageAck n) s = .next t ∧ Spec.unsent n s t ∧
      Spec.tokenEnds c k st s t ∧ t.mem = s.mem) ∧
    (∀ c id l, x.comp = .access c id l → Spec.onCore s c → ∃ t, exec (.messageAck n) s = .next t ∧ Spec.unsent n s t ∧
      t.mem = s.mem ∧ (t.ctxRegs c).outs = (s.ctxRegs c).outs.map fun y => if y.id = id then
        { y with lanes := y.lanes.map fun z => if z.lane = l then
            { z with value := data, result := if st ≠ 0 then .refused sub else if bad then .poison else .ok } else z } else y)) ∧
  (∀ (s : State) (n : Nat) (x : SentMsg), Spec.waits s n x →
    (x.resent = false → x.first + 50000 ≤ s.now → ∃ t, exec (.retransmit n) s = .next t ∧
      Spec.onlyWire s t ∧ t.acks = s.acks ∧
      t.sent = (s.sent.map fun y => if y.msg.id = n then { y with resent := true, port := s.pickPort x.msg x.port } else y) ∧
      (x.msg.dnode ≠ s.node → s.portsFor x.msg.stwr.toNat x.msg.dnode x.port ≠ [] → s.pickPort x.msg x.port ≠ x.port) ∧
      t.inbound = if x.msg.dnode = s.node then s.inbound ++ [x.msg] else s.inbound) ∧
    (x.resent = true ∨ s.now < x.first + 50000 → exec (.retransmit n) s = .next s) ∧
    (x.first + 100000 ≤ s.now → x.writeoffs = 0 ∨ x.lastWriteoff + 50000 ≤ s.now → ∃ t, exec (.writeoff n) s = .next t ∧
      Spec.onlyWire s t ∧ t.acks = s.acks ∧
      t.sent = (s.sent.map fun y => if y.msg.id = n then
        { y with writeoffs := y.writeoffs + 1, lastWriteoff := s.now } else y) ∧
      t.inbound = if x.msg.dnode = s.node then s.inbound ++ [{ x.msg with writeoff := true }] else s.inbound) ∧
    (x.first + 1000000 ≤ s.now → ∀ c k, x.comp = .token c k → Spec.onCore s c →
      ∃ t, exec (.peerWriteoff n) s = .next t ∧ Spec.unsent n s t ∧ Spec.lostOne x.msg s t ∧
        Spec.lossLogged x.msg true false s t ∧ Spec.tokenEnds c k 11 s t ∧ t.mem = s.mem)) ∧
  (∀ (s : State) (w : Msg) (pre post : List Msg), s.inbound = pre ++ w :: post → w.writeoff = true →
    (∀ e ∈ pre, e.id = w.id → e.writeoff = false) →
    (Spec.undecided s w → ∃ t, exec (.writeoffArrival w.id) s = .next t ∧
      (∀ e ∈ t.inbound, ¬ (recvStream e = recvStream w ∧ e.seqNo = w.seqNo)) ∧
      { stream := recvStream w, seqNo := w.seqNo, status := none, away := none } ∈ t.outcomes ∧
      Spec.answers w { id := w.id, kind := .accepted, xlate := none } s t ∧ t.mem = s.mem ∧ t.teams = s.teams) ∧
    (∀ o pre post, s.outcomes = pre ++ o :: post → o.stream = recvStream w → o.seqNo = w.seqNo →
      (∀ e ∈ pre, ¬ (e.stream = o.stream ∧ e.seqNo = o.seqNo)) → ∀ st, o.status = some st →
      ∃ t, exec (.writeoffArrival w.id) s = .next t ∧ Spec.gone w s t ∧
        Spec.answers w { id := w.id, kind := .performed st, xlate := none } s t ∧ Spec.onlyWire s t)) ∧
  (∀ (s : State) (n : Nat) (x : SentMsg) (a : Ack) (c : Ctx) (k : Nat), Spec.answered s n x a → x.comp = .token c k →
    Spec.onCore s c →
    (a.kind = .accepted → ∃ t, exec (.writeoffAnswer n) s = .next t ∧ Spec.unsent n s t ∧ Spec.lostOne x.msg s t ∧
      Spec.lossLogged x.msg false false s t ∧ Spec.tokenEnds c k 11 s t ∧ t.mem = s.mem) ∧
    (∀ st, a.kind = .performed st → x.msg.cls ≠ .ldp → x.msg.cls ≠ .atomp →
      ∃ t, exec (.writeoffAnswer n) s = .next t ∧ Spec.unsent n s t ∧
        (∀ w j, (t.towerJob w j).lost = (s.towerJob w j).lost) ∧
        Spec.lossLogged x.msg false true s t ∧ Spec.tokenEnds c k st s t ∧ t.mem = s.mem)) ∧
  (∀ (s : State) (n : Nat) (x : SentMsg) (a : Ack), Spec.answered s n x a → Spec.firstOut s x →
    (∀ node space addr, a.kind = .redirect node space addr → a.xlate = none → x.msg.redirects < 4 → x.msg.cls ≠ .chunk →
      ∃ t m', exec (.redirect n) s = .next t ∧ Spec.resent n x m' s t ∧ m'.dnode = node ∧ m'.addr = addr ∧ m'.phys = space ∧ m'.pool = space ∧
        m'.redirects = x.msg.redirects + 1 ∧ m'.bytes = x.msg.bytes ∧ m'.job = x.msg.job ∧
        m'.dtwr.toNat = if space then (if addr < 2 ^ 51 then 0 else 7) else addr / 2 ^ 16 % 8) ∧
    (∀ node space addr (v₁ n₁ v₂ n₂ : DWord), a.kind = .redirect node space addr → a.xlate = none → x.msg.redirects < 4 →
      x.msg.cls = .chunk → x.msg.lanes = [v₁, n₁, v₂, n₂] → x.msg.bytes.length = n₁.toNat + n₂.toNat →
      v₁.toNat % 65536 + n₁.toNat ≤ 65536 → v₂.toNat % 65536 + n₂.toNat ≤ 65536 →
      v₁.toNat / 65536 ≠ v₂.toNat / 65536 → a.va = v₂.toNat →
      ∃ t k p q, exec (.redirect n) s = .next t ∧ t.sent = (s.sent.filter fun e => e.msg.id ≠ n) ++ [p, q] ∧
        p.comp = x.comp ∧ q.comp = x.comp ∧ p.msg.part = x.msg.part ∧ q.msg.part = true ∧
        p.msg.dnode = node ∧ p.msg.phys = space ∧ p.msg.lanes = [k, n₂] ∧
        k.toNat = addr % 2 ^ 64 ∧ p.msg.bytes = x.msg.bytes.drop n₁.toNat ∧
        q.msg.dnode = x.msg.dnode ∧ q.msg.lanes = [v₁, n₁] ∧ q.msg.bytes = x.msg.bytes.take n₁.toNat ∧
        ∀ w j, (t.towerJob w j).inj = (s.towerJob w j).inj) ∧
    (∀ node space addr c id l, a.kind = .redirect node space addr → 4 ≤ x.msg.redirects → x.comp = .access c id l →
      Spec.onCore s c → ∃ t, exec (.redirect n) s = .next t ∧ Spec.unsent n s t ∧
        (∀ w j, (t.towerJob w j).con = if x.msg.cls ≠ .ldp ∧ x.msg.part = false ∧ w = x.msg.stwr.toNat ∧ j = x.msg.job.toNat
          then (s.towerJob w j).con + 1 else (s.towerJob w j).con) ∧
        ∀ y ∈ (t.ctxRegs c).outs, y.id = id → ∀ z ∈ y.lanes, z.lane = l → z.result = .refused 5) ∧
    (a.kind = .retranslate → ∃ t m', exec (.retranslate n) s = .next t ∧ Spec.resent n x m' s t ∧
      m' = { x.msg with dnode := x.msg.onode, addr := x.msg.ova, phys := false, pool := false, kept := false,
                        lanes := m'.lanes, dtwr := m'.dtwr } ∧
      (x.msg.cls ≠ .chunk → m'.lanes = x.msg.lanes) ∧ m'.dtwr.toNat = x.msg.ova / 2 ^ 16 % 8 ∧
      ∀ y, y ∈ t.xlate ↔ y ∈ s.xlate ∧ ¬ (y.tower = x.msg.stwr.toNat ∧ y.node = x.msg.onode.toNat ∧
        y.job = x.msg.job.toNat ∧ y.page = x.msg.ova / 65536))) ∧
  (∀ (s : State) (n : Nat) (v : Inval), s.invals[n]? = some v → v.out = false →
    ∃ t, exec (.translationInvalidation n) s = .next t ∧ t = { s with xlate := t.xlate, invals := t.invals } ∧
      (∀ y, y ∈ t.xlate ↔ y ∈ s.xlate ∧ ¬ Spec.invalidated v y) ∧
      (v.flood = false → Spec.wentThrough s v → t.invals = s.invals) ∧
      (v.flood = false → v.acked = false → ¬ Spec.wentThrough s v → t.invals.length < s.invals.length) ∧
      (v.flood = true → ∀ k ∈ s.treeOf v.job, k ≠ v.node → { v with out := true, node := k, acked := false } ∈ t.invals)) ∧
  (∀ (s : State) (port : Nat),
    let e := s.output port
    let ok := (headPackets e.packets []).filter fun p => 0 < tabGet 0 p.buffer e.credits
    (ok = [] → exec (.packetForward port) s = .next s) ∧
    (ok ≠ [] → ∃ t v p, exec (.packetForward port) s = .next t ∧ p ∈ ok ∧ v = { s with egress := v.egress } ∧
      (∀ q ∈ (v.output port).packets, q.id ≠ p.id) ∧ (∀ o, o ≠ port → v.output o = s.output o) ∧
      tabGet 0 p.buffer (v.output port).credits = tabGet 0 p.buffer e.credits - 1 ∧
      ((∃ q ∈ ok, q.chan = .mgmt) → p.chan = .mgmt) ∧
      ((∀ q ∈ ok, q.chan ≠ .mgmt) → (∃ q ∈ ok, q.ageAt s.now = 255) →
        p.ageAt s.now = 255 ∧ ∀ q ∈ ok, q.ageAt s.now = 255 → p.arrived ≤ q.arrived) ∧
      ((∀ q ∈ ok, q.chan ≠ .mgmt ∧ q.ageAt s.now ≠ 255) → ∀ q ∈ ok, q.cls.toNat ≤ p.cls.toNat) ∧
      (2 ^ 14 ≤ port → t = v) ∧
      (port < 2 ^ 14 → t = v.atRouter (port % 128) (decide (port / 128 / 16 ≠ port % 128 / 16))
        { p with age := BitVec.ofNat 8 (p.ageAt s.now), input := port }))) ∧
  (∀ (s : State) (p : Packet) (r : Nat),
    let here := { p with arrived := s.now, headAt := s.now, via := p.via.filter fun q => q ≠ r % 16 / 4 }
    (r ≠ p.dst → ((s.atRouter r false p).output (128 * r + here.hop r)).packets =
      (s.output (128 * r + here.hop r)).packets ++ [here]) ∧
    (∀ e, r = p.dst → p.exit = some e → ((s.atRouter r false p).output (2 ^ 14 + e)).packets =
      (s.output (2 ^ 14 + e)).packets ++ [if e < 36 then { here with age := 0 } else here])) ∧
  (∀ (p : Packet) (r : Nat), r < 128 → p.dst < 128 → r / 16 = p.dst / 16 → r ≠ p.dst →
    (p.via = none → Spec.wired r (p.hop r) ∧ Spec.afterHops p 3 r = p.dst) ∧
    (∀ q, q < 4 → q ≠ r % 16 / 4 → q ≠ p.dst % 16 / 4 → p.via = some q →
      Spec.wired r (p.hop r) ∧ Spec.afterDetour p 5 r = p.dst)) ∧
  (∀ (p : Packet) (t : Nat), t < 8 → p.dst < 128 → p.dst / 16 ≠ t →
    let u := p.hop (16 * t + 15) / 16
    p.hop (16 * t + 15) = 16 * u + 15 ∧
    (t / 4 ≠ p.dst / 64 → u / 4 = p.dst / 64 ∧ u % 4 = t % 4) ∧
    (t / 4 = p.dst / 64 → u / 4 = t / 4 ∧ (u = t + 1 ∧ t < p.dst / 16 ∨ u + 1 = t ∧ p.dst / 16 < t))) ∧
  (∀ (s : State) (port : Nat) (p : Packet), p ∈ headPackets (s.output port).packets [] → p.ageAt s.now = 255 →
    ∃ t, exec (.packetUrgent port p.id) s = .next t ∧ t = { s with egress := t.egress } ∧
      ∀ q ∈ (t.output port).packets, q.id = p.id → q.age = 255)

/-! ### Events: waves and gauges -/

/-- R307, R313 to R315, R177: a pass of the slack wave goes to the children, and to every tower, which takes a snapshot of its
counters when it is reached; when all have answered, the sums go to the parent, or the root decides: equal sums twice with INJ =
CON + LOST are quiet. A quiet decision is passed on, tells every tower, and ends each `waitq` that was issued before both passes. A
packet without an answer is sent again after 20 µs.

R153, R183 to R185: a counted write adds its bytes to its gauge: for each TOTAL reached COUNT starts again, GEN rises and the
flagged actions are taken, by a vault gauge as by a memory gauge, with a record of each EVENT; a firing whose block fails a check
pushes its record with ERR and takes no action. A NOTIFY store writes GEN at its address; a LAUNCH store is answered as a launch is, and a busy line
is tried again after 1 µs. -/
def Obligations.WavesDecideAndGaugesAct : Prop :=
  (∀ (s : State) (j : Nat),
    let w := (s.job j).wave
    (s.job j).wvctl.getLsbD 63 = true → (s.job j).wvctl.getLsbD 62 = true → w.running = false →
    (w.pass = 0 ∨ w.started + 250 * (if (s.job j).wvctl.toNat % 2 ^ 16 = 0 then 8 else (s.job j).wvctl.toNat % 2 ^ 16) ≤ s.now) →
    Spec.jobStill s j →
    ∃ t, exec (.wavePassStart j) s = .next t ∧ Spec.passBegun j (w.pass + 1) s t ∧ (t.job j).wave.started = s.now) ∧
  (∀ (s : State) (n j : Nat) (p : DWord), s.waves[n]? = some (.wave j p) → (s.job j).wvctl.getLsbD 62 = false →
    ((s.job j).wvctl.getLsbD 63 = true → (s.job j).wave.pass.toNat < p.toNat →
      ∃ t, exec (.wave n) s = .next t ∧ Spec.passBegun j p s t ∧ t.waves.length + 1 = s.waves.length) ∧
    ((s.job j).wvctl.getLsbD 63 = false ∨ p.toNat ≤ (s.job j).wave.pass.toNat →
      ∃ t, exec (.wave n) s = .next t ∧ t = { s with waves := t.waves } ∧ t.waves.length + 1 = s.waves.length)) ∧
  (∀ (s : State) (j v : Nat), v < 8 → let w := (s.job j).wave; w.running = true → tabFind v w.snaps = none → Spec.jobStill s j →
    let t := s.towerSnapshot j v
    let c := s.towerJob v j
    tabFind v (t.job j).wave.snaps = some (c.inj, c.con, c.lost, (s.job j).ctl.getLsbD 62) ∧
    (t.towerJob v j).snapPass = w.pass ∧ ∀ u k, (t.towerJob u k).inj = (s.towerJob u k).inj ∧
      (t.towerJob u k).con = (s.towerJob u k).con ∧ (t.towerJob u k).lost = (s.towerJob u k).lost) ∧
  (∀ (s : State) (n j : Nat) (p : DWord) (child : BitVec 20) (inj con lost : DWord) (disc : Bool),
    let w := (s.job j).wave
    s.waves[n]? = some (.reply j p child inj con lost disc) → (s.job j).wvctl.getLsbD 63 = true → w.running = true →
    w.pass = p → (∀ r ∈ w.replies, r.1 ≠ child) → child ∈ Spec.kids s j → Spec.jobStill s j →
    let w' := { w with replies := w.replies ++ [(child, inj, con, lost, disc)] }
    let sums := (Spec.passSum w' (·.1), Spec.passSum w' (·.2.1), Spec.passSum w' (·.2.2.1))
    let all := w.snaps.length = 8 ∧ ∀ k ∈ Spec.kids s j, ∃ r ∈ w'.replies, r.1 = k
    (¬ all → ∃ t, exec (.reply n) s = .next t ∧ (t.job j).wave = w' ∧ t.waveOut = s.waveOut) ∧
    (all → (s.job j).wvctl.getLsbD 62 = false → ∃ t, exec (.reply n) s = .next t ∧ (t.job j).wave.running = false ∧
      let d := (w.snaps.any fun x => x.2.2.2.2) || w'.replies.any fun r => r.2.2.2.2
      Spec.sendsWaves j
        [(BitVec.ofNat 20 ((s.job j).wvctl.toNat / 2 ^ 32), .reply j p s.node sums.1 sums.2.1 sums.2.2 d)] s t) ∧
    (all → (s.job j).wvctl.getLsbD 62 = true → ∃ t, exec (.reply n) s = .next t ∧ (t.job j).wave.prev = some sums ∧
      (∀ v, v < 8 → (t.towerJob v j).qpass =
        if w.prev = some sums ∧ sums.1 = sums.2.1 + sums.2.2 then p else (s.towerJob v j).qpass))) ∧
  (∀ (s : State) (n j : Nat) (p lost : DWord) (disc : Bool), s.waves[n]? = some (.quiet j p lost disc) →
    (s.job j).wvctl.getLsbD 63 = true → (s.towerJob 0 j).qpass.toNat < p.toNat → Spec.jobStill s j →
    ∃ t, exec (.quiet n) s = .next t ∧ (∀ v, v < 8 → (t.towerJob v j).qpass = p ∧ (t.towerJob v j).qlost = lost) ∧
      Spec.sendsWaves j ((Spec.kids s j).map fun k => (k, .quiet j p lost disc)) s t ∧
      ((s.teams.map (·.1)).Nodup → ∀ tm d q l, Spec.onCore s (.seq tm) → lrJob (s.team tm).launch = j →
        (s.seqr tm).wait = .waitq d q l → q.toNat + 1 < p.toNat → 96 ≤ d.toNat → d.toNat < 112 →
        (t.seqr tm).wait = .none ∧ (t.seqr tm).pc = (s.seqr tm).pc + 4 ∧
        (t.getK (.seq tm) (d.toNat - 96)).toNat = p.toNat % 2 ^ 32 * 2 ^ 32 +
          (if disc then 9 else if l.toNat < lost.toNat then 8 else 7))) ∧
  (∀ (s : State) (n j : Nat) (dst : BitVec 20) (q : DWord), s.waveOut[n]? = some (dst, .wave j q) →
    (s.job j).wave.running = true → (s.job j).wave.pass = q → (∀ r ∈ (s.job j).wave.replies, r.1 ≠ dst) →
    tabGet 0 dst.toNat (s.job j).wave.sentAt + 20000 ≤ s.now → s.budgetLeft 0 2 = true →
    ∃ t, exec (.waveResend n) s = .next t ∧
      t = { s with jobs := t.jobs, cols := t.cols, waveOut := t.waveOut, fresh := t.fresh, planes := t.planes, shltx := t.shltx } ∧
      t.waveOut = delAt n s.waveOut ++ [(dst, .wave j q)] ∧ tabGet 0 dst.toNat (t.job j).wave.sentAt = s.now ∧
      (t.job j).wave.replies = (s.job j).wave.replies) ∧
  (∀ (s : State) (n agent entry bytes : Nat) (g : MGauge), s.counts[n]? = some (.mem agent entry bytes) →
    tabFind (256 * agent + entry) s.mgauges = some g → g.total ≠ 0 →
    let fires := (g.count.toNat + bytes) / g.total.toNat
    ∃ t, exec (.gaugeCount n) s = .next t ∧
      tabFind (256 * agent + entry) t.mgauges = some { g with
        count := BitVec.ofNat 32 ((g.count.toNat + bytes) % g.total.toNat), gen := g.gen + BitVec.ofNat 32 fires } ∧
      (∀ k, k ≠ 256 * agent + entry → tabFind k t.mgauges = tabFind k s.mgauges) ∧
      t.counts.length + 1 = s.counts.length ∧ t.mem = s.mem ∧
      (fires = 0 → t.notifies = s.notifies ∧ t.glaunches = s.glaunches ∧ t.sent = s.sent) ∧
      (fires = 1 → firingErr g.job.toNat g.action.toNat (some g.params) = 0 →
        (g.action.getLsbD 3 = true → ∃ q, t.notifies = s.notifies ++ [q] ∧ q.va = ofBytes ((g.params.drop 8).take 8) ∧
          q.gen = g.gen + 1 ∧ q.job = g.job) ∧
        (g.action.getLsbD 3 = false → t.notifies = s.notifies) ∧
        (g.action.getLsbD 1 = true → ∃ q, t.glaunches = s.glaunches ++ [q] ∧
          q.launch = BitVec.ofNat 512 (ofBytes ((g.params.drop 64).take 64))) ∧
        (g.action.getLsbD 1 = false → t.glaunches = s.glaunches) ∧
        t.sent.length = s.sent.length + (if g.action.getLsbD 2 then 1 else 0)) ∧
      let col := firstCol (agent / 2)
      Spec.fired g.job.toNat g.limit.toNat g.action.toNat (some g.params) col
        (s.cyc (col + if agent % 2 = 0 then 7 else 11)).toNat (agent % 16 * 2 ^ 64 + entry % 256 * 2 ^ 72 + 2 ^ 17)
        (Spec.gensAfter g.gen.toNat fires) s t) ∧
  (∀ (s : State) (n tm off bytes : Nat), s.counts[n]? = some (.vault tm off bytes) → (∃ x, tabFind tm s.teams = some x ∧
      x.state = .resident) →
    let total := s.vaultNat tm off 4
    let count := s.vaultNat tm (off + 4) 4 + bytes
    total ≠ 0 →
    ∃ t, exec (.gaugeCount n) s = .next t ∧ t.counts.length + 1 = s.counts.length ∧
      Spec.stored (s.vaultPa tm (off + 4)) 8 (count % total + 2 ^ 32 * ((s.vaultNat tm (off + 8) 4 + count / total) % 2 ^ 32)) s t ∧
      let l := (s.team tm).launch
      let action := s.vaultNat tm (off + 12) 4
      let at_ := 128 * (action / 2 ^ 14 % 2 ^ 14)
      let col := colOfCore (s.team tm).core
      Spec.fired (lrJob l) (lrPri l) (action / 2 ^ 28 % 2 ^ 4)
        (if at_ + 128 ≤ lrVault l then some (s.physRead (s.vaultPa tm at_) 128) else none) col (s.cyc col).toNat
        (s.handle tm * 2 ^ 112 + homeOf tm * 2 ^ 102 + off % 2 ^ 21 * 2 ^ 64)
        (Spec.gensAfter (s.vaultNat tm (off + 8) 4) (count / total)) s t) ∧
  (∀ (s : State) (n : Nat) (q : GaugeStore), s.notifies[n]? = some q → q.fault = none → ¬ Spec.storeBefore q (s.notifies.take n) →
    (q.va % 4 = 0 → q.va < 2 ^ 57 → ∀ x u, s.access (engineFor q.job.toNat (colVia q.col)) .write q.va = .ok (x, u) →
      ∃ t, exec (.notifyStore n) s = .next t ∧ t.notifies.length + 1 = s.notifies.length ∧ Spec.stored x.pa 4 q.gen.toNat u t) ∧
    (q.va % 4 ≠ 0 ∨ 2 ^ 57 ≤ q.va → ∃ t, exec (.notifyStore n) s = .next t ∧ t.notifies.length + 1 = s.notifies.length ∧
      t.mem = s.mem ∧ (q.late = 0 → (s.host q.col).q6.length < 64 → ∃ r, (t.host q.col).q6 = (s.host q.col).q6 ++ [r]))) ∧
  (∀ (s : State) (n : Nat) (q : GaugeStore), s.glaunches[n]? = some q → q.due ≤ s.now →
    ¬ Spec.storeBefore q (s.glaunches.take n) → Spec.bits q.cap 104 20 = s.node.toNat →
    (s.job (Spec.bits q.cap 43 8)).ctl.getLsbD 63 = true → s.tagGood (Spec.bits q.cap 43 8) q.cap = true →
    let r := s.storeLine (Spec.bits q.cap 94 10 / 8) (Spec.bits q.cap 68 3) q.launch true q.job.toNat q.pri.toNat
    ∃ t, exec (.gaugeLaunchRetry n) s = .next t ∧ (r.1 ≠ 10 → t.cols = r.2.cols) ∧
      (r.1 = 6 → t.glaunches.length = s.glaunches.length ∧ ∃ q', t.glaunches[n]? = some q' ∧ q'.due = s.now + 1000 ∧
        q'.launch = q.launch) ∧
      (r.1 ≠ 6 → t.glaunches.length + 1 = s.glaunches.length))


/-! ### Events: launch and the life of teams -/

/-- R222 to R226, R274 to R277: a slice answers a launch with a handle, BUSY or DENIED; it takes the record of a full line into a
batch or the grid table; a batch closes by writing its records to its indirection table; a completion notice is stored. The
distributor places the teams of the first cluster that fits, started at the kernel's entry. That the first that fits is placed
(log 69) and that a launch line's code is the memory at that time (log 17) are the model's choices. -/
def Obligations.LaunchesBecomeTeams : Prop :=
  (∀ (s : State) (n : Nat) (q : LaunchReq) (c : Ctx), s.launches[n]? = some q → q.who = some c → Spec.onCore s c →
    96 ≤ q.reg.toNat → q.reg.toNat < 112 →
    let k := s.col q.col
    let pri := lrPri q.launch
    let denied := k.svc.retired = true ∨ k.svc.failed = true ∨ s.recordDenied q.launch q.user q.job.toNat q.pri.toNat = true
    let handle := BitVec.ofNat 64 (k.gseq.toNat * 2 ^ 32 + pri * 2 ^ 15 + q.col * 2 ^ 8)
    let told := fun (t : State) (x : DWord) => t.getK c (q.reg.toNat - 96) = x ∧ t.launches.length + 1 = s.launches.length ∧
      (s.ctxWait c = .answer → t.ctxWait c = .none) ∧ t.mem = s.mem
    (Spec.refusedRecord s q.launch q.user q.job.toNat q.pri.toNat →
      s.recordDenied q.launch q.user q.job.toNat q.pri.toNat = true) ∧
    (denied → ∃ t, exec (.launchLineStore n) s = .next t ∧ told t 10 ∧ (t.col q.col).lines = k.lines) ∧
    (¬ denied → k.svc.drain = true ∨ (tabFind pri k.lines).isSome →
      ∃ t, exec (.launchLineStore n) s = .next t ∧ told t 6 ∧ (t.col q.col).lines = k.lines) ∧
    (¬ denied → k.svc.drain = false → tabFind pri k.lines = none → q.col < 128 →
      ∃ t, exec (.launchLineStore n) s = .next t ∧ told t handle ∧ (t.col q.col).gseq = k.gseq + 1 ∧
        tabFind pri (t.col q.col).lines = some { launch := q.launch, handle := handle, user := q.user, code := s.mem } ∧
        ∀ p, p ≠ pri → tabFind p (t.col q.col).lines = tabFind p k.lines)) ∧
  (∀ (s : State) (col pri : Nat) (l : Line), tabFind pri (s.col col).lines = some l →
    let k := s.col col
    let room := k.grids.length + (k.batches.filter fun b => !b.2.closed).length < 32
    (lrAggkey l.launch = 0 → room →
      ∃ t, exec (.launchRecordTake col pri) s = .next t ∧ tabFind pri (t.col col).lines = none ∧
        (t.col col).grids = k.grids ++
          [{ parts := [Spec.newPart l.handle l.launch (BitVec.ofNat 64 (lrArgp l.launch))], slot := none, code := l.code,
             poolFull := false }]) ∧
    (lrAggkey l.launch = 0 → ¬ room → exec (.launchRecordTake col pri) s = .next s) ∧
    (∀ pre i b post, l.user = true → lrAggkey l.launch ≠ 0 → lrDep l.launch = false → k.aggOf (lrJob l.launch) ≠ 0 →
      k.batches = pre ++ (i, b) :: post → (∀ e ∈ pre, e.1 ≠ i ∧ e.2.takes s.now l.launch = false) →
      b.takes s.now l.launch = true →
      ∃ t, exec (.launchRecordTake col pri) s = .next t ∧ tabFind pri (t.col col).lines = none ∧ (t.col col).grids = k.grids ∧
        tabFind i (t.col col).batches = some { b with records := b.records ++ [(l.handle, l.launch)] })) ∧
  (∀ (s : State) (col slot : Nat) (b : Batch), tabFind slot (s.col col).batches = some b → b.closed = false → b.fault = none →
    (b.opened + 2000 ≤ s.now ∨ 64 ≤ b.records.length) →
    let job := lrJob (b.records.headD (0, 0)).2
    let base := ((s.col col).aggOf job).toNat + 4096 * slot
    ∀ x u, s.access (engineFor job (colVia col)) .write (base % 2 ^ 57) = .ok (x, u) →
      ∃ t, exec (.aggregationBatchClose col slot) s = .next t ∧ Spec.bytesKept x.pa (64 * b.records.length) u t ∧
        (Memory.wf u.mem = true → Spec.stores u x.pa → ∀ r i, r < b.records.length → i < 64 → Spec.stores u (x.pa + (64 * r + i)) →
          (t.physByte (x.pa + (64 * r + i))).toNat = (b.records.getD r (0, 0)).2.toNat / 256 ^ i % 256) ∧
        ∀ b', tabFind slot (t.col col).batches = some b' → b' = { b with closed := true, fault := none }) ∧
  (∀ (s : State) (n : Nat) (q : Notice), s.notices[n]? = some q → q.fault = none →
    ∀ x u, s.access (engineFor q.job.toNat (colVia q.col)) .write q.va = .ok (x, u) →
      ∃ t, exec (.completionNotice n) s = .next t ∧ Spec.stored x.pa 8 q.value.toNat u t) ∧
  (∀ (s : State) (col i j : Nat) (choice : List PlaceChoice) (p : GridPart) (ts : List Nat) (u : State),
    (s.col col).svc.retired = false → (s.col col).svc.failed = false → (s.tower (col / 16)).powered = true →
    let s' := ((s.noteHeads col).cands col).foldl (fun s c => s.notePool col c) (s.noteHeads col)
    s'.nextCand col = some (.grid i j) → (s'.col col).partAt i j = some p →
    s'.placeCand col (.grid i j) false choice = some (ts, u) →
    ∃ t, exec (.clusterPlace col choice) s = .next t ∧ ts.length = min (lrClus p.launch) (lrTeams p.launch - p.next) ∧
      (∀ p', (t.col col).partAt i j = some p' → p' = { p with next := p.next + ts.length, met := true }) ∧
      ∀ r k, ts[r]? = some k → ∃ tm, tabFind k t.teams = some tm ∧ tm.state = .resident ∧ tm.launch = p.launch ∧
        tm.argp = p.argp ∧ tm.grid = p.handle ∧ tm.rank = r ∧ tm.clusterSize = ts.length ∧
        (∀ g ∈ tm.groups, Spec.started (lrEntry p.launch) g) ∧
        (let n := p.next + r
         let gx := (lrSize p.launch).1
         let gy := (lrSize p.launch).2.1
         tm.x = BitVec.ofNat 16 (n % gx) ∧ tm.y = BitVec.ofNat 16 (n / gx % gy) ∧ tm.z = BitVec.ofNat 16 (n / gx / gy)) ∧
        (t.core tm.core).roCache = []) ∧
  (∀ (s : State) (col pri : Nat) (c : Cand) (h : Bool × Nat × Nat),
    let s' := s.noteHeads col
    s'.headOf col pri = some c → tabFind pri (s'.col col).heads = some h → h.2.2 + s'.pwait col ≤ s.now →
    s'.candFits col c = false →
    ∃ t, exec (.pwaitExpire col pri) s = .next t ∧ tabFind pri (t.col col).blocked = some (s'.candId col c) ∧ t.mem = s.mem)

/-- R105, R219, R236, R238, R285, R288 to R292, R297: a group that is ready and passed over 48 times is urgent; a group and a team
with no work left end; a team that has been resident for its job's limit is halted with cause 15; a cluster that has waited is
swapped; halted teams stand, are saved, and go on when they have been read back.

R294 to R296: a save writes COMMIT, the sequencer's `s` registers, and of each group the `k` registers, the split entries and the `v`
registers at their places in the record, and a restoration takes each of them from there.

That the watchdog marks every context, with the next pc in EPC, is the model's choice (log 39), and so is the count of waiting by
issue slots (log 43); what the record's sections give no layout for is log 14's. -/
def Obligations.TeamsEndAndAreSaved : Prop :=
  (∀ (s : State) (tm g : Nat), Spec.runs s tm → g < (s.team tm).groups.length → (s.group tm g).ready = true →
    (48 ≤ (s.group tm g).waitingIssue →
      exec (.groupUrgent tm g) s = .next (s.modGroup tm g fun x => { x with urgent := true })) ∧
    ((s.group tm g).waitingIssue < 48 → exec (.groupUrgent tm g) s = .next s)) ∧
  (∀ (s : State) (tm g : Nat), Spec.onCore s (.group tm g 0) → (s.group tm g).retired = false →
    let x := s.group tm g
    ((∀ p ∈ x.splits, p.valid = false) → x.deferred = [] → x.regs.outs = [] → x.posts = [] →
      (∀ e ∈ x.regs.tok, e.2.count = 0) →
      exec (.groupRetire tm g) s = .next (s.modGroup tm g fun x =>
        { x with retired := true, rows := [], states := [], badRegs := [] })) ∧
    ((∃ p ∈ x.splits, p.valid = true) ∨ x.regs.outs ≠ [] → exec (.groupRetire tm g) s = .next s)) ∧
  (∀ (s : State) (tm : Nat) (x : Team), tabFind tm s.teams = some x → x.state = .resident →
    ((∀ g ∈ x.groups, g.retired = true) → x.seq = none →
      ∃ t, exec (.teamRetire tm) s = .next t ∧ tabFind tm t.teams = none ∧
        (∀ u, u ≠ tm → tabFind u t.teams = tabFind u s.teams) ∧
        tabGet 0 (tm % 64) (t.core (tm / 64)).gens = tabGet 0 (tm % 64) (s.core (tm / 64)).gens + 1) ∧
    ((∃ g ∈ x.groups, g.retired = false) ∨ x.seq ≠ none → exec (.teamRetire tm) s = .next s)) ∧
  (∀ (s : State) (tm : Nat) (x : Team), tabFind tm s.teams = some x → x.state = .resident → x.halted = false → x.fatal = 0 →
    let limit := (s.job (lrJob x.launch)).wdog.toNat
    let us := (x.residentNs + (s.now - x.residentSince)) / 1000
    (limit = 0 ∨ us < limit → exec (.watchdog tm) s = .next s) ∧
    (limit ≠ 0 → limit ≤ us → x.recPa ≠ 0 → x.rank < 16 →
      ∃ t, exec (.watchdog tm) s = .next t ∧ (t.team tm).halted = true ∧ (t.team tm).fatal = 15 ∧ (t.team tm).reason = 5 ∧
        (∀ g ∈ (t.team tm).groups, Spec.fatalMark 15 (BitVec.ofNat 64 (us % 2 ^ 32)) g.regs ∧
          g.regs.trap.epc = g.nextPc.setWidth 64) ∧
        (∀ q, (t.team tm).seq = some q → Spec.fatalMark 15 (BitVec.ofNat 64 (us % 2 ^ 32)) q.regs ∧
          q.regs.trap.epc = q.pc.setWidth 64))) ∧
  (∀ (s : State) (tm : Nat) (x : Team), tabFind tm s.teams = some x → s.swapHolds x.cluster = true →
    (∀ u ∈ s.clusterTeams x.cluster, (s.team u).halted = false) →
    ((s.col (s.wakeCol x.cluster)).wakes.filter fun w => w.swap).length < 256 →
    ∃ t, exec (.swapTick tm) s = .next t ∧ (∃ w ∈ (t.col (s.wakeCol x.cluster)).wakes, w.cluster = x.cluster) ∧
      ∀ u ∈ s.clusterTeams x.cluster, (t.team u).halted = true ∧ (t.team u).reason = 1 ∧ (t.team u).groups = (s.team u).groups) ∧
  (∀ (s : State) (tm : Nat) (x : Team), tabFind tm s.teams = some x → x.reason ≠ 1 →
    (∀ u ∈ s.clusterTeams x.cluster, (s.team u).recPa ≠ 0 ∧ s.stands u = true) →
    ∃ t, exec (.teamHalt tm) s = .next t ∧ t.mem = s.mem ∧ ∀ u ∈ s.clusterTeams x.cluster, (t.team u).state = .saving) ∧
  (∀ (s : State) (tm : Nat) (x : Team), tabFind tm s.teams = some x → x.state = .saving → x.rank < 16 → x.recPa ≠ 0 →
    ∃ t, exec (.saveComplete tm) s = .next t ∧ (t.team tm).state = .saved ∧ (t.team tm).sseq = x.sseq + 1 ∧
      (t.core x.core).seqOwner ≠ some tm ∧ (t.core x.core).table.holder ≠ some tm ∧
      (∀ b ∈ x.acc, b.2.phys ∉ (t.core x.core).phys) ∧ (∀ m ∈ (t.core x.core).mq, m.team ≠ tm) ∧
      (Memory.wf s.mem = true →
        let rec_ := memNat t.mem
        rec_ x.recPa 8 = 0xA5A5C3C3 * 2 ^ 32 + (x.sseq + 1).toNat * 2 ^ 16 + tm % 64 * 2 ^ 10 + x.gen.toNat ∧
        (∀ q, x.seq = some q → ∀ n, n < 32 → rec_ (x.recPa + 0x4000 + 8 * n) 8 = (tabGet 0 n q.s).toNat) ∧
        ∀ g y, x.groups[g]? = some y →
          let base := x.recPa + Spec.groupSection x.launch g
          (∀ n, n < 16 → rec_ (base + 0x180 + 8 * n) 8 = (tabGet 0 n y.k.vals).toNat) ∧
          (∀ i p, i < 4 → y.splits[i]? = some p → p.loops.length ≤ 3 →
            rec_ (base + 0x380 + 128 * i) 8 / 2 ^ 63 = (if p.valid then 1 else 0) ∧
            rec_ (base + 0x388 + 128 * i) 8 = p.pc.toNat ∧ rec_ (base + 0x390 + 128 * i) 4 = p.mask.toNat) ∧
          ((y.rows.map (·.1)).Nodup → ∀ r row, (r, row) ∈ y.rows → r < lrRegs x.launch → ∀ l, l < 32 →
            rec_ (base + 0x2000 + 128 * r + 4 * l) 4 = (laneOf row l).toNat))) ∧
  (∀ (s : State) (tm : Nat) (x : Team), tabFind tm s.teams = some x → x.state = .restoring → x.saved = SavedWork.none →
    x.tableHeld = false → x.capFail = none → (s.core x.core).mq = [] → (s.core x.core).cq = [] → (s.core x.core).chains = [] →
    (s.core x.core).followOn = none → (s.core x.core).released = [] →
    (s.recordBad x = false → ∃ t, exec (.restoreComplete tm) s = .next t ∧ (t.team tm).state = .resident ∧
      (t.team tm).residentSince = s.now ∧
      (let rec_ := memNat s.mem
       rec_ (x.recPa + 0x08) 8 = x.launch.toNat / 2 ^ 256 % 2 ^ 64 → rec_ (x.recPa + 0x28) 8 = x.launch.toNat / 2 ^ 128 % 2 ^ 64 →
       (∀ q, (t.team tm).seq = some q → ∀ n, n < 32 → (tabGet 0 n q.s).toNat = rec_ (x.recPa + 0x4000 + 8 * n) 8) ∧
       ((t.team tm).seq.isSome = (rec_ (x.recPa + 0x40) 8).testBit 5) ∧
       (t.team tm).groups.length = lrGroups x.launch ∧
       ∀ g y, (t.team tm).groups[g]? = some y →
         let base := x.recPa + Spec.groupSection x.launch g
         (∀ n, n < 16 → (tabGet 0 n y.k.vals).toNat = rec_ (base + 0x180 + 8 * n) 8) ∧
         (∀ i p, i < 4 → y.splits[i]? = some p → p.valid = decide (rec_ (base + 0x380 + 128 * i) 8 / 2 ^ 63 = 1) ∧
           p.pc.toNat = rec_ (base + 0x388 + 128 * i) 8 % 2 ^ 57 ∧ p.mask.toNat = rec_ (base + 0x390 + 128 * i) 4) ∧
         ∀ r l, r < lrRegs x.launch → l < 32 →
           (laneOf (tabGet [] r y.rows) l).toNat = rec_ (base + 0x2000 + 128 * r + 4 * l) 4)) ∧
    (s.recordBad x = true → ∃ t, exec (.restoreComplete tm) s = .next t ∧ tabFind tm t.teams = none))

/-! ### Events: engines, tables and the host core -/

/-- R69, R136, R138, R193, R211, R216, R234, R239, R261: an audit record is written at the head of its job's ring, or dropped and
counted when the ring is full; the banks of an `acfr` at the head of its queue are free; a copied chunk's bytes stand at its
destination; the depth of a copy pipeline follows the mean latency of 32 chunks; a table fill writes the bank that is not current,
and the drained bank is idle; the timer ends a `wfi`; an interrupt enters its handler; a resolved fault record leaves the buffer,
and its waiters go on or trap: a group waiter of an UNSERVABLE record, or a sequencer, takes a permission fault with SUB UNMAPPED.

R209 to R211: a chunk of a global copy, of a copy to the vaults of several ranks, of DECODE into a vault and of CONVERT from one is
written with the bytes of its source, or with the decoded or encoded elements. Where a CONVERT saturates an infinity of its own
format is read from R55 (log 115). That only the highest interrupt is taken is the model's choice (log 30). -/
def Obligations.EnginesFinishAndFaultsAreResolved : Prop :=
  (∀ (s : State) (core n : Nat) (ch : Chain) (r : BitVec 256) (rest : List (BitVec 256)),
    (s.core core).chains.find? (fun c => c.id = n) = some ch → ch.auditFault = none → ch.audits = r :: rest →
    Spec.chainsResident s core → s.budgetLeft (colOfCore core) 3 = true →
    let job := lrJob (s.team ch.team).launch
    let j := s.job job
    let size := 2 ^ (j.trsize.toNat % 64)
    (j.trbase = 0 ∨ (j.trhead - j.trtail).toNat = size →
      ∃ t, exec (.auditRecordWrite core n) s = .next t ∧ t.mem = s.mem ∧ (t.job job).trhead = j.trhead ∧
        (t.job job).trdrop = (if j.trdrop = BitVec.allOnes 32 then j.trdrop else j.trdrop + 1)) ∧
    (j.trbase ≠ 0 → (j.trhead - j.trtail).toNat ≠ size →
      ∀ x u, s.access (engineFor job (coreVia core)) .write (j.trbase.toNat + 32 * (j.trhead.toNat % size)) = .ok (x, u) →
        ∃ t, exec (.auditRecordWrite core n) s = .next t ∧ Spec.stored x.pa 32 r.toNat u t ∧
          (t.job job).trhead = j.trhead + 1 ∧ (t.job job).trdrop = j.trdrop)) ∧
  (∀ (s : State) (core n : Nat) (m : MCmd) (rest : List MCmd) (ps : List Nat), (s.core core).mq = m :: rest →
    m.kind = .acfr ps → m.id = n → s.engineRuns m.team = true → Spec.chainsResident s core →
    ∃ t, exec (.acfrBanksFree core n) s = .next t ∧ t.mem = s.mem ∧
      ∀ p, p ∈ (t.core core).phys ↔ p ∈ (s.core core).phys ∧ p ∉ ps) ∧
  (∀ (s : State) (core n chunk row off len a o b p : Nat) (c : CCmd), (s.core core).cq.find? (fun q => q.id = n) = some c →
    c.stop = none → chunk < c.started.length → chunk ∉ c.done → chunk ∉ c.sentChunks → (∀ f ∈ c.faults, f.2.2 ≠ chunk) →
    c.follow = none →
    (s.team c.team).state = .resident → (s.team (ctxTeam c.ctx)).state = .resident →
    c.mode = 0 → c.svlt = true → c.dvlt = true → c.mcast = 0 → c.gen = false → c.rem = false →
    chunk < chunkCount c.evenRows → chunkPiecesOf c.evenRows chunk = [(row, off, len)] → c.srcAt row off < 2 ^ 25 → c.dstAt row off < 2 ^ 25 →
    s.vaultLoc c.team (c.srcAt row off) len = some (a, o) → s.vaultLoc c.team (c.dstAt row off) len = some (b, p) →
    s.poisonIn (s.vaultPa a o) len = none →
    ∃ t, exec (.copyChunkComplete core n chunk) s = .next t ∧ Spec.bytesKept (s.vaultPa b p) len s t ∧
      (Memory.wf s.mem = true → Spec.stores s (s.vaultPa b p) → ∀ i, i < len → Spec.stores s (s.vaultPa b p + i) →
        t.physByte (s.vaultPa b p + i) = s.physByte (s.vaultPa a o + i))) ∧
  (∀ (s u v : State) (core n chunk row off len : Nat) (c : CCmd) (x y : Xlat), Spec.chunkDue s core n chunk c →
    c.mode = 0 → c.svlt = false → c.dvlt = false → c.mcast = 0 → chunk < chunkCount c.evenRows →
    chunkPiecesOf c.evenRows chunk = [(row, off, len)] →
    let a := c.srcAt row off
    let b := c.dstAt row off
    a + len ≤ 2 ^ 57 → b + len ≤ 2 ^ 57 → a % 65536 + len ≤ 65536 → b % 65536 + len ≤ 65536 →
    s.access (s.teamEngine c.team) .read a = .ok (x, u) →
    let w := u.agentRead x.pa len
    w.poisonIn x.pa len = none → w.access (w.teamEngine c.team) .write b = .ok (y, v) →
    ∃ t, exec (.copyChunkComplete core n chunk) s = .next t ∧ Spec.bytesAt y.pa (w.physRead x.pa len) v t) ∧
  (∀ (s : State) (core n chunk row off len a o : Nat) (c : CCmd) (f : Nat → Nat × Nat), Spec.chunkDue s core n chunk c →
    c.mode = 0 → c.svlt = true → c.dvlt = true → c.mcast ≠ 0 → chunk < chunkCount c.evenRows →
    chunkPiecesOf c.evenRows chunk = [(row, off, len)] → c.srcAt row off < 2 ^ 25 →
    s.vaultLoc c.team (c.srcAt row off) len = some (a, o) → s.poisonIn (s.vaultPa a o) len = none →
    let named := fun (k : Nat) => k < 16 ∧ c.mcast.testBit k = true
    let at_ := fun (k : Nat) => s.vaultPa (f k).1 (f k).2
    (∀ k, named k → s.rankLoc c.team k (c.dstAt row off - c.dst + c.dst % 2 ^ 21) len = some (f k)) →
    (∀ j k, named j → named k → j ≠ k → at_ j + len ≤ at_ k ∨ at_ k + len ≤ at_ j) →
    ∃ t, exec (.copyChunkComplete core n chunk) s = .next t ∧
      (∀ pa, (∀ k, named k → pa < at_ k ∨ at_ k + len ≤ pa) → t.physByte pa = s.physByte pa) ∧
      (Memory.wf s.mem = true → ∀ k, named k → Spec.stores s (at_ k) → ∀ i, i < len → Spec.stores s (at_ k + i) →
        t.physByte (at_ k + i) = s.physByte (s.vaultPa a o + i))) ∧
  (∀ (s u : State) (core n chunk row off len b p : Nat) (c : CCmd) (bs : List Byte), Spec.chunkDue s core n chunk c →
    c.mode = 1 → c.svlt = false → c.dvlt = true → c.mcast = 0 → chunk < chunkCount c.evenRows →
    chunkPiecesOf c.evenRows chunk = [(row, off, len)] → c.dstAt row off < 2 ^ 25 → bs.length = len →
    s.decodeRun (s.teamEngine c.team) (c.srcAt row 0) false off len (off + len) = .ok ((bs, false), u) →
    u.vaultLoc c.team (c.dstAt row off) len = some (b, p) →
    ∃ t, exec (.copyChunkComplete core n chunk) s = .next t ∧ Spec.bytesAt (u.vaultPa b p) bs u t) ∧
  (∀ (s u : State) (r : Requester) (va n k : Nat) (half : Bool) (x : Xlat), 4 ≤ n → s.access r .read va = .ok (x, u) →
    formatBad x.entry x.pa = false → leafFmt x.entry < 10 →
    let f := leafFmt x.entry
    let e := u.readElem f 4 x.pa half
    let parts := elemParts f 4 x.pa half
    let w := parts.foldl (fun w q => w.agentRead q.1 q.2) u
    let next := if elemSize f 4 = 0 then (if half then va + 1 else va, !half) else (va + elemSize f 4, false)
    ∀ y v, w.decodeRun r next.1 next.2 0 (n - 4) k = .ok (y, v) →
      s.decodeRun r va half 0 n (k + 1) =
        .ok ((toBytes 4 (decodeElem f e.1 e.2.1 e.2.2).1 ++ y.1, (parts.any fun q => (u.poisonIn q.1 q.2).isSome) || y.2), v)) ∧
  (∀ (s v : State) (core n a o : Nat) (c : CCmd) (y : Xlat), Spec.chunkDue s core n 0 c →
    c.mode = 2 → c.svlt = true → c.dvlt = false → c.mcast = 0 → c.part.2 = 1 →
    let m := c.rowBytes / 4
    let b := c.dstAt 0 0
    let code := leafFmt y.entry
    s.access (s.teamEngine c.team) .write b = .ok (y, v) → encodable code = true → leafGeom y.entry = 0 →
    let ws := (List.range m).map fun i => ofBytes (s.physRead (s.vaultPa a o + 4 * i) 4)
    let bs := Spec.encodedBytes code ws
    0 < m → m % 2 = 0 → bs.length ≤ 4096 → b % 65536 + bs.length ≤ 65536 → b + bs.length ≤ 2 ^ 57 → c.srcAt 0 0 < 2 ^ 25 →
    s.vaultLoc c.team (c.srcAt 0 0) (4 * m) = some (a, o) → s.poisonIn (s.vaultPa a o) (4 * m) = none →
    ∃ t, exec (.copyChunkComplete core n 0) s = .next t ∧ Spec.bytesAt y.pa bs v t) ∧
  (∀ (s : State) (tm : Nat), (s.team tm).state = .resident → 32 ≤ (s.team tm).latencies.length →
    (s.team tm).pipeMin ≤ (s.team tm).pipeMax →
    ∃ t, exec (.pipeDepthAdjust tm) s = .next t ∧ t.mem = s.mem ∧
      (t.team tm).depth = max (s.team tm).pipeMin (min (s.team tm).pipeMax
        ((sumNat ((s.team tm).latencies.take 32) + 4095) / 4096)) ∧
      (t.team tm).latencies = (s.team tm).latencies.drop 32) ∧
  (∀ (s u : State) (core va n : Nat) (c : Ctx) (bs : List Byte), (s.core core).table.fill = some (c, va, n) →
    (s.team (ctxTeam c)).state = .resident → s.fillWait c (s.core core).table.fillPc = some .answer →
    s.storesBefore c va n = false →
    s.fillBytes (s.requester c) va (n / 8) = ({ bytes := bs, stop := none }, u) →
    ∃ t k, exec (.tblldFillComplete core) s = .next t ∧ t = State.advanceOf { u with cores := k } c ∧
      (∀ d, d ≠ core → t.core d = u.core d) ∧
      (let x := (u.core core).table
       let y := (t.core core).table
       y.fill = none ∧ y.current = x.current ∧ y.holder = x.holder ∧ y.draining = x.draining ∧
       (x.current = true → y.bank0 = memPut x.bank0 0 bs ∧ y.bank1 = x.bank1) ∧
       (x.current = false → y.bank1 = memPut x.bank1 0 bs ∧ y.bank0 = x.bank0))) ∧
  (∀ (s : State) (core : Nat), ∃ t, exec (.tblDrainEnd core) s = .next t ∧ t = { s with cores := t.cores } ∧
    (t.core core).table = { (s.core core).table with draining := false } ∧ ∀ d, d ≠ core → t.core d = s.core d) ∧
  (∀ (s : State) (col : Nat),
    ((s.host col).htcmp.toNat ≤ (s.cyc col).toNat → (s.host col).hie.getLsbD 3 = true →
      exec (.hostTimer col) s = .next (s.modHost col fun h => { h with wfi := false })) ∧
    ((s.cyc col).toNat < (s.host col).htcmp.toNat → exec (.hostTimer col) s = .next s)) ∧
  (∀ (s : State) (col n : Nat), (s.host col).stopped = false → (s.host col).wait ≠ .answer → (s.host col).pending = none →
    n < 4 → Spec.interrupts s col n → (∀ m, n < m → m < 4 → ¬ Spec.interrupts s col m) →
    exec (.interruptTaken col) s = .next (s.modHost col (Spec.interrupted n))) ∧
  (∀ (s : State) (col : Nat), (∀ n, n < 4 → ¬ Spec.interrupts s col n) → exec (.interruptTaken col) s = .next s) ∧
  (∀ (s : State) (col id : Nat),
    ((∃ f ∈ (s.col col).faults, f.id = id) → (s.col col).unfiled = [] →
      ∃ t, exec (.fbactRetry col id) s = .next t ∧ ((∀ e ∈ s.teams, e.2.state ≠ .saved) → t.mem = s.mem) ∧
        (t.col col).faults = (s.col col).faults.filter (fun f => f.id ≠ id) ∧
        ∀ tm x, tabFind tm s.teams = some x → x.state = .resident →
          (∀ g p va, g < x.groups.length → p < ((s.group tm g).splits).length → (s.split tm g p).valid = true →
            (s.split tm g p).wait = .parked col id va →
            (t.split tm g p).wait = .none ∧ ∀ q, (t.split tm g q).parkHeld = (s.split tm g q).parkHeld) ∧
          (∀ q va, x.seq = some q → q.wait = .parked col id va → (t.seqr tm).wait = .none)) ∧
    ((∀ f ∈ (s.col col).faults, f.id ≠ id) →
      exec (.fbactRetry col id) s = .next s ∧ exec (.fbactUnservable col id) s = .next s)) ∧
  (∀ (s : State) (col id tm va : Nat) (i : Instr) (w : Word) (u : State), (∃ f ∈ (s.col col).faults, f.id = id) →
    Spec.onCore s (.seq tm) → s.parkedOn col id = [(.seq tm, va)] → Spec.nothingElseWaits s col →
    State.fetch { s.dropRecord col id with cur := .seq tm } = .ok (w, u) → instrOf w = .ok i →
    (∀ a b c, i ≠ .gset a b c) → (∀ a b c d, i ≠ .nvsub a b c d) → (∀ a b, i ≠ .tblld a b) →
    (s.seqr tm).regs.trap.tcause.getLsbD 31 = false → lrTvec (s.team tm).launch ≠ 0 →
    ∃ t, exec (.fbactUnservable col id) s = .next t ∧ t.mem = s.mem ∧ t.cur = s.cur ∧
      (t.col col).faults = (s.col col).faults.filter (fun f => f.id ≠ id) ∧
      (t.seqr tm).pc = BitVec.ofNat 57 (lrTvec (s.team tm).launch) ∧ (t.seqr tm).wait = .none ∧
      (t.seqr tm).regs.trap.tcause = BitVec.ofNat 32 (2 ^ 31 + 6) ∧
      (t.seqr tm).regs.trap.tinfo = BitVec.ofNat 64 (2 ^ 60 * 5 + va % 2 ^ 57) ∧
      (t.seqr tm).regs.trap.epc = (s.seqr tm).pc.setWidth 64) ∧
  (∀ (s : State) (col id tm g p va : Nat) (i : Instr) (w : Word) (u : State), (∃ f ∈ (s.col col).faults, f.id = id) →
    Spec.onCore s (.group tm g p) → s.parkedOn col id = [(.group tm g p, va)] → Spec.nothingElseWaits s col →
    State.fetch { s.dropRecord col id with cur := .group tm g p } = .ok (w, u) → instrOf w = .ok i →
    (∀ a b c, i ≠ .gset a b c) → (∀ a b c d, i ≠ .nvsub a b c d) → (∀ a b, i ≠ .tblld a b) →
    (s.group tm g).regs.trap.tcause.getLsbD 31 = false → lrTvec (s.team tm).launch ≠ 0 →
    let e := s.split tm g p
    ∃ t, exec (.fbactUnservable col id) s = .next t ∧ t.mem = s.mem ∧ t.cur = s.cur ∧
      (t.col col).faults = (s.col col).faults.filter (fun f => f.id ≠ id) ∧
      (t.split tm g p).pc = BitVec.ofNat 57 (lrTvec (s.team tm).launch) ∧ (t.split tm g p).wait = .none ∧
      (t.split tm g p).parkHeld = false ∧
      (t.group tm g).regs.trap = Spec.trapRegs 6 (BitVec.ofNat 64 (2 ^ 60 * 5 + va % 2 ^ 57)) e.pc e.mask ∧
      ∀ q, q ≠ p → q < (s.group tm g).splits.length → (t.split tm g q).pc = (s.split tm g q).pc ∧
        (t.split tm g q).held = ((s.split tm g q).held || (s.split tm g q).valid))

/-! ### Events: power -/

/-- R331: a write of `ISREQ` decides a request for the island of `ISEL` while the `sysw` executes: DENIED, BUSY, FLOOR or OK with
its target, capped at `THCAP` for a matrix or vector island at THROTTLE or above; `ISTAT` reads the island. -/
def Obligations.IslandRequestsAreDecided : Prop :=
  (∀ (s : State) (col : Nat) (v : DWord),
    let n := (s.host col).isel.toNat % 512
    ∃ t, exec (.isreq col v) s = .next t ∧ t = { s with islands := t.islands } ∧
      t.island n = Spec.asked s.now n (s.col (n / 4)) v (s.island n) ∧ ∀ m, m ≠ n → t.island m = s.island m) ∧
  (∀ (s : State) (c : Nat) (d : RegNum), s.cur = .host c → s.ready [srcU d] = .ok () → 1 ≤ (s.host c).pl.toNat →
    let v := (nthLanes (s.readAll [srcU d]).1 0 0).setWidth 64
    let n := (s.host c).isel.toNat % 512
    ∃ t, exec (.sysw d 0x201) s = .next t ∧
      t.island n = Spec.asked s.now n (s.col (n / 4)) v (s.island n) ∧ (∀ m, m ≠ n → t.island m = s.island m) ∧
      (t.host c).isel = (s.host c).isel) ∧
  (∀ (s : State) (c : Nat),
    let i := s.island ((s.host c).isel.toNat % 512)
    (s.sysValue c 0x202).toNat = i.status.toNat + 2 ^ 8 * i.point.toNat + 2 ^ 16 * i.target.toNat +
      (if i.step = true then 2 ^ 20 else 0) + (if i.capped = true then 2 ^ 21 else 0))

/-- R330, R332, R334 to R342: an island's change of point takes its times; a write of `THCAP` at THROTTLE lowers matrix and vector
islands; windows, samples and intervals end with their counters, levels and shares; a level that changes is an event with a
record; idle cores sleep and are gated; a tower that trips loses power and comes back cool. Readings are the model's numbers of
0.001 °C (log 24). That the vault bytes of a tripped tower read 0 (log 20), that TWRPWR compares the last readings (log 81) and
when a core counts as idle (log 91) are the model's choices. -/
def Obligations.PowerFollowsTimeAndTemperature : Prop :=
  (∀ (s : State) (n : Nat),
    let i := s.island n
    (i.phase = 1 → i.since + 2000 ≤ s.now →
      exec (.islandVoltageSettled n) s = .next (s.modIsland n fun j => { j with phase := 2 })) ∧
    (i.phase = 2 → i.since + 2100 ≤ s.now → exec (.islandClockRestart n) s = .next (s.modIsland n (Spec.changed s.now))) ∧
    (i.phase = 3 → i.since + 100 ≤ s.now →
      exec (.islandClockRestart n) s = .next (s.modIsland n fun j => { j with phase := 4 })) ∧
    (i.phase = 4 → i.since + 1100 ≤ s.now → exec (.islandVoltageSettled n) s = .next (s.modIsland n (Spec.changed s.now))) ∧
    (i.phase = 0 → exec (.islandVoltageSettled n) s = .next s ∧ exec (.islandClockRestart n) s = .next s)) ∧
  (∀ (s : State) (col : Nat) (v : DWord),
    ∃ t, exec (.thcapWrite col v) s = .next t ∧ t = { s with cols := t.cols, islands := t.islands } ∧
      (t.col col).gov = { (s.col col).gov with thcap := v.setWidth 4 } ∧
      ((s.col col).gov.level ≠ 2 → t.islands = s.islands) ∧
      ((s.col col).gov.level = 2 → ∀ n, n < 2 → (s.island (4 * col + n)).step = false →
        t.island (4 * col + n) = Spec.loweredTo s.now (v.setWidth 4) (s.island (4 * col + n)))) ∧
  (∀ (s : State) (col : Nat) (a b c d : Activity), (s.cyc col).toNat % 10000 = 0 → tabGet 0 0 (s.col col).marks ≠ s.now + 1 →
    (∀ m ∈ [a, b, c, d], 0 < m.cycles ∧ m.busy + m.stall ≤ m.cycles) →
    ∃ t, exec (.activityWindowEnd col [a, b, c, d]) s = .next t ∧ t = { s with islands := t.islands, cols := t.cols } ∧
      ∀ n m, [a, b, c, d][n]? = some m → t.island (4 * col + n) =
        { s.island (4 * col + n) with
          sample := (s.island (4 * col + n)).sample + 1, busyr := BitVec.ofNat 16 (65535 * m.busy / m.cycles),
          stallr := BitVec.ofNat 16 (65535 * m.stall / m.cycles) }) ∧
  (∀ (s : State) (col tj : Nat) (xs : List Nat), col < 128 → (s.cyc col).toNat % 10000 = 0 →
    tabGet 0 1 (s.col col).marks ≠ s.now + 1 → xs.length = 10 →
    (∀ x ∈ xs, x / 125 ≤ tj) → (∃ x ∈ xs, x / 125 = tj) →
    let g := (s.col col).gov
    let new := Spec.level g.level.toNat tj (s.now - g.since)
    (new = g.level.toNat → ∃ t, exec (.governorSample col xs) s = .next t ∧ (t.col col).gov = { g with tj := tj } ∧
      t.islands = s.islands ∧ t.teams = s.teams) ∧
    (new ≠ g.level.toNat → new ≠ 3 → ∃ t, exec (.governorSample col xs) s = .next t ∧
      (t.col col).gov = { g with tj := tj, level := BitVec.ofNat 2 new, events := g.events + 1, since := s.now } ∧
      ((s.host col).q6.length < 64 → ∃ r, (t.host col).q6 = (s.host col).q6 ++ [r] ∧ r.toNat % 2 ^ 16 = 0x20 ∧
        r.toNat / 2 ^ 16 % 4 = new ∧ r.toNat / 2 ^ 18 % 4 = g.level.toNat ∧ r.toNat / 2 ^ 96 % 2 ^ 12 = tj % 2 ^ 12) ∧
      (new ≠ 2 → t.islands = s.islands)) ∧
    (new ≠ g.level.toNat → new = 3 → (s.teamsOn fun c => colOfCore c = col) = [] →
      ∃ t, exec (.governorSample col xs) s = .next t ∧
        (t.col col).gov = { g with tj := tj, level := 3, events := g.events + 1, since := s.now, dropPending := true })) ∧
  (∀ (s : State) (col : Nat), (s.col col).gov.dropPending = true → (s.teamsOn fun c => colOfCore c = col) = [] →
    ∃ t, exec (.emergencyIslandDrop col) s = .next t ∧ (t.col col).gov = { (s.col col).gov with dropPending := false } ∧
      ∀ n, n < 4 → (s.island (4 * col + n)).step = false →
        t.island (4 * col + n) = Spec.loweredTo s.now 0 (s.island (4 * col + n))) ∧
  (∀ (s : State) (core : Nat),
    ((s.core core).asleep = false → (s.core core).powered = true → s.coreIdle core = true →
      (s.core core).idleSince + 2000 ≤ s.now →
      exec (.coreSleep core) s = .next (s.modCore core fun c => { c with asleep := true, sweep := [] })) ∧
    (s.coreIdle core = false → exec (.coreSleep core) s = .next s) ∧
    ((s.core core).asleep = true → (s.core core).sweep = [] → s.coreIdle core = true → exec (.coreWake core) s = .next s) ∧
    ((s.core core).asleep = true → (s.core core).sweep = [] → s.coreIdle core = false →
      ∃ t, exec (.coreWake core) s = .next t ∧ t = s.modCore core (fun c => { c with sweep := (t.core core).sweep }) ∧
        (4, s.now + 1000) ∈ (t.core core).sweep ∧ ∀ q, q < 4 → 0 < s.quarterRows core q →
          (q, s.now + 1000 + (s.quarterRows core q + 15) / 16) ∈ (t.core core).sweep) ∧
    ((s.core core).sweep ≠ [] →
      ∃ t, exec (.coreWake core) s = .next t ∧
        t = s.modCore core (fun c => { c with sweep := (t.core core).sweep, asleep := (t.core core).asleep }) ∧
        (∀ e, e ∈ (t.core core).sweep ↔ e ∈ (s.core core).sweep ∧ s.now < e.2) ∧
        ((t.core core).asleep = true ↔ (s.core core).asleep = true ∧ ∃ e ∈ (s.core core).sweep, s.now < e.2 ∧ e.1 = 4))) ∧
  (∀ (s : State) (core : Nat), (s.gateBit core = true → (s.core core).powered = true →
      ((s.teamsOn fun c => c = core) ≠ [] → ∃ t, exec (.pgateGate core) s = .next t ∧ (t.core core).powered = true ∧
        ((t.core core).gating = true ↔
          (s.core core).gating = true ∨ ∃ tm ∈ s.teamsOn (fun c => c = core), (s.team tm).recPa = 0) ∧
        ∀ tm x, tabFind tm s.teams = some x → x.core = core → x.state = .resident →
          (∀ e ∈ s.teams, e.2.cluster = x.cluster → (s.team e.1).recPa ≠ 0) →
          (t.team tm).halted = true ∧
          (t.team tm).reason = if x.halted = true ∧ 3 < x.reason.toNat then x.reason else 3) ∧
      ((s.teamsOn fun c => c = core) = [] →
        ∃ t, exec (.pgateGate core) s = .next t ∧ (t.core core).powered = false ∧ (t.core core).gating = false ∧
          (t.core core).l1 = [] ∧ (t.core core).roCache = [] ∧ (t.core core).mq = [] ∧ (t.core core).cq = [] ∧
          t.teams = s.teams)) ∧
    (s.gateBit core = false → ((s.core core).powered = false ∨ (s.core core).gating = true) →
      exec (.pgateUngate core) s = .next (s.modCore core fun c =>
        { c with powered := true, gating := false, idleSince := s.now }))) ∧
  (∀ (s : State) (col e : Nat),
    let x := (s.col col).energy
    let total := sumNat ((upto 256).map (Spec.energyOf s col))
    s.pastMark col 2 100000 = true → ∃ t, exec (.energyInterval col e) s = .next t ∧ t = { s with cols := t.cols } ∧
      (total = 0 → (t.col col).energy = { x with eh := x.eh + BitVec.ofNat 64 (e + x.carry), carry := 0 }) ∧
      (total ≠ 0 → (t.col col).energy.eh = x.eh ∧
        ∀ j, tabGet 0 j (t.col col).energy.ej =
          tabGet 0 j x.ej + BitVec.ofNat 64 ((e + x.carry) * Spec.energyOf s col j / total))) ∧
  (∀ (s : State) (col e : Nat), (s.pastMark col 2 100000 = false → exec (.energyInterval col e) s = .next s) ∧
    (s.pastMark col 3 10000 = false → exec (.budgetPeriod col) s = .next s)) ∧
  (∀ (s : State) (col : Nat), s.pastMark col 3 10000 = true →
    ∃ t, exec (.budgetPeriod col) s = .next t ∧
      (col % 16 ≠ 0 ∨ (s.mgmtWait = [] ∧ (col ≠ 0 ∨ s.waveWait = [])) → t = { s with cols := t.cols, hbm := t.hbm } ∧
        ∀ k b, tabFind k (s.col col).budgets = some b →
          tabFind k (t.col col).budgets = some { b with last := b.now, now := 0 }) ∧
      (∀ k, k / 2 * 16 = col → t.stack k = { s.stack k with scrubLast := (s.stack k).scrubNow, scrubNow := 0 }) ∧
      ∀ k, k / 2 * 16 ≠ col → t.stack k = s.stack k) ∧
  (∀ (s : State) (k temp : Nat),
    ((s.stack k).readAt + 1000000 ≤ s.now → exec (.hbmTempReading k temp) s = .next (s.modStack k fun x =>
      { x with reads := x.reads + 1, temp := BitVec.ofNat 8 temp, ref := Spec.hbmCode 95 93 85 83 x.ref temp,
               cap := Spec.hbmCode 105 103 100 98 x.cap temp, readAt := s.now })) ∧
    (s.now < (s.stack k).readAt + 1000000 → exec (.hbmTempReading k temp) s = .next s)) ∧
  (∀ (s : State) (tower sensor : Nat), tower < 8 → 115000 ≤ sensor →
    ∃ t, exec (.thermalTrip tower sensor) s = .next t ∧ t.hertor.malrt = true ∧
      (∀ pa, segmentBase + tower * 128 * 0x200000 ≤ pa → pa < segmentBase + (tower + 1) * 128 * 0x200000 →
        t.physByte pa = 0 ∧ pa / 128 ∉ t.poison) ∧
      ((s.teamsOn fun c => towerOfCore c = tower) = [] → (t.tower tower).powered = false ∧ t.teams = s.teams)) ∧
  (∀ (s : State) (tower sensor : Nat), sensor < 115000 → exec (.thermalTrip tower sensor) s = .next s) ∧
  (∀ (s : State) (v : DWord), ∃ t, exec (.twrpwr v) s = .next t ∧ t = { s with towers := t.towers } ∧
    ∀ k, k < 8 → t.tower k =
      if v.getLsbD k = true ∧ (s.tower k).sensor ≤ 90000 ∧ ∀ r ∈ (s.tower k).readings, r.2 ≤ 90000 then
        { s.tower k with powered := true }
      else s.tower k)

/-! ### Events: reliability and service -/

/-- R278, R307, R344 to R351, R355 to R357: scrubs correct, count and log what they find, or poison it; the logs lose their oldest
record; a line is cleared; save records are released; a failed column stops; channels and columns leave service in their steps,
and a refused command says so in its status. That errors of HBM are logged in the tower's first column and what HBMRST counts (log 83),
and the order in COLSVC and the BUSY of a column out of service (log 82), are the model's choices. -/
def Obligations.ErrorsAreLoggedAndPartsServiced : Prop :=
  (∀ (s : State) (tm g row l : Nat) (x : Team) (synd : DWord), tabFind tm s.teams = some x → x.state = .resident →
    g < x.groups.length → (s.group tm g).retired = false → row < lrRegs x.launch → l < 32 →
    exec (.rfScrub tm g row []) s = .next s ∧
    (∃ t, exec (.rfScrub tm g row [(l, .corrected synd)]) s = .next t ∧ t.mem = s.mem ∧
      (t.group tm g).regs.stat.getLsbD 13 = true ∧ (t.group tm g).badRegs = (s.group tm g).badRegs ∧
      (t.col (colOfCore x.core)).errCount = (s.col (colOfCore x.core)).errCount + 1 ∧
      Spec.errorLogged (colOfCore x.core) 0 0 row synd s t) ∧
    (∃ t, exec (.rfScrub tm g row [(l, .uncorrectable synd)]) s = .next t ∧ t.mem = s.mem ∧
      (t.group tm g).regs = (s.group tm g).regs ∧
      (∀ n, n ∈ (t.group tm g).badRegs ↔ n = 32 * row + l ∨ n ∈ (s.group tm g).badRegs) ∧
      Spec.errorLogged (colOfCore x.core) 0 1 row synd s t)) ∧
  (∀ (s : State) (line : Nat) (synd : DWord), s.place (128 * line) = .hbm → s.isFreed (128 * line) = false →
    let k := 128 * line / 2 ^ 36
    let col := 16 * (k / 2)
    (s.stack k).scrubNow + 128 ≤ 1024 * (tabGet Budget.zero 1 (s.col col).budgets).limit.toNat →
    exec (.hbmScrub line .clean) s = .next (s.modStack k fun x => { x with scrubNow := x.scrubNow + 128 }) ∧
    (∃ t, exec (.hbmScrub line (.corrected synd)) s = .next t ∧ t.poison = s.poison ∧ t.mem = s.mem ∧
      (t.col col).errCount = (s.col col).errCount + 1 ∧ Spec.errorLogged col 6 0 (128 * line) synd s t) ∧
    (∃ t, exec (.hbmScrub line (.uncorrectable synd)) s = .next t ∧ (∀ l, l ∈ t.poison ↔ l = line ∨ l ∈ s.poison) ∧
      t.mem = s.mem ∧ Spec.errorLogged col 6 1 (128 * line) synd s t)) ∧
  (∀ (s : State) (synd : DWord),
    (∀ line, s.place (128 * line) = .vault →
      ∃ t, exec (.vaultSliceAccumScrub (.vault line) (.uncorrectable synd)) s = .next t ∧
        (∀ l, l ∈ t.poison ↔ l = line ∨ l ∈ s.poison) ∧
        Spec.errorLogged (colOfCore ((128 * line - segmentBase) / 0x200000)) 2 1 (128 * line) synd s t) ∧
    (∀ col line st, tabFind line (s.col col).coh.lines = some st →
      ∃ t, exec (.vaultSliceAccumScrub (.slice col line) (.uncorrectable synd)) s = .next t ∧
        (∀ l, l ∈ t.poison ↔ l = line ∨ l ∈ s.poison) ∧ Spec.errorLogged col 5 1 (128 * line) synd s t) ∧
    (∀ tm bank word x b, tabFind tm s.teams = some x → x.state = .resident → word < 1024 → tabFind bank x.acc = some b →
      ∃ t, exec (.vaultSliceAccumScrub (.accum tm bank word) (.uncorrectable synd)) s = .next t ∧
        (∃ b', tabFind bank (t.team tm).acc = some b' ∧ b' = { b with bad := b'.bad } ∧
          ∀ n, n ∈ b'.bad ↔ n = word ∨ n ∈ b.bad) ∧
        Spec.errorLogged (colOfCore x.core) 1 1 (32 * bank + word / 32) synd s t)) ∧
  (∀ (s : State) (col : Nat), (s.col col).errSince + 1000000000 ≤ s.now →
    ∃ t, exec (.errorRateCheck col) s = .next t ∧ (t.col col).errRecent = 0 ∧ (t.col col).errSince = s.now ∧
      ((s.col col).errThr ≠ 0 → (s.col col).errThr.toNat < (s.col col).errRecent → (s.host col).q6.length < 64 →
        ∃ r, (t.host col).q6 = (s.host col).q6 ++ [r] ∧ r.toNat % 256 = 0x30) ∧
      ((s.col col).errThr = 0 ∨ (s.col col).errRecent ≤ (s.col col).errThr.toNat → (t.host col).q6 = (s.host col).q6)) ∧
  (∀ (s : State) (col : Nat), ∃ t, exec (.columnFailure col) s = .next t ∧ t.hertor = { s.hertor with malrt := true } ∧
    ((∀ e ∈ s.teams, colOfCore e.2.core ≠ col ∧ colOfCore (homeOf e.1) ≠ col) → t.teams = s.teams ∧
      (t.col col).svc = { (s.col col).svc with failed := true } ∧ (t.host col).stopped = true)) ∧
  (∀ (s : State) (v : DWord), let pa := v.toNat / 2 ^ 7 % 2 ^ 45 * 128
    (s.place pa ≠ .hbm → exec (.erpclr v) s = .next s) ∧
    (s.place pa = .hbm → ∃ t, exec (.erpclr v) s = .next t ∧ (∀ l, l ∈ t.poison ↔ l ∈ s.poison ∧ l ≠ pa / 128) ∧
      Spec.stored pa 128 0 s t)) ∧
  (∀ (s : State) (col tower : Nat),
    exec (.erlpop col) s = .next (s.modCol col fun c => { c with errs := c.errs.tail, errOvf := false }) ∧
    exec (.losspop tower) s = .next (s.modTower tower fun w => { w with losses := w.losses.tail, lossOvf := false })) ∧
  (∀ (s : State) (v : DWord) (tm : Nat) (x : Team), tm = 64 * (v.toNat / 2 ^ 16 % 1024) + v.toNat / 1024 % 64 →
    tabFind tm s.teams = some x → x.gen.toNat = v.toNat % 1024 →
    (x.state = .saved → x.reason = 5 → ∃ t, exec (.saverel v) s = .next t ∧ tabFind tm t.teams = none ∧
      ∀ u, u ≠ tm → tabFind u t.teams = tabFind u s.teams) ∧
    (x.state ≠ .saved ∨ x.reason ≠ 5 → exec (.saverel v) s = .next s)) ∧
  (∀ (s : State) (v : DWord), let k := v.toNat % 16
    ((s.stack k).retired ≠ 0 ∨ (s.stack k).moving ≠ none ∨ State.topMapped { s with hbmLast := k } k = true →
      exec (.hbmret v) s = .next (State.modStack { s with hbmLast := k } k fun x => { x with status := 10 })) ∧
    ((s.stack k).retired = 0 → (s.stack k).moving = none → State.topMapped { s with hbmLast := k } k = false →
      exec (.hbmret v) s = .next (State.modStack { s with hbmLast := k } k fun x =>
        { x with moving := some (v.toNat / 256 % 32), status := 6, toMove := 16252928 }))) ∧
  (∀ (s : State) (k c : Nat), (s.stack k).moving = some c → (s.stack k).toMove = 0 →
    ∃ t, exec (.hbmChannelMoveDone k) s = .next t ∧
      t.stack k = { s.stack k with retired := (s.stack k).retired ||| ((1 : Word) <<< c), moving := none, status := 0,
                                   toMove := 0, range31gone := true } ∧
      ∀ pa, 2 ^ 36 * k + 2 ^ 31 * 31 ≤ pa → pa < 2 ^ 36 * (k + 1) → memByte pa t.mem = 0 ∧ pa / 128 ∉ t.poison) ∧
  (∀ (s : State) (k : Nat), (s.stack k).toMove ≠ 0 → exec (.hbmChannelMoveDone k) s = .next s) ∧
  (∀ (s : State) (col target : Nat) (on : Bool), exec (.colsvcDrain col target on) s =
    .next (s.modCol target fun c => { c with svc := { c.svc with drain := on, status := 0 } })) ∧
  (∀ (s : State) (col target : Nat),
    (col = target → exec (.colsvcReset col target) s =
      .next (s.modCol target fun c => { c with svc := { c.svc with status := 10 } })) ∧
    (col ≠ target → (s.col target).svc.drain = false ∨ (s.teamsOn fun c => colOfCore c = target) ≠ [] ∨
        (s.col target).svc.retired = true ∨ (s.col target).svc.failed = true →
      exec (.colsvcReset col target) s = .next (s.modCol target fun c => { c with svc := { c.svc with status := 6 } })) ∧
    (col ≠ target → (s.col target).svc.drain = true → (s.teamsOn fun c => colOfCore c = target) = [] →
      (s.col target).svc.retired = false → (s.col target).svc.failed = false →
      (∀ e ∈ s.teams, colOfCore (homeOf e.1) ≠ target) →
      ∃ t, exec (.colsvcReset col target) s = .next t ∧ t.host target = HostCore.reset ∧ t.cyc target = 0 ∧
        (t.col target).gseq = 0 ∧ (t.col target).svc.drain = true ∧ (t.col target).svc.staged = none ∧ (t.col target).svc.status = 0 ∧
        (∀ ty svn, (s.col target).svc.staged = some (ty, svn) → tabFind ty.toNat (t.col target).svc.running = some svn) ∧
        ∀ c i, c / 8 = target → i < 64 → tabGet 0 i (t.core c).gens = tabGet 0 i (s.core c).gens + 1) ∧
    ((s.col target).svc.drain = false ∨ (s.teamsOn fun c => colOfCore c = target) ≠ [] →
      exec (.colsvcRetire col target) s = .next (s.modCol target fun c => { c with svc := { c.svc with status := 6 } })) ∧
    ((s.col target).svc.drain = true → (s.teamsOn fun c => colOfCore c = target) = [] →
      ∃ t, exec (.colsvcRetire col target) s = .next t ∧
        (t.col target).svc = { (s.col target).svc with retired := true, status := 0 })) ∧
  (∀ (s : State) (col target : Nat), let v := (s.col target).svc
    let bs := s.physRead v.image.toNat (0x4400 + ofBytes (s.physRead (v.image.toNat + 0xC) 4))
    let ty := imageType bs
    (v.retired = true ∨ v.failed = true → exec (.colsvcLoad col target) s =
      .next (s.modCol target fun c => { c with svc := { c.svc with status := 6 } })) ∧
    (v.retired = false → v.failed = false → ty = 2 ∨ ty = 3 → s.hertor.accept ty bs = .accepted →
      exec (.colsvcLoad col target) s = .next (s.modCol target fun c =>
        { c with svc := { c.svc with staged := some (BitVec.ofNat 16 ty, BitVec.ofNat 32 (imageSvn bs)), status := 0 } })) ∧
    (v.retired = false → v.failed = false → (ty ≠ 2 ∧ ty ≠ 3) ∨ s.hertor.accept ty bs ≠ .accepted →
      exec (.colsvcLoad col target) s = .next (s.modCol target fun c => { c with svc := { c.svc with status := 10 } })))

/-! ### Events: keys, links, hosts and bring-up -/

/-- R234, R302, R305, R314, R317, R318, R322 to R326, R343, R349, R352 to R359: job, wave, queue and ring registers take what is
written; keys change, and the old one is kept until it is retired; links go up and down; a datagram with a bad
tag is discarded; PCIe requests read and write HBM; Hertor answers; and power and reset bring the package up or hold it. Where a
datagram's payload and an SPDM answer carry more than a rule lays out, the model's reading is that of logs 104, 15 and 21. That
clearing EN of a queue changes nothing else (log 66), what MRSTN and bring-up leave (log 84) and what an ACKSEQ does (log 113) are
the model's choices. -/
def Obligations.KeysLinksAndBringUp : Prop :=
  (∀ (s : State) (job : Nat) (v : DWord), ∃ t, exec (.jobctlWrite job v) s = .next t ∧ t.mem = s.mem ∧
    (∀ i, i < 64 → (t.job job).ctl.getLsbD i =
      if i = 62 then (s.job job).ctl.getLsbD i && !v.getLsbD i
      else (i = 63 || (32 ≤ i && i < 48) || i < 16) && v.getLsbD i) ∧
    (v.getLsbD 63 = true → (s.job job).ctl.getLsbD 63 = false → (t.job job).mcfail = 0 ∧
      ∀ k x, tabFind k (s.job job).towers = some x →
        tabFind k (t.job job).towers = some { x with inj := 0, con := 0, lost := 0 }) ∧
    (v.getLsbD 63 = false ∨ (s.job job).ctl.getLsbD 63 = true →
      (t.job job).mcfail = (s.job job).mcfail ∧ (t.job job).towers = (s.job job).towers) ∧
    (v.getLsbD 63 = false → (s.job job).ctl.getLsbD 63 = true → ∀ col, ∀ g ∈ (t.col col).grids, ∀ p ∈ g.parts,
      lrJob p.launch = job → p.next < lrTeams p.launch → p.denied = true)) ∧
  (∀ (s : State) (job : Nat) (v : DWord),
    exec (.jobkeyWrite job true v) s = .next (s.modJob job fun b => { b with key1 := v }) ∧
    exec (.jobkeyWrite job false v) s = .next (s.modJob job fun b => { b with key0 := v }) ∧
    (let n := v.toNat % 32
     (4 ≤ n → n ≤ 20 → exec (.telemetryRingSet job true v) s =
       .next (s.modJob job fun b => { b with trsize := BitVec.ofNat 64 n, trhead := 0, trtail := 0 })) ∧
     (n < 4 ∨ 20 < n → exec (.telemetryRingSet job true v) s = .next s)) ∧
    exec (.telemetryRingSet job false v) s =
      .next (s.modJob job fun b => { b with trbase := BitVec.ofNat 64 (v.toNat / 4096 * 4096), trhead := 0, trtail := 0 })) ∧
  (∀ (s : State) (job : Nat) (v : DWord), (∀ e ∈ s.teams, lrJob e.2.launch = job → e.2.state ≠ .saving ∧ e.2.state ≠ .restoring) →
    ∃ t, exec (.wvctlWrite job v) s = .next t ∧
      ((s.job job).ctl.getLsbD 63 = true → ∀ i, i < 64 → (t.job job).wvctl.getLsbD i =
        if i = 63 then v.getLsbD i else (s.job job).wvctl.getLsbD i) ∧
      ((s.job job).ctl.getLsbD 63 = false → (t.job job).wvctl = v &&& 0xC00FFFFF0000FFFF) ∧
      (v.getLsbD 63 = true → (s.job job).wvctl.getLsbD 63 = false → (t.job job).wave.pass = 0 ∧
        (t.job job).wave.running = false ∧ (t.job job).wave.started = s.now)) ∧
  (∀ (s : State) (v : DWord), exec (.lnkdrainWrite v) s = .next { s with lnkdrain := BitVec.ofNat 64 (v.toNat % 2 ^ 36) } ∧
    ∀ k, k < 32 → v.getLsbD k = true →
      ({ s with lnkdrain := BitVec.ofNat 64 (v.toNat % 2 ^ 36) }.linkDrained k = true ↔ (tabGet Plane.reset k s.planes).replay = [])) ∧
  (∀ (s : State) (queue : Nat) (v : DWord), let q := s.nvq queue
    ∃ t, exec (.nvqctlWrite queue v) s = .next t ∧ t = { s with nvqs := t.nvqs } ∧
      (q.ctl.getLsbD 63 = true → v.getLsbD 63 = true → t.nvq queue = q) ∧
      (q.ctl.getLsbD 63 = true → v.getLsbD 63 = false → t.nvq queue = { q with ctl := q.ctl &&& 0x7FFFFFFFFFFFFFFF }) ∧
      (q.ctl.getLsbD 63 = false → v.getLsbD 63 = false → t.nvq queue = { q with ctl := v &&& 0xF0FF0FFFFFFFFFFF }) ∧
      (q.ctl.getLsbD 63 = false → v.getLsbD 63 = true →
        t.nvq queue = { q with ctl := v &&& 0xF0FF0FFFFFFFFFFF, sqtail := 0, sqhead := 0, cqhead := 0, phase := true })) ∧
  (∀ (s : State) (pod : Nat) (v : DWord), let k := tabGet ShlKey.reset pod s.shlkeys
    (∃ t, exec (.shlkeyWrite pod v) s = .next t ∧ t = { s with shlkeys := t.shlkeys } ∧
      (let x := tabGet ShlKey.reset pod t.shlkeys
       x.key.toNat = k.staged.toNat % 2 ^ 192 + 2 ^ 192 * v.toNat ∧ x.staged = x.key ∧ x.old = some k.key ∧ x.changed = s.now)) ∧
    (k.changed + 1000000 ≤ s.now → exec (.shlkeyOldExpire pod) s =
      .next { s with shlkeys := tabSet pod { k with old := none } s.shlkeys }) ∧
    (s.now < k.changed + 1000000 → exec (.shlkeyOldExpire pod) s = .next s)) ∧
  (∀ (s : State) (plane : Nat) (k : Plane), tabFind plane s.planes = some k →
    let now := fun (x : Plane) => { s with planes := tabSet plane x s.planes }
    (k.busy = false → exec (.ukctlRotate plane) s =
      .next (now { k with old := some k.key, key := k.staged, keyId := k.keyId + 1, busy := true })) ∧
    (k.busy = true → (∀ f ∈ k.replay, f.2 = k.keyId) →
      exec (.keyRetire plane) s = .next (now { k with old := none, busy := false })) ∧
    (k.busy = false ∨ (∃ f ∈ k.replay, f.2 ≠ k.keyId) → exec (.keyRetire plane) s = .next (now k))) ∧
  (∀ (s : State) (link : Nat) (up : Bool), exec (.linkRetry link) s = .next s ∧
    (link < 38 → ∃ t, exec (.linkStateChange link up) s = .next t ∧ t = { s with links := t.links } ∧
      ∀ i, i < 38 → t.links.getLsbD i = if i = link then up else s.links.getLsbD i)) ∧
  (∀ (s : State) (dg : Datagram),
    (¬ Spec.tagHolds s dg ∨ ¬ Spec.datagramFor s dg → exec (.sahlinDatagram dg) s = .next s) ∧
    (Spec.tagHolds s dg → Spec.datagramFor s dg →
      let h := dg.header.toNat
      let type := h / 2 ^ 248 % 16
      let st := h / 2 ^ 144 % 32
      let u := { s with shlrx := s.shlrx ++ [(dg.header, dg.payload)], sent := s.sent.map (Spec.covered h) }
      (∀ cls, type = 0 ∨ type = 2 → classOf (h / 2 ^ 224 % 16) = some cls →
        ∃ m, exec (.sahlinDatagram dg) s = .next { u with inbound := u.inbound ++ [m], fresh := s.fresh + 1 } ∧ m.cls = cls ∧
          m.snode.toNat = h / 2 ^ 172 % 2 ^ 20 ∧ m.stwr.toNat = h / 2 ^ 231 % 8 ∧ m.dnode = s.node ∧
          m.dtwr.toNat = h / 2 ^ 228 % 8 ∧ m.seqNo.toNat = h / 2 ^ 192 % 2 ^ 32 ∧ m.tag = h / 2 ^ 234 % 64 ∧
          m.job.toNat = h / 2 ^ 240 % 256 ∧ (m.writeoff = true ↔ type = 2)) ∧
      (type = 1 ∧ st ≤ 11 ∨ type = 3 ∧ st ≤ 11 ∨ type = 7 →
        (∀ x, s.answeredBy h = some x →
          ∃ a, exec (.sahlinDatagram dg) s = .next { u with acks := u.acks ++ [a] } ∧ a.id = x.msg.id) ∧
        (s.answeredBy h = none → exec (.sahlinDatagram dg) s = .next u)) ∧
      (4 ≤ type → type ≤ 6 → ∃ w, exec (.sahlinDatagram dg) s = .next { u with waves := u.waves ++ [w] } ∧
        w.job = h / 2 ^ 240 % 256) ∧
      (8 ≤ type → exec (.sahlinDatagram dg) s = .next u))) ∧
  (∀ (s : State) (port off len pa : Nat) (bs : List Byte), port < 2 → (tabGet PciePort.reset port s.pcie).inReset = false →
    s.hertor.aux = true →
    let port' := fun (t : State) => tabGet PciePort.reset port t.pcie
    let answered := fun (x : List Byte) (t : State) => (port' t).answers = (port' s).answers ++ [x] ∧ t.teams = s.teams ∧
      t.mem = s.mem
    let written := fun (a : Nat) (t : State) => (∀ b, b < a ∨ a + bs.length ≤ b → t.physByte b = s.physByte b) ∧
      (Memory.wf s.mem = true → ∀ i, i < bs.length → Spec.stores s (a + i) → t.physByte (a + i) = bs.getD i 0)
    (off + len ≤ 2 ^ 40 →
      (∃ t, exec (.pcieInboundRequest port (.read 2 off len)) s = .next t ∧ answered (s.physRead off len) t) ∧
      ∃ t, exec (.pcieInboundRequest port (.deviceRead off len)) s = .next t ∧ answered (s.physRead off len) t) ∧
    (off < 0x1000 → off + len ≤ 0x1000 →
      ∃ t, exec (.pcieInboundRequest port (.read 0 off len)) s = .next t ∧ answered (s.physRead (deviceBase + off) len) t) ∧
    (pa < 2 ^ 40 → ∃ t, exec (.pcieInboundRequest port (.memRead pa)) s = .next t ∧
      answered (s.physRead (pa / 128 * 128) 128) t ∧ pa / 128 ∈ (port' t).held) ∧
    (s.place pa = .window → s.portOf pa = port → ∃ t, exec (.pcieInboundRequest port (.takeBack pa)) s = .next t ∧
      tabFind (pa / 128) t.directory = none ∧ t.mem = s.mem ∧ t.teams = s.teams) ∧
    (∀ col on, exec (.pcieInboundRequest port (.msixEnable col on)) s = .next (s.modPcie port fun p =>
      { p with msixOn := if on then insertNat col p.msixOn else p.msixOn.filter (fun c => c ≠ col) })) ∧
    (off + bs.length ≤ 2 ^ 40 →
      (∃ t, exec (.pcieInboundRequest port (.write 2 off bs)) s = .next t ∧ written off t) ∧
      ∃ t, exec (.pcieInboundRequest port (.deviceWrite off bs)) s = .next t ∧ written off t) ∧
    (pa / 128 * 128 + bs.length ≤ 2 ^ 40 →
      ∃ t, exec (.pcieInboundRequest port (.memWrite pa bs)) s = .next t ∧ written (pa / 128 * 128) t)) ∧
  (∀ (s : State) (port : Nat) (req : PcieReq), 2 ≤ port ∨ (tabGet PciePort.reset port s.pcie).inReset = true →
    exec (.pcieInboundRequest port req) s = .next s) ∧
  (∀ (s : State), s.hertor.aux = true → s.hertor.mrstnLow = false →
    let answered := fun (r : SpdmReq) (bs : List Byte) =>
      { s with hertor := { s.hertor with answers := s.hertor.answers ++ [(r, bs)] } }
    exec (.spdmRequest .getVersion) s = .next (answered .getVersion (Config.spdmContent 0)) ∧ exec (.spdmRequest .other) s = .next s ∧
    (∀ i c, 1 ≤ i → i ≤ 4 → tabFind i s.hertor.accepted = some c →
      exec (.spdmRequest (.getMeasurements i)) s =
        .next (answered (.getMeasurements i) (toBytes 48 (ofBytes ((c.bytes.drop 0x20).take 48))))) ∧
    ∃ t, exec (.spdmRequest .finish) s = .next t ∧ t.hertor.sessions = s.hertor.sessions + 1) ∧
  (∀ (s : State), s.hertor.aux = false →
    ∃ t, exec .auxPowerOn s = .next t ∧ Spec.hostsStopped t ∧ t.links = 0 ∧ t.teams = [] ∧ t.now = s.now ∧
      t.hertor.aux = true ∧
      (tabGet [] 1 s.hertor.flash = [] → t.hertor.hrdy = false ∧ t.hertor.malrt = true ∧ t.hertor.failure = 4) ∧
      ((∀ ty, ty = 1 ∨ ty = 2 ∨ ty = 4 → (s.hertor.firstGood ty (tabGet [] ty s.hertor.flash)).1 = .accepted) →
        t.hertor.hrdy = true ∧ t.hertor.step = 4)) ∧
  (∀ (s : State), s.hertor.aux = true → s.hertor.hrdy = true → s.hertor.main = false → s.hertor.mrstnLow = false →
    (∃ t, exec (.mainPowerOn true) s = .next t ∧ t.hertor.main = true ∧ t.hertor.step = 8 ∧ t.hertor.failure = 0 ∧
      t.teams = [] ∧ t.mem = [] ∧ ∀ c, c < 128 → t.host c = HostCore.reset ∧
        (t.col c).svc.retired = (tabGet 0 (c / 16) s.hertor.cfgRetired).getLsbD (c % 16)) ∧
    (∃ t, exec (.mainPowerOn false) s = .next t ∧ t.hertor.step = 5 ∧ t.hertor.failure = 3 ∧ t.hertor.malrt = true ∧
      Spec.hostsStopped t)) ∧
  (∀ (s : State), (∃ t, exec (.mrstn true) s = .next t ∧ t.hertor.mrstnLow = true ∧ t.hertor.hrdy = false ∧
      Spec.hostsStopped t ∧ t.teams = []) ∧
    (s.hertor.mrstnLow = false → exec (.mrstn false) s = .next s) ∧
    (s.hertor.mrstnLow = true → s.hertor.aux = false →
      exec (.mrstn false) s = .next { s with hertor := { s.hertor with mrstnLow := false } })) ∧
  (∀ (s : State) (port : Nat), ∃ t u, exec (.perstn port true) s = .next t ∧ exec (.perstn port false) s = .next u ∧
    tabFind port t.pcie = some { PciePort.reset with inReset := true } ∧
    (tabGet PciePort.reset port u.pcie).inReset = false ∧ t = { s with pcie := t.pcie } ∧ u = { s with pcie := u.pcie }) ∧
  (∀ (s : State), (s.hertor.main = true → exec (.powerRemoval true) s = .next s ∧
      ∃ t, exec (.powerRemoval false) s = .next t ∧ t.hertor.main = false ∧ Spec.hostsStopped t) ∧
    (s.hertor.main = false → s.hertor.aux = true →
      ∃ t, exec (.powerRemoval true) s = .next t ∧ t.hertor.aux = false ∧ t.hertor.hrdy = false ∧ Spec.hostsStopped t))
end

