-- ==== Sys2Proof/Laws/State.lean ====
section
/-! SUPPORT. What the updates of the state leave alone, field by field, and what reading a part after an update gives. -/

namespace Sys2Proof.Machine

/-! ### Tables -/

variable {α : Type}

theorem tabFind_tabSet_same (n : Nat) (x : α) (t : Tab α) : tabFind n (tabSet n x t) = some x := by
  induction t with
  | nil => simp [tabSet, tabFind]
  | cons e t ih =>
    obtain ⟨m, y⟩ := e
    by_cases h : n < m
    · simp [tabSet, tabFind, h]
    · by_cases h2 : n = m
      · simp [tabSet, tabFind, h2]
      · simp [tabSet, tabFind, h, h2, Ne.symm h2, ih]

theorem tabFind_tabSet_other {k n : Nat} (x : α) (t : Tab α) (hk : k ≠ n) : tabFind k (tabSet n x t) = tabFind k t := by
  induction t with
  | nil => simp [tabSet, tabFind, Ne.symm hk]
  | cons e t ih =>
    obtain ⟨m, y⟩ := e
    by_cases h : n < m
    · simp [tabSet, tabFind, h, Ne.symm hk]
    · by_cases h2 : n = m
      · subst h2; simp [tabSet, tabFind, Ne.symm hk]
      · by_cases h3 : m = k
        · subst h3; simp [tabSet, tabFind, h, h2]
        · simp [tabSet, tabFind, h, h2, h3, ih]

@[simp] theorem tabGet_tabSet_same (d : α) (n : Nat) (x : α) (t : Tab α) : tabGet d n (tabSet n x t) = x := by
  simp [tabGet, tabFind_tabSet_same]

theorem tabGet_tabSet_other (d : α) {k n : Nat} (x : α) (t : Tab α) (hk : k ≠ n) :
    tabGet d k (tabSet n x t) = tabGet d k t := by
  simp [tabGet, tabFind_tabSet_other x t hk]

@[simp] theorem tabGet_tabMod_same (d : α) (n : Nat) (f : α → α) (t : Tab α) :
    tabGet d n (tabMod d n f t) = f (tabGet d n t) := by
  simp [tabMod]

theorem tabGet_tabMod_other (d : α) {k n : Nat} (f : α → α) (t : Tab α) (hk : k ≠ n) :
    tabGet d k (tabMod d n f t) = tabGet d k t := by
  simp [tabMod, tabGet_tabSet_other _ _ _ hk]

/-! ### Lists -/

theorem getD_modAt_same (i : Nat) (f : α → α) (d : α) (l : List α) (h : i < l.length) :
    (modAt i f l).getD i d = f (l.getD i d) := by
  induction l generalizing i with
  | nil => simp at h
  | cons x t ih =>
    cases i with
    | zero => simp [modAt]
    | succ i => simpa [modAt] using ih i (by simpa using h)

theorem getD_modAt_other {i j : Nat} (f : α → α) (d : α) (l : List α) (h : j ≠ i) :
    (modAt i f l).getD j d = l.getD j d := by
  induction l generalizing i j with
  | nil => simp [modAt]
  | cons x t ih =>
    cases i with
    | zero =>
      cases j with
      | zero => exact absurd rfl h
      | succ j => simp [modAt]
    | succ i =>
      cases j with
      | zero => simp [modAt]
      | succ j => simpa [modAt] using ih (i := i) (j := j) (by omega)

@[simp] theorem length_modAt (i : Nat) (f : α → α) (l : List α) : (modAt i f l).length = l.length := by
  induction l generalizing i with
  | nil => simp [modAt]
  | cons x t ih => cases i <;> simp [modAt, ih]

/-! ### One part changed: the other fields stay -/

@[simp] theorem State.modCol_cur (s : State) (c : Nat) (f : Column → Column) : (s.modCol c f).cur = s.cur := rfl
@[simp] theorem State.modCol_agenda (s : State) (c : Nat) (f : Column → Column) : (s.modCol c f).agenda = s.agenda := rfl
@[simp] theorem State.modCol_fresh (s : State) (c : Nat) (f : Column → Column) : (s.modCol c f).fresh = s.fresh := rfl
@[simp] theorem State.modCol_now (s : State) (c : Nat) (f : Column → Column) : (s.modCol c f).now = s.now := rfl
@[simp] theorem State.modCol_node (s : State) (c : Nat) (f : Column → Column) : (s.modCol c f).node = s.node := rfl
@[simp] theorem State.modCol_mem (s : State) (c : Nat) (f : Column → Column) : (s.modCol c f).mem = s.mem := rfl
@[simp] theorem State.modCol_poison (s : State) (c : Nat) (f : Column → Column) : (s.modCol c f).poison = s.poison := rfl
@[simp] theorem State.modCol_freed (s : State) (c : Nat) (f : Column → Column) : (s.modCol c f).freed = s.freed := rfl
@[simp] theorem State.modCol_claims (s : State) (c : Nat) (f : Column → Column) : (s.modCol c f).claims = s.claims := rfl
@[simp] theorem State.modCol_tlb (s : State) (c : Nat) (f : Column → Column) : (s.modCol c f).tlb = s.tlb := rfl
@[simp] theorem State.modCol_jobs (s : State) (c : Nat) (f : Column → Column) : (s.modCol c f).jobs = s.jobs := rfl
@[simp] theorem State.modCol_cores (s : State) (c : Nat) (f : Column → Column) : (s.modCol c f).cores = s.cores := rfl
@[simp] theorem State.modCol_towers (s : State) (c : Nat) (f : Column → Column) : (s.modCol c f).towers = s.towers := rfl
@[simp] theorem State.modCol_teams (s : State) (c : Nat) (f : Column → Column) : (s.modCol c f).teams = s.teams := rfl
@[simp] theorem State.modCol_islands (s : State) (c : Nat) (f : Column → Column) : (s.modCol c f).islands = s.islands := rfl
@[simp] theorem State.modCol_hbm (s : State) (c : Nat) (f : Column → Column) : (s.modCol c f).hbm = s.hbm := rfl
@[simp] theorem State.modCol_mgauges (s : State) (c : Nat) (f : Column → Column) : (s.modCol c f).mgauges = s.mgauges := rfl
@[simp] theorem State.modCol_directory (s : State) (c : Nat) (f : Column → Column) : (s.modCol c f).directory = s.directory := rfl
@[simp] theorem State.modCol_inbound (s : State) (c : Nat) (f : Column → Column) : (s.modCol c f).inbound = s.inbound := rfl
@[simp] theorem State.modCol_sent (s : State) (c : Nat) (f : Column → Column) : (s.modCol c f).sent = s.sent := rfl
@[simp] theorem State.modCol_acks (s : State) (c : Nat) (f : Column → Column) : (s.modCol c f).acks = s.acks := rfl
@[simp] theorem State.modCol_streams (s : State) (c : Nat) (f : Column → Column) : (s.modCol c f).streams = s.streams := rfl
@[simp] theorem State.modCol_undecided (s : State) (c : Nat) (f : Column → Column) : (s.modCol c f).undecided = s.undecided := rfl
@[simp] theorem State.modCol_outcomes (s : State) (c : Nat) (f : Column → Column) : (s.modCol c f).outcomes = s.outcomes := rfl
@[simp] theorem State.modCol_ackOut (s : State) (c : Nat) (f : Column → Column) : (s.modCol c f).ackOut = s.ackOut := rfl
@[simp] theorem State.modCol_xlate (s : State) (c : Nat) (f : Column → Column) : (s.modCol c f).xlate = s.xlate := rfl
@[simp] theorem State.modCol_sharers (s : State) (c : Nat) (f : Column → Column) : (s.modCol c f).sharers = s.sharers := rfl
@[simp] theorem State.modCol_invals (s : State) (c : Nat) (f : Column → Column) : (s.modCol c f).invals = s.invals := rfl
@[simp] theorem State.modCol_waves (s : State) (c : Nat) (f : Column → Column) : (s.modCol c f).waves = s.waves := rfl
@[simp] theorem State.modCol_waveOut (s : State) (c : Nat) (f : Column → Column) : (s.modCol c f).waveOut = s.waveOut := rfl
@[simp] theorem State.modCol_waveWait (s : State) (c : Nat) (f : Column → Column) : (s.modCol c f).waveWait = s.waveWait := rfl
@[simp] theorem State.modCol_counts (s : State) (c : Nat) (f : Column → Column) : (s.modCol c f).counts = s.counts := rfl
@[simp] theorem State.modCol_late (s : State) (c : Nat) (f : Column → Column) : (s.modCol c f).late = s.late := rfl
@[simp] theorem State.modCol_notifies (s : State) (c : Nat) (f : Column → Column) : (s.modCol c f).notifies = s.notifies := rfl
@[simp] theorem State.modCol_glaunches (s : State) (c : Nat) (f : Column → Column) : (s.modCol c f).glaunches = s.glaunches := rfl
@[simp] theorem State.modCol_launches (s : State) (c : Nat) (f : Column → Column) : (s.modCol c f).launches = s.launches := rfl
@[simp] theorem State.modCol_notices (s : State) (c : Nat) (f : Column → Column) : (s.modCol c f).notices = s.notices := rfl
@[simp] theorem State.modCol_nvqs (s : State) (c : Nat) (f : Column → Column) : (s.modCol c f).nvqs = s.nvqs := rfl
@[simp] theorem State.modCol_shlport (s : State) (c : Nat) (f : Column → Column) : (s.modCol c f).shlport = s.shlport := rfl
@[simp] theorem State.modCol_shlpfx (s : State) (c : Nat) (f : Column → Column) : (s.modCol c f).shlpfx = s.shlpfx := rfl
@[simp] theorem State.modCol_shliid (s : State) (c : Nat) (f : Column → Column) : (s.modCol c f).shliid = s.shliid := rfl
@[simp] theorem State.modCol_lnkdrain (s : State) (c : Nat) (f : Column → Column) : (s.modCol c f).lnkdrain = s.lnkdrain := rfl
@[simp] theorem State.modCol_links (s : State) (c : Nat) (f : Column → Column) : (s.modCol c f).links = s.links := rfl
@[simp] theorem State.modCol_planes (s : State) (c : Nat) (f : Column → Column) : (s.modCol c f).planes = s.planes := rfl
@[simp] theorem State.modCol_shlkeys (s : State) (c : Nat) (f : Column → Column) : (s.modCol c f).shlkeys = s.shlkeys := rfl
@[simp] theorem State.modCol_egress (s : State) (c : Nat) (f : Column → Column) : (s.modCol c f).egress = s.egress := rfl
@[simp] theorem State.modCol_mgmtWait (s : State) (c : Nat) (f : Column → Column) : (s.modCol c f).mgmtWait = s.mgmtWait := rfl
@[simp] theorem State.modCol_shlrx (s : State) (c : Nat) (f : Column → Column) : (s.modCol c f).shlrx = s.shlrx := rfl
@[simp] theorem State.modCol_shltx (s : State) (c : Nat) (f : Column → Column) : (s.modCol c f).shltx = s.shltx := rfl
@[simp] theorem State.modCol_hbmLast (s : State) (c : Nat) (f : Column → Column) : (s.modCol c f).hbmLast = s.hbmLast := rfl
@[simp] theorem State.modCol_hertor (s : State) (c : Nat) (f : Column → Column) : (s.modCol c f).hertor = s.hertor := rfl
@[simp] theorem State.modCol_pcie (s : State) (c : Nat) (f : Column → Column) : (s.modCol c f).pcie = s.pcie := rfl

@[simp] theorem State.modCore_cur (s : State) (c : Nat) (f : Core → Core) : (s.modCore c f).cur = s.cur := rfl
@[simp] theorem State.modCore_agenda (s : State) (c : Nat) (f : Core → Core) : (s.modCore c f).agenda = s.agenda := rfl
@[simp] theorem State.modCore_fresh (s : State) (c : Nat) (f : Core → Core) : (s.modCore c f).fresh = s.fresh := rfl
@[simp] theorem State.modCore_now (s : State) (c : Nat) (f : Core → Core) : (s.modCore c f).now = s.now := rfl
@[simp] theorem State.modCore_node (s : State) (c : Nat) (f : Core → Core) : (s.modCore c f).node = s.node := rfl
@[simp] theorem State.modCore_mem (s : State) (c : Nat) (f : Core → Core) : (s.modCore c f).mem = s.mem := rfl
@[simp] theorem State.modCore_poison (s : State) (c : Nat) (f : Core → Core) : (s.modCore c f).poison = s.poison := rfl
@[simp] theorem State.modCore_freed (s : State) (c : Nat) (f : Core → Core) : (s.modCore c f).freed = s.freed := rfl
@[simp] theorem State.modCore_claims (s : State) (c : Nat) (f : Core → Core) : (s.modCore c f).claims = s.claims := rfl
@[simp] theorem State.modCore_tlb (s : State) (c : Nat) (f : Core → Core) : (s.modCore c f).tlb = s.tlb := rfl
@[simp] theorem State.modCore_jobs (s : State) (c : Nat) (f : Core → Core) : (s.modCore c f).jobs = s.jobs := rfl
@[simp] theorem State.modCore_cols (s : State) (c : Nat) (f : Core → Core) : (s.modCore c f).cols = s.cols := rfl
@[simp] theorem State.modCore_towers (s : State) (c : Nat) (f : Core → Core) : (s.modCore c f).towers = s.towers := rfl
@[simp] theorem State.modCore_teams (s : State) (c : Nat) (f : Core → Core) : (s.modCore c f).teams = s.teams := rfl
@[simp] theorem State.modCore_islands (s : State) (c : Nat) (f : Core → Core) : (s.modCore c f).islands = s.islands := rfl
@[simp] theorem State.modCore_hbm (s : State) (c : Nat) (f : Core → Core) : (s.modCore c f).hbm = s.hbm := rfl
@[simp] theorem State.modCore_mgauges (s : State) (c : Nat) (f : Core → Core) : (s.modCore c f).mgauges = s.mgauges := rfl
@[simp] theorem State.modCore_directory (s : State) (c : Nat) (f : Core → Core) : (s.modCore c f).directory = s.directory := rfl
@[simp] theorem State.modCore_inbound (s : State) (c : Nat) (f : Core → Core) : (s.modCore c f).inbound = s.inbound := rfl
@[simp] theorem State.modCore_sent (s : State) (c : Nat) (f : Core → Core) : (s.modCore c f).sent = s.sent := rfl
@[simp] theorem State.modCore_acks (s : State) (c : Nat) (f : Core → Core) : (s.modCore c f).acks = s.acks := rfl
@[simp] theorem State.modCore_streams (s : State) (c : Nat) (f : Core → Core) : (s.modCore c f).streams = s.streams := rfl
@[simp] theorem State.modCore_undecided (s : State) (c : Nat) (f : Core → Core) : (s.modCore c f).undecided = s.undecided := rfl
@[simp] theorem State.modCore_outcomes (s : State) (c : Nat) (f : Core → Core) : (s.modCore c f).outcomes = s.outcomes := rfl
@[simp] theorem State.modCore_ackOut (s : State) (c : Nat) (f : Core → Core) : (s.modCore c f).ackOut = s.ackOut := rfl
@[simp] theorem State.modCore_xlate (s : State) (c : Nat) (f : Core → Core) : (s.modCore c f).xlate = s.xlate := rfl
@[simp] theorem State.modCore_sharers (s : State) (c : Nat) (f : Core → Core) : (s.modCore c f).sharers = s.sharers := rfl
@[simp] theorem State.modCore_invals (s : State) (c : Nat) (f : Core → Core) : (s.modCore c f).invals = s.invals := rfl
@[simp] theorem State.modCore_waves (s : State) (c : Nat) (f : Core → Core) : (s.modCore c f).waves = s.waves := rfl
@[simp] theorem State.modCore_waveOut (s : State) (c : Nat) (f : Core → Core) : (s.modCore c f).waveOut = s.waveOut := rfl
@[simp] theorem State.modCore_waveWait (s : State) (c : Nat) (f : Core → Core) : (s.modCore c f).waveWait = s.waveWait := rfl
@[simp] theorem State.modCore_counts (s : State) (c : Nat) (f : Core → Core) : (s.modCore c f).counts = s.counts := rfl
@[simp] theorem State.modCore_late (s : State) (c : Nat) (f : Core → Core) : (s.modCore c f).late = s.late := rfl
@[simp] theorem State.modCore_notifies (s : State) (c : Nat) (f : Core → Core) : (s.modCore c f).notifies = s.notifies := rfl
@[simp] theorem State.modCore_glaunches (s : State) (c : Nat) (f : Core → Core) : (s.modCore c f).glaunches = s.glaunches := rfl
@[simp] theorem State.modCore_launches (s : State) (c : Nat) (f : Core → Core) : (s.modCore c f).launches = s.launches := rfl
@[simp] theorem State.modCore_notices (s : State) (c : Nat) (f : Core → Core) : (s.modCore c f).notices = s.notices := rfl
@[simp] theorem State.modCore_nvqs (s : State) (c : Nat) (f : Core → Core) : (s.modCore c f).nvqs = s.nvqs := rfl
@[simp] theorem State.modCore_shlport (s : State) (c : Nat) (f : Core → Core) : (s.modCore c f).shlport = s.shlport := rfl
@[simp] theorem State.modCore_shlpfx (s : State) (c : Nat) (f : Core → Core) : (s.modCore c f).shlpfx = s.shlpfx := rfl
@[simp] theorem State.modCore_shliid (s : State) (c : Nat) (f : Core → Core) : (s.modCore c f).shliid = s.shliid := rfl
@[simp] theorem State.modCore_lnkdrain (s : State) (c : Nat) (f : Core → Core) : (s.modCore c f).lnkdrain = s.lnkdrain := rfl
@[simp] theorem State.modCore_links (s : State) (c : Nat) (f : Core → Core) : (s.modCore c f).links = s.links := rfl
@[simp] theorem State.modCore_planes (s : State) (c : Nat) (f : Core → Core) : (s.modCore c f).planes = s.planes := rfl
@[simp] theorem State.modCore_shlkeys (s : State) (c : Nat) (f : Core → Core) : (s.modCore c f).shlkeys = s.shlkeys := rfl
@[simp] theorem State.modCore_egress (s : State) (c : Nat) (f : Core → Core) : (s.modCore c f).egress = s.egress := rfl
@[simp] theorem State.modCore_mgmtWait (s : State) (c : Nat) (f : Core → Core) : (s.modCore c f).mgmtWait = s.mgmtWait := rfl
@[simp] theorem State.modCore_shlrx (s : State) (c : Nat) (f : Core → Core) : (s.modCore c f).shlrx = s.shlrx := rfl
@[simp] theorem State.modCore_shltx (s : State) (c : Nat) (f : Core → Core) : (s.modCore c f).shltx = s.shltx := rfl
@[simp] theorem State.modCore_hbmLast (s : State) (c : Nat) (f : Core → Core) : (s.modCore c f).hbmLast = s.hbmLast := rfl
@[simp] theorem State.modCore_hertor (s : State) (c : Nat) (f : Core → Core) : (s.modCore c f).hertor = s.hertor := rfl
@[simp] theorem State.modCore_pcie (s : State) (c : Nat) (f : Core → Core) : (s.modCore c f).pcie = s.pcie := rfl

@[simp] theorem State.modTower_cur (s : State) (t : Nat) (f : Tower → Tower) : (s.modTower t f).cur = s.cur := rfl
@[simp] theorem State.modTower_agenda (s : State) (t : Nat) (f : Tower → Tower) : (s.modTower t f).agenda = s.agenda := rfl
@[simp] theorem State.modTower_fresh (s : State) (t : Nat) (f : Tower → Tower) : (s.modTower t f).fresh = s.fresh := rfl
@[simp] theorem State.modTower_now (s : State) (t : Nat) (f : Tower → Tower) : (s.modTower t f).now = s.now := rfl
@[simp] theorem State.modTower_node (s : State) (t : Nat) (f : Tower → Tower) : (s.modTower t f).node = s.node := rfl
@[simp] theorem State.modTower_mem (s : State) (t : Nat) (f : Tower → Tower) : (s.modTower t f).mem = s.mem := rfl
@[simp] theorem State.modTower_poison (s : State) (t : Nat) (f : Tower → Tower) : (s.modTower t f).poison = s.poison := rfl
@[simp] theorem State.modTower_freed (s : State) (t : Nat) (f : Tower → Tower) : (s.modTower t f).freed = s.freed := rfl
@[simp] theorem State.modTower_claims (s : State) (t : Nat) (f : Tower → Tower) : (s.modTower t f).claims = s.claims := rfl
@[simp] theorem State.modTower_tlb (s : State) (t : Nat) (f : Tower → Tower) : (s.modTower t f).tlb = s.tlb := rfl
@[simp] theorem State.modTower_jobs (s : State) (t : Nat) (f : Tower → Tower) : (s.modTower t f).jobs = s.jobs := rfl
@[simp] theorem State.modTower_cols (s : State) (t : Nat) (f : Tower → Tower) : (s.modTower t f).cols = s.cols := rfl
@[simp] theorem State.modTower_cores (s : State) (t : Nat) (f : Tower → Tower) : (s.modTower t f).cores = s.cores := rfl
@[simp] theorem State.modTower_teams (s : State) (t : Nat) (f : Tower → Tower) : (s.modTower t f).teams = s.teams := rfl
@[simp] theorem State.modTower_islands (s : State) (t : Nat) (f : Tower → Tower) : (s.modTower t f).islands = s.islands := rfl
@[simp] theorem State.modTower_hbm (s : State) (t : Nat) (f : Tower → Tower) : (s.modTower t f).hbm = s.hbm := rfl
@[simp] theorem State.modTower_mgauges (s : State) (t : Nat) (f : Tower → Tower) : (s.modTower t f).mgauges = s.mgauges := rfl
@[simp] theorem State.modTower_directory (s : State) (t : Nat) (f : Tower → Tower) : (s.modTower t f).directory = s.directory := rfl
@[simp] theorem State.modTower_inbound (s : State) (t : Nat) (f : Tower → Tower) : (s.modTower t f).inbound = s.inbound := rfl
@[simp] theorem State.modTower_sent (s : State) (t : Nat) (f : Tower → Tower) : (s.modTower t f).sent = s.sent := rfl
@[simp] theorem State.modTower_acks (s : State) (t : Nat) (f : Tower → Tower) : (s.modTower t f).acks = s.acks := rfl
@[simp] theorem State.modTower_streams (s : State) (t : Nat) (f : Tower → Tower) : (s.modTower t f).streams = s.streams := rfl
@[simp] theorem State.modTower_undecided (s : State) (t : Nat) (f : Tower → Tower) : (s.modTower t f).undecided = s.undecided := rfl
@[simp] theorem State.modTower_outcomes (s : State) (t : Nat) (f : Tower → Tower) : (s.modTower t f).outcomes = s.outcomes := rfl
@[simp] theorem State.modTower_ackOut (s : State) (t : Nat) (f : Tower → Tower) : (s.modTower t f).ackOut = s.ackOut := rfl
@[simp] theorem State.modTower_xlate (s : State) (t : Nat) (f : Tower → Tower) : (s.modTower t f).xlate = s.xlate := rfl
@[simp] theorem State.modTower_sharers (s : State) (t : Nat) (f : Tower → Tower) : (s.modTower t f).sharers = s.sharers := rfl
@[simp] theorem State.modTower_invals (s : State) (t : Nat) (f : Tower → Tower) : (s.modTower t f).invals = s.invals := rfl
@[simp] theorem State.modTower_waves (s : State) (t : Nat) (f : Tower → Tower) : (s.modTower t f).waves = s.waves := rfl
@[simp] theorem State.modTower_waveOut (s : State) (t : Nat) (f : Tower → Tower) : (s.modTower t f).waveOut = s.waveOut := rfl
@[simp] theorem State.modTower_waveWait (s : State) (t : Nat) (f : Tower → Tower) : (s.modTower t f).waveWait = s.waveWait := rfl
@[simp] theorem State.modTower_counts (s : State) (t : Nat) (f : Tower → Tower) : (s.modTower t f).counts = s.counts := rfl
@[simp] theorem State.modTower_late (s : State) (t : Nat) (f : Tower → Tower) : (s.modTower t f).late = s.late := rfl
@[simp] theorem State.modTower_notifies (s : State) (t : Nat) (f : Tower → Tower) : (s.modTower t f).notifies = s.notifies := rfl
@[simp] theorem State.modTower_glaunches (s : State) (t : Nat) (f : Tower → Tower) : (s.modTower t f).glaunches = s.glaunches := rfl
@[simp] theorem State.modTower_launches (s : State) (t : Nat) (f : Tower → Tower) : (s.modTower t f).launches = s.launches := rfl
@[simp] theorem State.modTower_notices (s : State) (t : Nat) (f : Tower → Tower) : (s.modTower t f).notices = s.notices := rfl
@[simp] theorem State.modTower_nvqs (s : State) (t : Nat) (f : Tower → Tower) : (s.modTower t f).nvqs = s.nvqs := rfl
@[simp] theorem State.modTower_shlport (s : State) (t : Nat) (f : Tower → Tower) : (s.modTower t f).shlport = s.shlport := rfl
@[simp] theorem State.modTower_shlpfx (s : State) (t : Nat) (f : Tower → Tower) : (s.modTower t f).shlpfx = s.shlpfx := rfl
@[simp] theorem State.modTower_shliid (s : State) (t : Nat) (f : Tower → Tower) : (s.modTower t f).shliid = s.shliid := rfl
@[simp] theorem State.modTower_lnkdrain (s : State) (t : Nat) (f : Tower → Tower) : (s.modTower t f).lnkdrain = s.lnkdrain := rfl
@[simp] theorem State.modTower_links (s : State) (t : Nat) (f : Tower → Tower) : (s.modTower t f).links = s.links := rfl
@[simp] theorem State.modTower_planes (s : State) (t : Nat) (f : Tower → Tower) : (s.modTower t f).planes = s.planes := rfl
@[simp] theorem State.modTower_shlkeys (s : State) (t : Nat) (f : Tower → Tower) : (s.modTower t f).shlkeys = s.shlkeys := rfl
@[simp] theorem State.modTower_egress (s : State) (t : Nat) (f : Tower → Tower) : (s.modTower t f).egress = s.egress := rfl
@[simp] theorem State.modTower_mgmtWait (s : State) (t : Nat) (f : Tower → Tower) : (s.modTower t f).mgmtWait = s.mgmtWait := rfl
@[simp] theorem State.modTower_shlrx (s : State) (t : Nat) (f : Tower → Tower) : (s.modTower t f).shlrx = s.shlrx := rfl
@[simp] theorem State.modTower_shltx (s : State) (t : Nat) (f : Tower → Tower) : (s.modTower t f).shltx = s.shltx := rfl
@[simp] theorem State.modTower_hbmLast (s : State) (t : Nat) (f : Tower → Tower) : (s.modTower t f).hbmLast = s.hbmLast := rfl
@[simp] theorem State.modTower_hertor (s : State) (t : Nat) (f : Tower → Tower) : (s.modTower t f).hertor = s.hertor := rfl
@[simp] theorem State.modTower_pcie (s : State) (t : Nat) (f : Tower → Tower) : (s.modTower t f).pcie = s.pcie := rfl

@[simp] theorem State.modJob_cur (s : State) (j : Nat) (f : Job → Job) : (s.modJob j f).cur = s.cur := rfl
@[simp] theorem State.modJob_agenda (s : State) (j : Nat) (f : Job → Job) : (s.modJob j f).agenda = s.agenda := rfl
@[simp] theorem State.modJob_fresh (s : State) (j : Nat) (f : Job → Job) : (s.modJob j f).fresh = s.fresh := rfl
@[simp] theorem State.modJob_now (s : State) (j : Nat) (f : Job → Job) : (s.modJob j f).now = s.now := rfl
@[simp] theorem State.modJob_node (s : State) (j : Nat) (f : Job → Job) : (s.modJob j f).node = s.node := rfl
@[simp] theorem State.modJob_mem (s : State) (j : Nat) (f : Job → Job) : (s.modJob j f).mem = s.mem := rfl
@[simp] theorem State.modJob_poison (s : State) (j : Nat) (f : Job → Job) : (s.modJob j f).poison = s.poison := rfl
@[simp] theorem State.modJob_freed (s : State) (j : Nat) (f : Job → Job) : (s.modJob j f).freed = s.freed := rfl
@[simp] theorem State.modJob_claims (s : State) (j : Nat) (f : Job → Job) : (s.modJob j f).claims = s.claims := rfl
@[simp] theorem State.modJob_tlb (s : State) (j : Nat) (f : Job → Job) : (s.modJob j f).tlb = s.tlb := rfl
@[simp] theorem State.modJob_cols (s : State) (j : Nat) (f : Job → Job) : (s.modJob j f).cols = s.cols := rfl
@[simp] theorem State.modJob_cores (s : State) (j : Nat) (f : Job → Job) : (s.modJob j f).cores = s.cores := rfl
@[simp] theorem State.modJob_towers (s : State) (j : Nat) (f : Job → Job) : (s.modJob j f).towers = s.towers := rfl
@[simp] theorem State.modJob_teams (s : State) (j : Nat) (f : Job → Job) : (s.modJob j f).teams = s.teams := rfl
@[simp] theorem State.modJob_islands (s : State) (j : Nat) (f : Job → Job) : (s.modJob j f).islands = s.islands := rfl
@[simp] theorem State.modJob_hbm (s : State) (j : Nat) (f : Job → Job) : (s.modJob j f).hbm = s.hbm := rfl
@[simp] theorem State.modJob_mgauges (s : State) (j : Nat) (f : Job → Job) : (s.modJob j f).mgauges = s.mgauges := rfl
@[simp] theorem State.modJob_directory (s : State) (j : Nat) (f : Job → Job) : (s.modJob j f).directory = s.directory := rfl
@[simp] theorem State.modJob_inbound (s : State) (j : Nat) (f : Job → Job) : (s.modJob j f).inbound = s.inbound := rfl
@[simp] theorem State.modJob_sent (s : State) (j : Nat) (f : Job → Job) : (s.modJob j f).sent = s.sent := rfl
@[simp] theorem State.modJob_acks (s : State) (j : Nat) (f : Job → Job) : (s.modJob j f).acks = s.acks := rfl
@[simp] theorem State.modJob_streams (s : State) (j : Nat) (f : Job → Job) : (s.modJob j f).streams = s.streams := rfl
@[simp] theorem State.modJob_undecided (s : State) (j : Nat) (f : Job → Job) : (s.modJob j f).undecided = s.undecided := rfl
@[simp] theorem State.modJob_outcomes (s : State) (j : Nat) (f : Job → Job) : (s.modJob j f).outcomes = s.outcomes := rfl
@[simp] theorem State.modJob_ackOut (s : State) (j : Nat) (f : Job → Job) : (s.modJob j f).ackOut = s.ackOut := rfl
@[simp] theorem State.modJob_xlate (s : State) (j : Nat) (f : Job → Job) : (s.modJob j f).xlate = s.xlate := rfl
@[simp] theorem State.modJob_sharers (s : State) (j : Nat) (f : Job → Job) : (s.modJob j f).sharers = s.sharers := rfl
@[simp] theorem State.modJob_invals (s : State) (j : Nat) (f : Job → Job) : (s.modJob j f).invals = s.invals := rfl
@[simp] theorem State.modJob_waves (s : State) (j : Nat) (f : Job → Job) : (s.modJob j f).waves = s.waves := rfl
@[simp] theorem State.modJob_waveOut (s : State) (j : Nat) (f : Job → Job) : (s.modJob j f).waveOut = s.waveOut := rfl
@[simp] theorem State.modJob_waveWait (s : State) (j : Nat) (f : Job → Job) : (s.modJob j f).waveWait = s.waveWait := rfl
@[simp] theorem State.modJob_counts (s : State) (j : Nat) (f : Job → Job) : (s.modJob j f).counts = s.counts := rfl
@[simp] theorem State.modJob_late (s : State) (j : Nat) (f : Job → Job) : (s.modJob j f).late = s.late := rfl
@[simp] theorem State.modJob_notifies (s : State) (j : Nat) (f : Job → Job) : (s.modJob j f).notifies = s.notifies := rfl
@[simp] theorem State.modJob_glaunches (s : State) (j : Nat) (f : Job → Job) : (s.modJob j f).glaunches = s.glaunches := rfl
@[simp] theorem State.modJob_launches (s : State) (j : Nat) (f : Job → Job) : (s.modJob j f).launches = s.launches := rfl
@[simp] theorem State.modJob_notices (s : State) (j : Nat) (f : Job → Job) : (s.modJob j f).notices = s.notices := rfl
@[simp] theorem State.modJob_nvqs (s : State) (j : Nat) (f : Job → Job) : (s.modJob j f).nvqs = s.nvqs := rfl
@[simp] theorem State.modJob_shlport (s : State) (j : Nat) (f : Job → Job) : (s.modJob j f).shlport = s.shlport := rfl
@[simp] theorem State.modJob_shlpfx (s : State) (j : Nat) (f : Job → Job) : (s.modJob j f).shlpfx = s.shlpfx := rfl
@[simp] theorem State.modJob_shliid (s : State) (j : Nat) (f : Job → Job) : (s.modJob j f).shliid = s.shliid := rfl
@[simp] theorem State.modJob_lnkdrain (s : State) (j : Nat) (f : Job → Job) : (s.modJob j f).lnkdrain = s.lnkdrain := rfl
@[simp] theorem State.modJob_links (s : State) (j : Nat) (f : Job → Job) : (s.modJob j f).links = s.links := rfl
@[simp] theorem State.modJob_planes (s : State) (j : Nat) (f : Job → Job) : (s.modJob j f).planes = s.planes := rfl
@[simp] theorem State.modJob_shlkeys (s : State) (j : Nat) (f : Job → Job) : (s.modJob j f).shlkeys = s.shlkeys := rfl
@[simp] theorem State.modJob_egress (s : State) (j : Nat) (f : Job → Job) : (s.modJob j f).egress = s.egress := rfl
@[simp] theorem State.modJob_mgmtWait (s : State) (j : Nat) (f : Job → Job) : (s.modJob j f).mgmtWait = s.mgmtWait := rfl
@[simp] theorem State.modJob_shlrx (s : State) (j : Nat) (f : Job → Job) : (s.modJob j f).shlrx = s.shlrx := rfl
@[simp] theorem State.modJob_shltx (s : State) (j : Nat) (f : Job → Job) : (s.modJob j f).shltx = s.shltx := rfl
@[simp] theorem State.modJob_hbmLast (s : State) (j : Nat) (f : Job → Job) : (s.modJob j f).hbmLast = s.hbmLast := rfl
@[simp] theorem State.modJob_hertor (s : State) (j : Nat) (f : Job → Job) : (s.modJob j f).hertor = s.hertor := rfl
@[simp] theorem State.modJob_pcie (s : State) (j : Nat) (f : Job → Job) : (s.modJob j f).pcie = s.pcie := rfl

@[simp] theorem State.modIsland_cur (s : State) (i : Nat) (f : Island → Island) : (s.modIsland i f).cur = s.cur := rfl
@[simp] theorem State.modIsland_agenda (s : State) (i : Nat) (f : Island → Island) : (s.modIsland i f).agenda = s.agenda := rfl
@[simp] theorem State.modIsland_fresh (s : State) (i : Nat) (f : Island → Island) : (s.modIsland i f).fresh = s.fresh := rfl
@[simp] theorem State.modIsland_now (s : State) (i : Nat) (f : Island → Island) : (s.modIsland i f).now = s.now := rfl
@[simp] theorem State.modIsland_node (s : State) (i : Nat) (f : Island → Island) : (s.modIsland i f).node = s.node := rfl
@[simp] theorem State.modIsland_mem (s : State) (i : Nat) (f : Island → Island) : (s.modIsland i f).mem = s.mem := rfl
@[simp] theorem State.modIsland_poison (s : State) (i : Nat) (f : Island → Island) : (s.modIsland i f).poison = s.poison := rfl
@[simp] theorem State.modIsland_freed (s : State) (i : Nat) (f : Island → Island) : (s.modIsland i f).freed = s.freed := rfl
@[simp] theorem State.modIsland_claims (s : State) (i : Nat) (f : Island → Island) : (s.modIsland i f).claims = s.claims := rfl
@[simp] theorem State.modIsland_tlb (s : State) (i : Nat) (f : Island → Island) : (s.modIsland i f).tlb = s.tlb := rfl
@[simp] theorem State.modIsland_jobs (s : State) (i : Nat) (f : Island → Island) : (s.modIsland i f).jobs = s.jobs := rfl
@[simp] theorem State.modIsland_cols (s : State) (i : Nat) (f : Island → Island) : (s.modIsland i f).cols = s.cols := rfl
@[simp] theorem State.modIsland_cores (s : State) (i : Nat) (f : Island → Island) : (s.modIsland i f).cores = s.cores := rfl
@[simp] theorem State.modIsland_towers (s : State) (i : Nat) (f : Island → Island) : (s.modIsland i f).towers = s.towers := rfl
@[simp] theorem State.modIsland_teams (s : State) (i : Nat) (f : Island → Island) : (s.modIsland i f).teams = s.teams := rfl
@[simp] theorem State.modIsland_hbm (s : State) (i : Nat) (f : Island → Island) : (s.modIsland i f).hbm = s.hbm := rfl
@[simp] theorem State.modIsland_mgauges (s : State) (i : Nat) (f : Island → Island) : (s.modIsland i f).mgauges = s.mgauges := rfl
@[simp] theorem State.modIsland_directory (s : State) (i : Nat) (f : Island → Island) : (s.modIsland i f).directory = s.directory := rfl
@[simp] theorem State.modIsland_inbound (s : State) (i : Nat) (f : Island → Island) : (s.modIsland i f).inbound = s.inbound := rfl
@[simp] theorem State.modIsland_sent (s : State) (i : Nat) (f : Island → Island) : (s.modIsland i f).sent = s.sent := rfl
@[simp] theorem State.modIsland_acks (s : State) (i : Nat) (f : Island → Island) : (s.modIsland i f).acks = s.acks := rfl
@[simp] theorem State.modIsland_streams (s : State) (i : Nat) (f : Island → Island) : (s.modIsland i f).streams = s.streams := rfl
@[simp] theorem State.modIsland_undecided (s : State) (i : Nat) (f : Island → Island) : (s.modIsland i f).undecided = s.undecided := rfl
@[simp] theorem State.modIsland_outcomes (s : State) (i : Nat) (f : Island → Island) : (s.modIsland i f).outcomes = s.outcomes := rfl
@[simp] theorem State.modIsland_ackOut (s : State) (i : Nat) (f : Island → Island) : (s.modIsland i f).ackOut = s.ackOut := rfl
@[simp] theorem State.modIsland_xlate (s : State) (i : Nat) (f : Island → Island) : (s.modIsland i f).xlate = s.xlate := rfl
@[simp] theorem State.modIsland_sharers (s : State) (i : Nat) (f : Island → Island) : (s.modIsland i f).sharers = s.sharers := rfl
@[simp] theorem State.modIsland_invals (s : State) (i : Nat) (f : Island → Island) : (s.modIsland i f).invals = s.invals := rfl
@[simp] theorem State.modIsland_waves (s : State) (i : Nat) (f : Island → Island) : (s.modIsland i f).waves = s.waves := rfl
@[simp] theorem State.modIsland_waveOut (s : State) (i : Nat) (f : Island → Island) : (s.modIsland i f).waveOut = s.waveOut := rfl
@[simp] theorem State.modIsland_waveWait (s : State) (i : Nat) (f : Island → Island) : (s.modIsland i f).waveWait = s.waveWait := rfl
@[simp] theorem State.modIsland_counts (s : State) (i : Nat) (f : Island → Island) : (s.modIsland i f).counts = s.counts := rfl
@[simp] theorem State.modIsland_late (s : State) (i : Nat) (f : Island → Island) : (s.modIsland i f).late = s.late := rfl
@[simp] theorem State.modIsland_notifies (s : State) (i : Nat) (f : Island → Island) : (s.modIsland i f).notifies = s.notifies := rfl
@[simp] theorem State.modIsland_glaunches (s : State) (i : Nat) (f : Island → Island) : (s.modIsland i f).glaunches = s.glaunches := rfl
@[simp] theorem State.modIsland_launches (s : State) (i : Nat) (f : Island → Island) : (s.modIsland i f).launches = s.launches := rfl
@[simp] theorem State.modIsland_notices (s : State) (i : Nat) (f : Island → Island) : (s.modIsland i f).notices = s.notices := rfl
@[simp] theorem State.modIsland_nvqs (s : State) (i : Nat) (f : Island → Island) : (s.modIsland i f).nvqs = s.nvqs := rfl
@[simp] theorem State.modIsland_shlport (s : State) (i : Nat) (f : Island → Island) : (s.modIsland i f).shlport = s.shlport := rfl
@[simp] theorem State.modIsland_shlpfx (s : State) (i : Nat) (f : Island → Island) : (s.modIsland i f).shlpfx = s.shlpfx := rfl
@[simp] theorem State.modIsland_shliid (s : State) (i : Nat) (f : Island → Island) : (s.modIsland i f).shliid = s.shliid := rfl
@[simp] theorem State.modIsland_lnkdrain (s : State) (i : Nat) (f : Island → Island) : (s.modIsland i f).lnkdrain = s.lnkdrain := rfl
@[simp] theorem State.modIsland_links (s : State) (i : Nat) (f : Island → Island) : (s.modIsland i f).links = s.links := rfl
@[simp] theorem State.modIsland_planes (s : State) (i : Nat) (f : Island → Island) : (s.modIsland i f).planes = s.planes := rfl
@[simp] theorem State.modIsland_shlkeys (s : State) (i : Nat) (f : Island → Island) : (s.modIsland i f).shlkeys = s.shlkeys := rfl
@[simp] theorem State.modIsland_egress (s : State) (i : Nat) (f : Island → Island) : (s.modIsland i f).egress = s.egress := rfl
@[simp] theorem State.modIsland_mgmtWait (s : State) (i : Nat) (f : Island → Island) : (s.modIsland i f).mgmtWait = s.mgmtWait := rfl
@[simp] theorem State.modIsland_shlrx (s : State) (i : Nat) (f : Island → Island) : (s.modIsland i f).shlrx = s.shlrx := rfl
@[simp] theorem State.modIsland_shltx (s : State) (i : Nat) (f : Island → Island) : (s.modIsland i f).shltx = s.shltx := rfl
@[simp] theorem State.modIsland_hbmLast (s : State) (i : Nat) (f : Island → Island) : (s.modIsland i f).hbmLast = s.hbmLast := rfl
@[simp] theorem State.modIsland_hertor (s : State) (i : Nat) (f : Island → Island) : (s.modIsland i f).hertor = s.hertor := rfl
@[simp] theorem State.modIsland_pcie (s : State) (i : Nat) (f : Island → Island) : (s.modIsland i f).pcie = s.pcie := rfl

@[simp] theorem State.modStack_cur (s : State) (k : Nat) (f : Stack → Stack) : (s.modStack k f).cur = s.cur := rfl
@[simp] theorem State.modStack_agenda (s : State) (k : Nat) (f : Stack → Stack) : (s.modStack k f).agenda = s.agenda := rfl
@[simp] theorem State.modStack_fresh (s : State) (k : Nat) (f : Stack → Stack) : (s.modStack k f).fresh = s.fresh := rfl
@[simp] theorem State.modStack_now (s : State) (k : Nat) (f : Stack → Stack) : (s.modStack k f).now = s.now := rfl
@[simp] theorem State.modStack_node (s : State) (k : Nat) (f : Stack → Stack) : (s.modStack k f).node = s.node := rfl
@[simp] theorem State.modStack_mem (s : State) (k : Nat) (f : Stack → Stack) : (s.modStack k f).mem = s.mem := rfl
@[simp] theorem State.modStack_poison (s : State) (k : Nat) (f : Stack → Stack) : (s.modStack k f).poison = s.poison := rfl
@[simp] theorem State.modStack_freed (s : State) (k : Nat) (f : Stack → Stack) : (s.modStack k f).freed = s.freed := rfl
@[simp] theorem State.modStack_claims (s : State) (k : Nat) (f : Stack → Stack) : (s.modStack k f).claims = s.claims := rfl
@[simp] theorem State.modStack_tlb (s : State) (k : Nat) (f : Stack → Stack) : (s.modStack k f).tlb = s.tlb := rfl
@[simp] theorem State.modStack_jobs (s : State) (k : Nat) (f : Stack → Stack) : (s.modStack k f).jobs = s.jobs := rfl
@[simp] theorem State.modStack_cols (s : State) (k : Nat) (f : Stack → Stack) : (s.modStack k f).cols = s.cols := rfl
@[simp] theorem State.modStack_cores (s : State) (k : Nat) (f : Stack → Stack) : (s.modStack k f).cores = s.cores := rfl
@[simp] theorem State.modStack_towers (s : State) (k : Nat) (f : Stack → Stack) : (s.modStack k f).towers = s.towers := rfl
@[simp] theorem State.modStack_teams (s : State) (k : Nat) (f : Stack → Stack) : (s.modStack k f).teams = s.teams := rfl
@[simp] theorem State.modStack_islands (s : State) (k : Nat) (f : Stack → Stack) : (s.modStack k f).islands = s.islands := rfl
@[simp] theorem State.modStack_mgauges (s : State) (k : Nat) (f : Stack → Stack) : (s.modStack k f).mgauges = s.mgauges := rfl
@[simp] theorem State.modStack_directory (s : State) (k : Nat) (f : Stack → Stack) : (s.modStack k f).directory = s.directory := rfl
@[simp] theorem State.modStack_inbound (s : State) (k : Nat) (f : Stack → Stack) : (s.modStack k f).inbound = s.inbound := rfl
@[simp] theorem State.modStack_sent (s : State) (k : Nat) (f : Stack → Stack) : (s.modStack k f).sent = s.sent := rfl
@[simp] theorem State.modStack_acks (s : State) (k : Nat) (f : Stack → Stack) : (s.modStack k f).acks = s.acks := rfl
@[simp] theorem State.modStack_streams (s : State) (k : Nat) (f : Stack → Stack) : (s.modStack k f).streams = s.streams := rfl
@[simp] theorem State.modStack_undecided (s : State) (k : Nat) (f : Stack → Stack) : (s.modStack k f).undecided = s.undecided := rfl
@[simp] theorem State.modStack_outcomes (s : State) (k : Nat) (f : Stack → Stack) : (s.modStack k f).outcomes = s.outcomes := rfl
@[simp] theorem State.modStack_ackOut (s : State) (k : Nat) (f : Stack → Stack) : (s.modStack k f).ackOut = s.ackOut := rfl
@[simp] theorem State.modStack_xlate (s : State) (k : Nat) (f : Stack → Stack) : (s.modStack k f).xlate = s.xlate := rfl
@[simp] theorem State.modStack_sharers (s : State) (k : Nat) (f : Stack → Stack) : (s.modStack k f).sharers = s.sharers := rfl
@[simp] theorem State.modStack_invals (s : State) (k : Nat) (f : Stack → Stack) : (s.modStack k f).invals = s.invals := rfl
@[simp] theorem State.modStack_waves (s : State) (k : Nat) (f : Stack → Stack) : (s.modStack k f).waves = s.waves := rfl
@[simp] theorem State.modStack_waveOut (s : State) (k : Nat) (f : Stack → Stack) : (s.modStack k f).waveOut = s.waveOut := rfl
@[simp] theorem State.modStack_waveWait (s : State) (k : Nat) (f : Stack → Stack) : (s.modStack k f).waveWait = s.waveWait := rfl
@[simp] theorem State.modStack_counts (s : State) (k : Nat) (f : Stack → Stack) : (s.modStack k f).counts = s.counts := rfl
@[simp] theorem State.modStack_late (s : State) (k : Nat) (f : Stack → Stack) : (s.modStack k f).late = s.late := rfl
@[simp] theorem State.modStack_notifies (s : State) (k : Nat) (f : Stack → Stack) : (s.modStack k f).notifies = s.notifies := rfl
@[simp] theorem State.modStack_glaunches (s : State) (k : Nat) (f : Stack → Stack) : (s.modStack k f).glaunches = s.glaunches := rfl
@[simp] theorem State.modStack_launches (s : State) (k : Nat) (f : Stack → Stack) : (s.modStack k f).launches = s.launches := rfl
@[simp] theorem State.modStack_notices (s : State) (k : Nat) (f : Stack → Stack) : (s.modStack k f).notices = s.notices := rfl
@[simp] theorem State.modStack_nvqs (s : State) (k : Nat) (f : Stack → Stack) : (s.modStack k f).nvqs = s.nvqs := rfl
@[simp] theorem State.modStack_shlport (s : State) (k : Nat) (f : Stack → Stack) : (s.modStack k f).shlport = s.shlport := rfl
@[simp] theorem State.modStack_shlpfx (s : State) (k : Nat) (f : Stack → Stack) : (s.modStack k f).shlpfx = s.shlpfx := rfl
@[simp] theorem State.modStack_shliid (s : State) (k : Nat) (f : Stack → Stack) : (s.modStack k f).shliid = s.shliid := rfl
@[simp] theorem State.modStack_lnkdrain (s : State) (k : Nat) (f : Stack → Stack) : (s.modStack k f).lnkdrain = s.lnkdrain := rfl
@[simp] theorem State.modStack_links (s : State) (k : Nat) (f : Stack → Stack) : (s.modStack k f).links = s.links := rfl
@[simp] theorem State.modStack_planes (s : State) (k : Nat) (f : Stack → Stack) : (s.modStack k f).planes = s.planes := rfl
@[simp] theorem State.modStack_shlkeys (s : State) (k : Nat) (f : Stack → Stack) : (s.modStack k f).shlkeys = s.shlkeys := rfl
@[simp] theorem State.modStack_egress (s : State) (k : Nat) (f : Stack → Stack) : (s.modStack k f).egress = s.egress := rfl
@[simp] theorem State.modStack_mgmtWait (s : State) (k : Nat) (f : Stack → Stack) : (s.modStack k f).mgmtWait = s.mgmtWait := rfl
@[simp] theorem State.modStack_shlrx (s : State) (k : Nat) (f : Stack → Stack) : (s.modStack k f).shlrx = s.shlrx := rfl
@[simp] theorem State.modStack_shltx (s : State) (k : Nat) (f : Stack → Stack) : (s.modStack k f).shltx = s.shltx := rfl
@[simp] theorem State.modStack_hbmLast (s : State) (k : Nat) (f : Stack → Stack) : (s.modStack k f).hbmLast = s.hbmLast := rfl
@[simp] theorem State.modStack_hertor (s : State) (k : Nat) (f : Stack → Stack) : (s.modStack k f).hertor = s.hertor := rfl
@[simp] theorem State.modStack_pcie (s : State) (k : Nat) (f : Stack → Stack) : (s.modStack k f).pcie = s.pcie := rfl

@[simp] theorem State.modNvq_cur (s : State) (q : Nat) (f : NvQueue → NvQueue) : (s.modNvq q f).cur = s.cur := rfl
@[simp] theorem State.modNvq_agenda (s : State) (q : Nat) (f : NvQueue → NvQueue) : (s.modNvq q f).agenda = s.agenda := rfl
@[simp] theorem State.modNvq_fresh (s : State) (q : Nat) (f : NvQueue → NvQueue) : (s.modNvq q f).fresh = s.fresh := rfl
@[simp] theorem State.modNvq_now (s : State) (q : Nat) (f : NvQueue → NvQueue) : (s.modNvq q f).now = s.now := rfl
@[simp] theorem State.modNvq_node (s : State) (q : Nat) (f : NvQueue → NvQueue) : (s.modNvq q f).node = s.node := rfl
@[simp] theorem State.modNvq_mem (s : State) (q : Nat) (f : NvQueue → NvQueue) : (s.modNvq q f).mem = s.mem := rfl
@[simp] theorem State.modNvq_poison (s : State) (q : Nat) (f : NvQueue → NvQueue) : (s.modNvq q f).poison = s.poison := rfl
@[simp] theorem State.modNvq_freed (s : State) (q : Nat) (f : NvQueue → NvQueue) : (s.modNvq q f).freed = s.freed := rfl
@[simp] theorem State.modNvq_claims (s : State) (q : Nat) (f : NvQueue → NvQueue) : (s.modNvq q f).claims = s.claims := rfl
@[simp] theorem State.modNvq_tlb (s : State) (q : Nat) (f : NvQueue → NvQueue) : (s.modNvq q f).tlb = s.tlb := rfl
@[simp] theorem State.modNvq_jobs (s : State) (q : Nat) (f : NvQueue → NvQueue) : (s.modNvq q f).jobs = s.jobs := rfl
@[simp] theorem State.modNvq_cols (s : State) (q : Nat) (f : NvQueue → NvQueue) : (s.modNvq q f).cols = s.cols := rfl
@[simp] theorem State.modNvq_cores (s : State) (q : Nat) (f : NvQueue → NvQueue) : (s.modNvq q f).cores = s.cores := rfl
@[simp] theorem State.modNvq_towers (s : State) (q : Nat) (f : NvQueue → NvQueue) : (s.modNvq q f).towers = s.towers := rfl
@[simp] theorem State.modNvq_teams (s : State) (q : Nat) (f : NvQueue → NvQueue) : (s.modNvq q f).teams = s.teams := rfl
@[simp] theorem State.modNvq_islands (s : State) (q : Nat) (f : NvQueue → NvQueue) : (s.modNvq q f).islands = s.islands := rfl
@[simp] theorem State.modNvq_hbm (s : State) (q : Nat) (f : NvQueue → NvQueue) : (s.modNvq q f).hbm = s.hbm := rfl
@[simp] theorem State.modNvq_mgauges (s : State) (q : Nat) (f : NvQueue → NvQueue) : (s.modNvq q f).mgauges = s.mgauges := rfl
@[simp] theorem State.modNvq_directory (s : State) (q : Nat) (f : NvQueue → NvQueue) : (s.modNvq q f).directory = s.directory := rfl
@[simp] theorem State.modNvq_inbound (s : State) (q : Nat) (f : NvQueue → NvQueue) : (s.modNvq q f).inbound = s.inbound := rfl
@[simp] theorem State.modNvq_sent (s : State) (q : Nat) (f : NvQueue → NvQueue) : (s.modNvq q f).sent = s.sent := rfl
@[simp] theorem State.modNvq_acks (s : State) (q : Nat) (f : NvQueue → NvQueue) : (s.modNvq q f).acks = s.acks := rfl
@[simp] theorem State.modNvq_streams (s : State) (q : Nat) (f : NvQueue → NvQueue) : (s.modNvq q f).streams = s.streams := rfl
@[simp] theorem State.modNvq_undecided (s : State) (q : Nat) (f : NvQueue → NvQueue) : (s.modNvq q f).undecided = s.undecided := rfl
@[simp] theorem State.modNvq_outcomes (s : State) (q : Nat) (f : NvQueue → NvQueue) : (s.modNvq q f).outcomes = s.outcomes := rfl
@[simp] theorem State.modNvq_ackOut (s : State) (q : Nat) (f : NvQueue → NvQueue) : (s.modNvq q f).ackOut = s.ackOut := rfl
@[simp] theorem State.modNvq_xlate (s : State) (q : Nat) (f : NvQueue → NvQueue) : (s.modNvq q f).xlate = s.xlate := rfl
@[simp] theorem State.modNvq_sharers (s : State) (q : Nat) (f : NvQueue → NvQueue) : (s.modNvq q f).sharers = s.sharers := rfl
@[simp] theorem State.modNvq_invals (s : State) (q : Nat) (f : NvQueue → NvQueue) : (s.modNvq q f).invals = s.invals := rfl
@[simp] theorem State.modNvq_waves (s : State) (q : Nat) (f : NvQueue → NvQueue) : (s.modNvq q f).waves = s.waves := rfl
@[simp] theorem State.modNvq_waveOut (s : State) (q : Nat) (f : NvQueue → NvQueue) : (s.modNvq q f).waveOut = s.waveOut := rfl
@[simp] theorem State.modNvq_waveWait (s : State) (q : Nat) (f : NvQueue → NvQueue) : (s.modNvq q f).waveWait = s.waveWait := rfl
@[simp] theorem State.modNvq_counts (s : State) (q : Nat) (f : NvQueue → NvQueue) : (s.modNvq q f).counts = s.counts := rfl
@[simp] theorem State.modNvq_late (s : State) (q : Nat) (f : NvQueue → NvQueue) : (s.modNvq q f).late = s.late := rfl
@[simp] theorem State.modNvq_notifies (s : State) (q : Nat) (f : NvQueue → NvQueue) : (s.modNvq q f).notifies = s.notifies := rfl
@[simp] theorem State.modNvq_glaunches (s : State) (q : Nat) (f : NvQueue → NvQueue) : (s.modNvq q f).glaunches = s.glaunches := rfl
@[simp] theorem State.modNvq_launches (s : State) (q : Nat) (f : NvQueue → NvQueue) : (s.modNvq q f).launches = s.launches := rfl
@[simp] theorem State.modNvq_notices (s : State) (q : Nat) (f : NvQueue → NvQueue) : (s.modNvq q f).notices = s.notices := rfl
@[simp] theorem State.modNvq_shlport (s : State) (q : Nat) (f : NvQueue → NvQueue) : (s.modNvq q f).shlport = s.shlport := rfl
@[simp] theorem State.modNvq_shlpfx (s : State) (q : Nat) (f : NvQueue → NvQueue) : (s.modNvq q f).shlpfx = s.shlpfx := rfl
@[simp] theorem State.modNvq_shliid (s : State) (q : Nat) (f : NvQueue → NvQueue) : (s.modNvq q f).shliid = s.shliid := rfl
@[simp] theorem State.modNvq_lnkdrain (s : State) (q : Nat) (f : NvQueue → NvQueue) : (s.modNvq q f).lnkdrain = s.lnkdrain := rfl
@[simp] theorem State.modNvq_links (s : State) (q : Nat) (f : NvQueue → NvQueue) : (s.modNvq q f).links = s.links := rfl
@[simp] theorem State.modNvq_planes (s : State) (q : Nat) (f : NvQueue → NvQueue) : (s.modNvq q f).planes = s.planes := rfl
@[simp] theorem State.modNvq_shlkeys (s : State) (q : Nat) (f : NvQueue → NvQueue) : (s.modNvq q f).shlkeys = s.shlkeys := rfl
@[simp] theorem State.modNvq_egress (s : State) (q : Nat) (f : NvQueue → NvQueue) : (s.modNvq q f).egress = s.egress := rfl
@[simp] theorem State.modNvq_mgmtWait (s : State) (q : Nat) (f : NvQueue → NvQueue) : (s.modNvq q f).mgmtWait = s.mgmtWait := rfl
@[simp] theorem State.modNvq_shlrx (s : State) (q : Nat) (f : NvQueue → NvQueue) : (s.modNvq q f).shlrx = s.shlrx := rfl
@[simp] theorem State.modNvq_shltx (s : State) (q : Nat) (f : NvQueue → NvQueue) : (s.modNvq q f).shltx = s.shltx := rfl
@[simp] theorem State.modNvq_hbmLast (s : State) (q : Nat) (f : NvQueue → NvQueue) : (s.modNvq q f).hbmLast = s.hbmLast := rfl
@[simp] theorem State.modNvq_hertor (s : State) (q : Nat) (f : NvQueue → NvQueue) : (s.modNvq q f).hertor = s.hertor := rfl
@[simp] theorem State.modNvq_pcie (s : State) (q : Nat) (f : NvQueue → NvQueue) : (s.modNvq q f).pcie = s.pcie := rfl

@[simp] theorem State.modHost_cur (s : State) (c : Nat) (f : HostCore → HostCore) : (s.modHost c f).cur = s.cur := rfl
@[simp] theorem State.modHost_agenda (s : State) (c : Nat) (f : HostCore → HostCore) : (s.modHost c f).agenda = s.agenda := rfl
@[simp] theorem State.modHost_fresh (s : State) (c : Nat) (f : HostCore → HostCore) : (s.modHost c f).fresh = s.fresh := rfl
@[simp] theorem State.modHost_now (s : State) (c : Nat) (f : HostCore → HostCore) : (s.modHost c f).now = s.now := rfl
@[simp] theorem State.modHost_node (s : State) (c : Nat) (f : HostCore → HostCore) : (s.modHost c f).node = s.node := rfl
@[simp] theorem State.modHost_mem (s : State) (c : Nat) (f : HostCore → HostCore) : (s.modHost c f).mem = s.mem := rfl
@[simp] theorem State.modHost_poison (s : State) (c : Nat) (f : HostCore → HostCore) : (s.modHost c f).poison = s.poison := rfl
@[simp] theorem State.modHost_freed (s : State) (c : Nat) (f : HostCore → HostCore) : (s.modHost c f).freed = s.freed := rfl
@[simp] theorem State.modHost_claims (s : State) (c : Nat) (f : HostCore → HostCore) : (s.modHost c f).claims = s.claims := rfl
@[simp] theorem State.modHost_tlb (s : State) (c : Nat) (f : HostCore → HostCore) : (s.modHost c f).tlb = s.tlb := rfl
@[simp] theorem State.modHost_jobs (s : State) (c : Nat) (f : HostCore → HostCore) : (s.modHost c f).jobs = s.jobs := rfl
@[simp] theorem State.modHost_cores (s : State) (c : Nat) (f : HostCore → HostCore) : (s.modHost c f).cores = s.cores := rfl
@[simp] theorem State.modHost_towers (s : State) (c : Nat) (f : HostCore → HostCore) : (s.modHost c f).towers = s.towers := rfl
@[simp] theorem State.modHost_teams (s : State) (c : Nat) (f : HostCore → HostCore) : (s.modHost c f).teams = s.teams := rfl
@[simp] theorem State.modHost_islands (s : State) (c : Nat) (f : HostCore → HostCore) : (s.modHost c f).islands = s.islands := rfl
@[simp] theorem State.modHost_hbm (s : State) (c : Nat) (f : HostCore → HostCore) : (s.modHost c f).hbm = s.hbm := rfl
@[simp] theorem State.modHost_mgauges (s : State) (c : Nat) (f : HostCore → HostCore) : (s.modHost c f).mgauges = s.mgauges := rfl
@[simp] theorem State.modHost_directory (s : State) (c : Nat) (f : HostCore → HostCore) : (s.modHost c f).directory = s.directory := rfl
@[simp] theorem State.modHost_inbound (s : State) (c : Nat) (f : HostCore → HostCore) : (s.modHost c f).inbound = s.inbound := rfl
@[simp] theorem State.modHost_sent (s : State) (c : Nat) (f : HostCore → HostCore) : (s.modHost c f).sent = s.sent := rfl
@[simp] theorem State.modHost_acks (s : State) (c : Nat) (f : HostCore → HostCore) : (s.modHost c f).acks = s.acks := rfl
@[simp] theorem State.modHost_streams (s : State) (c : Nat) (f : HostCore → HostCore) : (s.modHost c f).streams = s.streams := rfl
@[simp] theorem State.modHost_undecided (s : State) (c : Nat) (f : HostCore → HostCore) : (s.modHost c f).undecided = s.undecided := rfl
@[simp] theorem State.modHost_outcomes (s : State) (c : Nat) (f : HostCore → HostCore) : (s.modHost c f).outcomes = s.outcomes := rfl
@[simp] theorem State.modHost_ackOut (s : State) (c : Nat) (f : HostCore → HostCore) : (s.modHost c f).ackOut = s.ackOut := rfl
@[simp] theorem State.modHost_xlate (s : State) (c : Nat) (f : HostCore → HostCore) : (s.modHost c f).xlate = s.xlate := rfl
@[simp] theorem State.modHost_sharers (s : State) (c : Nat) (f : HostCore → HostCore) : (s.modHost c f).sharers = s.sharers := rfl
@[simp] theorem State.modHost_invals (s : State) (c : Nat) (f : HostCore → HostCore) : (s.modHost c f).invals = s.invals := rfl
@[simp] theorem State.modHost_waves (s : State) (c : Nat) (f : HostCore → HostCore) : (s.modHost c f).waves = s.waves := rfl
@[simp] theorem State.modHost_waveOut (s : State) (c : Nat) (f : HostCore → HostCore) : (s.modHost c f).waveOut = s.waveOut := rfl
@[simp] theorem State.modHost_waveWait (s : State) (c : Nat) (f : HostCore → HostCore) : (s.modHost c f).waveWait = s.waveWait := rfl
@[simp] theorem State.modHost_counts (s : State) (c : Nat) (f : HostCore → HostCore) : (s.modHost c f).counts = s.counts := rfl
@[simp] theorem State.modHost_late (s : State) (c : Nat) (f : HostCore → HostCore) : (s.modHost c f).late = s.late := rfl
@[simp] theorem State.modHost_notifies (s : State) (c : Nat) (f : HostCore → HostCore) : (s.modHost c f).notifies = s.notifies := rfl
@[simp] theorem State.modHost_glaunches (s : State) (c : Nat) (f : HostCore → HostCore) : (s.modHost c f).glaunches = s.glaunches := rfl
@[simp] theorem State.modHost_launches (s : State) (c : Nat) (f : HostCore → HostCore) : (s.modHost c f).launches = s.launches := rfl
@[simp] theorem State.modHost_notices (s : State) (c : Nat) (f : HostCore → HostCore) : (s.modHost c f).notices = s.notices := rfl
@[simp] theorem State.modHost_nvqs (s : State) (c : Nat) (f : HostCore → HostCore) : (s.modHost c f).nvqs = s.nvqs := rfl
@[simp] theorem State.modHost_shlport (s : State) (c : Nat) (f : HostCore → HostCore) : (s.modHost c f).shlport = s.shlport := rfl
@[simp] theorem State.modHost_shlpfx (s : State) (c : Nat) (f : HostCore → HostCore) : (s.modHost c f).shlpfx = s.shlpfx := rfl
@[simp] theorem State.modHost_shliid (s : State) (c : Nat) (f : HostCore → HostCore) : (s.modHost c f).shliid = s.shliid := rfl
@[simp] theorem State.modHost_lnkdrain (s : State) (c : Nat) (f : HostCore → HostCore) : (s.modHost c f).lnkdrain = s.lnkdrain := rfl
@[simp] theorem State.modHost_links (s : State) (c : Nat) (f : HostCore → HostCore) : (s.modHost c f).links = s.links := rfl
@[simp] theorem State.modHost_planes (s : State) (c : Nat) (f : HostCore → HostCore) : (s.modHost c f).planes = s.planes := rfl
@[simp] theorem State.modHost_shlkeys (s : State) (c : Nat) (f : HostCore → HostCore) : (s.modHost c f).shlkeys = s.shlkeys := rfl
@[simp] theorem State.modHost_egress (s : State) (c : Nat) (f : HostCore → HostCore) : (s.modHost c f).egress = s.egress := rfl
@[simp] theorem State.modHost_mgmtWait (s : State) (c : Nat) (f : HostCore → HostCore) : (s.modHost c f).mgmtWait = s.mgmtWait := rfl
@[simp] theorem State.modHost_shlrx (s : State) (c : Nat) (f : HostCore → HostCore) : (s.modHost c f).shlrx = s.shlrx := rfl
@[simp] theorem State.modHost_shltx (s : State) (c : Nat) (f : HostCore → HostCore) : (s.modHost c f).shltx = s.shltx := rfl
@[simp] theorem State.modHost_hbmLast (s : State) (c : Nat) (f : HostCore → HostCore) : (s.modHost c f).hbmLast = s.hbmLast := rfl
@[simp] theorem State.modHost_hertor (s : State) (c : Nat) (f : HostCore → HostCore) : (s.modHost c f).hertor = s.hertor := rfl
@[simp] theorem State.modHost_pcie (s : State) (c : Nat) (f : HostCore → HostCore) : (s.modHost c f).pcie = s.pcie := rfl

@[simp] theorem State.modTowerJob_cur (s : State) (t j : Nat) (f : TowerJob → TowerJob) : (s.modTowerJob t j f).cur = s.cur := rfl
@[simp] theorem State.modTowerJob_agenda (s : State) (t j : Nat) (f : TowerJob → TowerJob) : (s.modTowerJob t j f).agenda = s.agenda := rfl
@[simp] theorem State.modTowerJob_fresh (s : State) (t j : Nat) (f : TowerJob → TowerJob) : (s.modTowerJob t j f).fresh = s.fresh := rfl
@[simp] theorem State.modTowerJob_now (s : State) (t j : Nat) (f : TowerJob → TowerJob) : (s.modTowerJob t j f).now = s.now := rfl
@[simp] theorem State.modTowerJob_node (s : State) (t j : Nat) (f : TowerJob → TowerJob) : (s.modTowerJob t j f).node = s.node := rfl
@[simp] theorem State.modTowerJob_mem (s : State) (t j : Nat) (f : TowerJob → TowerJob) : (s.modTowerJob t j f).mem = s.mem := rfl
@[simp] theorem State.modTowerJob_poison (s : State) (t j : Nat) (f : TowerJob → TowerJob) : (s.modTowerJob t j f).poison = s.poison := rfl
@[simp] theorem State.modTowerJob_freed (s : State) (t j : Nat) (f : TowerJob → TowerJob) : (s.modTowerJob t j f).freed = s.freed := rfl
@[simp] theorem State.modTowerJob_claims (s : State) (t j : Nat) (f : TowerJob → TowerJob) : (s.modTowerJob t j f).claims = s.claims := rfl
@[simp] theorem State.modTowerJob_tlb (s : State) (t j : Nat) (f : TowerJob → TowerJob) : (s.modTowerJob t j f).tlb = s.tlb := rfl
@[simp] theorem State.modTowerJob_cols (s : State) (t j : Nat) (f : TowerJob → TowerJob) : (s.modTowerJob t j f).cols = s.cols := rfl
@[simp] theorem State.modTowerJob_cores (s : State) (t j : Nat) (f : TowerJob → TowerJob) : (s.modTowerJob t j f).cores = s.cores := rfl
@[simp] theorem State.modTowerJob_towers (s : State) (t j : Nat) (f : TowerJob → TowerJob) : (s.modTowerJob t j f).towers = s.towers := rfl
@[simp] theorem State.modTowerJob_teams (s : State) (t j : Nat) (f : TowerJob → TowerJob) : (s.modTowerJob t j f).teams = s.teams := rfl
@[simp] theorem State.modTowerJob_islands (s : State) (t j : Nat) (f : TowerJob → TowerJob) : (s.modTowerJob t j f).islands = s.islands := rfl
@[simp] theorem State.modTowerJob_hbm (s : State) (t j : Nat) (f : TowerJob → TowerJob) : (s.modTowerJob t j f).hbm = s.hbm := rfl
@[simp] theorem State.modTowerJob_mgauges (s : State) (t j : Nat) (f : TowerJob → TowerJob) : (s.modTowerJob t j f).mgauges = s.mgauges := rfl
@[simp] theorem State.modTowerJob_directory (s : State) (t j : Nat) (f : TowerJob → TowerJob) : (s.modTowerJob t j f).directory = s.directory := rfl
@[simp] theorem State.modTowerJob_inbound (s : State) (t j : Nat) (f : TowerJob → TowerJob) : (s.modTowerJob t j f).inbound = s.inbound := rfl
@[simp] theorem State.modTowerJob_sent (s : State) (t j : Nat) (f : TowerJob → TowerJob) : (s.modTowerJob t j f).sent = s.sent := rfl
@[simp] theorem State.modTowerJob_acks (s : State) (t j : Nat) (f : TowerJob → TowerJob) : (s.modTowerJob t j f).acks = s.acks := rfl
@[simp] theorem State.modTowerJob_streams (s : State) (t j : Nat) (f : TowerJob → TowerJob) : (s.modTowerJob t j f).streams = s.streams := rfl
@[simp] theorem State.modTowerJob_undecided (s : State) (t j : Nat) (f : TowerJob → TowerJob) : (s.modTowerJob t j f).undecided = s.undecided := rfl
@[simp] theorem State.modTowerJob_outcomes (s : State) (t j : Nat) (f : TowerJob → TowerJob) : (s.modTowerJob t j f).outcomes = s.outcomes := rfl
@[simp] theorem State.modTowerJob_ackOut (s : State) (t j : Nat) (f : TowerJob → TowerJob) : (s.modTowerJob t j f).ackOut = s.ackOut := rfl
@[simp] theorem State.modTowerJob_xlate (s : State) (t j : Nat) (f : TowerJob → TowerJob) : (s.modTowerJob t j f).xlate = s.xlate := rfl
@[simp] theorem State.modTowerJob_sharers (s : State) (t j : Nat) (f : TowerJob → TowerJob) : (s.modTowerJob t j f).sharers = s.sharers := rfl
@[simp] theorem State.modTowerJob_invals (s : State) (t j : Nat) (f : TowerJob → TowerJob) : (s.modTowerJob t j f).invals = s.invals := rfl
@[simp] theorem State.modTowerJob_waves (s : State) (t j : Nat) (f : TowerJob → TowerJob) : (s.modTowerJob t j f).waves = s.waves := rfl
@[simp] theorem State.modTowerJob_waveOut (s : State) (t j : Nat) (f : TowerJob → TowerJob) : (s.modTowerJob t j f).waveOut = s.waveOut := rfl
@[simp] theorem State.modTowerJob_waveWait (s : State) (t j : Nat) (f : TowerJob → TowerJob) : (s.modTowerJob t j f).waveWait = s.waveWait := rfl
@[simp] theorem State.modTowerJob_counts (s : State) (t j : Nat) (f : TowerJob → TowerJob) : (s.modTowerJob t j f).counts = s.counts := rfl
@[simp] theorem State.modTowerJob_late (s : State) (t j : Nat) (f : TowerJob → TowerJob) : (s.modTowerJob t j f).late = s.late := rfl
@[simp] theorem State.modTowerJob_notifies (s : State) (t j : Nat) (f : TowerJob → TowerJob) : (s.modTowerJob t j f).notifies = s.notifies := rfl
@[simp] theorem State.modTowerJob_glaunches (s : State) (t j : Nat) (f : TowerJob → TowerJob) : (s.modTowerJob t j f).glaunches = s.glaunches := rfl
@[simp] theorem State.modTowerJob_launches (s : State) (t j : Nat) (f : TowerJob → TowerJob) : (s.modTowerJob t j f).launches = s.launches := rfl
@[simp] theorem State.modTowerJob_notices (s : State) (t j : Nat) (f : TowerJob → TowerJob) : (s.modTowerJob t j f).notices = s.notices := rfl
@[simp] theorem State.modTowerJob_nvqs (s : State) (t j : Nat) (f : TowerJob → TowerJob) : (s.modTowerJob t j f).nvqs = s.nvqs := rfl
@[simp] theorem State.modTowerJob_shlport (s : State) (t j : Nat) (f : TowerJob → TowerJob) : (s.modTowerJob t j f).shlport = s.shlport := rfl
@[simp] theorem State.modTowerJob_shlpfx (s : State) (t j : Nat) (f : TowerJob → TowerJob) : (s.modTowerJob t j f).shlpfx = s.shlpfx := rfl
@[simp] theorem State.modTowerJob_shliid (s : State) (t j : Nat) (f : TowerJob → TowerJob) : (s.modTowerJob t j f).shliid = s.shliid := rfl
@[simp] theorem State.modTowerJob_lnkdrain (s : State) (t j : Nat) (f : TowerJob → TowerJob) : (s.modTowerJob t j f).lnkdrain = s.lnkdrain := rfl
@[simp] theorem State.modTowerJob_links (s : State) (t j : Nat) (f : TowerJob → TowerJob) : (s.modTowerJob t j f).links = s.links := rfl
@[simp] theorem State.modTowerJob_planes (s : State) (t j : Nat) (f : TowerJob → TowerJob) : (s.modTowerJob t j f).planes = s.planes := rfl
@[simp] theorem State.modTowerJob_shlkeys (s : State) (t j : Nat) (f : TowerJob → TowerJob) : (s.modTowerJob t j f).shlkeys = s.shlkeys := rfl
@[simp] theorem State.modTowerJob_egress (s : State) (t j : Nat) (f : TowerJob → TowerJob) : (s.modTowerJob t j f).egress = s.egress := rfl
@[simp] theorem State.modTowerJob_mgmtWait (s : State) (t j : Nat) (f : TowerJob → TowerJob) : (s.modTowerJob t j f).mgmtWait = s.mgmtWait := rfl
@[simp] theorem State.modTowerJob_shlrx (s : State) (t j : Nat) (f : TowerJob → TowerJob) : (s.modTowerJob t j f).shlrx = s.shlrx := rfl
@[simp] theorem State.modTowerJob_shltx (s : State) (t j : Nat) (f : TowerJob → TowerJob) : (s.modTowerJob t j f).shltx = s.shltx := rfl
@[simp] theorem State.modTowerJob_hbmLast (s : State) (t j : Nat) (f : TowerJob → TowerJob) : (s.modTowerJob t j f).hbmLast = s.hbmLast := rfl
@[simp] theorem State.modTowerJob_hertor (s : State) (t j : Nat) (f : TowerJob → TowerJob) : (s.modTowerJob t j f).hertor = s.hertor := rfl
@[simp] theorem State.modTowerJob_pcie (s : State) (t j : Nat) (f : TowerJob → TowerJob) : (s.modTowerJob t j f).pcie = s.pcie := rfl

@[simp] theorem State.modPcie_cur (s : State) (port : Nat) (f : PciePort → PciePort) : (s.modPcie port f).cur = s.cur := rfl
@[simp] theorem State.modPcie_agenda (s : State) (port : Nat) (f : PciePort → PciePort) : (s.modPcie port f).agenda = s.agenda := rfl
@[simp] theorem State.modPcie_fresh (s : State) (port : Nat) (f : PciePort → PciePort) : (s.modPcie port f).fresh = s.fresh := rfl
@[simp] theorem State.modPcie_now (s : State) (port : Nat) (f : PciePort → PciePort) : (s.modPcie port f).now = s.now := rfl
@[simp] theorem State.modPcie_node (s : State) (port : Nat) (f : PciePort → PciePort) : (s.modPcie port f).node = s.node := rfl
@[simp] theorem State.modPcie_mem (s : State) (port : Nat) (f : PciePort → PciePort) : (s.modPcie port f).mem = s.mem := rfl
@[simp] theorem State.modPcie_poison (s : State) (port : Nat) (f : PciePort → PciePort) : (s.modPcie port f).poison = s.poison := rfl
@[simp] theorem State.modPcie_freed (s : State) (port : Nat) (f : PciePort → PciePort) : (s.modPcie port f).freed = s.freed := rfl
@[simp] theorem State.modPcie_claims (s : State) (port : Nat) (f : PciePort → PciePort) : (s.modPcie port f).claims = s.claims := rfl
@[simp] theorem State.modPcie_tlb (s : State) (port : Nat) (f : PciePort → PciePort) : (s.modPcie port f).tlb = s.tlb := rfl
@[simp] theorem State.modPcie_jobs (s : State) (port : Nat) (f : PciePort → PciePort) : (s.modPcie port f).jobs = s.jobs := rfl
@[simp] theorem State.modPcie_cols (s : State) (port : Nat) (f : PciePort → PciePort) : (s.modPcie port f).cols = s.cols := rfl
@[simp] theorem State.modPcie_cores (s : State) (port : Nat) (f : PciePort → PciePort) : (s.modPcie port f).cores = s.cores := rfl
@[simp] theorem State.modPcie_towers (s : State) (port : Nat) (f : PciePort → PciePort) : (s.modPcie port f).towers = s.towers := rfl
@[simp] theorem State.modPcie_teams (s : State) (port : Nat) (f : PciePort → PciePort) : (s.modPcie port f).teams = s.teams := rfl
@[simp] theorem State.modPcie_islands (s : State) (port : Nat) (f : PciePort → PciePort) : (s.modPcie port f).islands = s.islands := rfl
@[simp] theorem State.modPcie_hbm (s : State) (port : Nat) (f : PciePort → PciePort) : (s.modPcie port f).hbm = s.hbm := rfl
@[simp] theorem State.modPcie_mgauges (s : State) (port : Nat) (f : PciePort → PciePort) : (s.modPcie port f).mgauges = s.mgauges := rfl
@[simp] theorem State.modPcie_directory (s : State) (port : Nat) (f : PciePort → PciePort) : (s.modPcie port f).directory = s.directory := rfl
@[simp] theorem State.modPcie_inbound (s : State) (port : Nat) (f : PciePort → PciePort) : (s.modPcie port f).inbound = s.inbound := rfl
@[simp] theorem State.modPcie_sent (s : State) (port : Nat) (f : PciePort → PciePort) : (s.modPcie port f).sent = s.sent := rfl
@[simp] theorem State.modPcie_acks (s : State) (port : Nat) (f : PciePort → PciePort) : (s.modPcie port f).acks = s.acks := rfl
@[simp] theorem State.modPcie_streams (s : State) (port : Nat) (f : PciePort → PciePort) : (s.modPcie port f).streams = s.streams := rfl
@[simp] theorem State.modPcie_undecided (s : State) (port : Nat) (f : PciePort → PciePort) : (s.modPcie port f).undecided = s.undecided := rfl
@[simp] theorem State.modPcie_outcomes (s : State) (port : Nat) (f : PciePort → PciePort) : (s.modPcie port f).outcomes = s.outcomes := rfl
@[simp] theorem State.modPcie_ackOut (s : State) (port : Nat) (f : PciePort → PciePort) : (s.modPcie port f).ackOut = s.ackOut := rfl
@[simp] theorem State.modPcie_xlate (s : State) (port : Nat) (f : PciePort → PciePort) : (s.modPcie port f).xlate = s.xlate := rfl
@[simp] theorem State.modPcie_sharers (s : State) (port : Nat) (f : PciePort → PciePort) : (s.modPcie port f).sharers = s.sharers := rfl
@[simp] theorem State.modPcie_invals (s : State) (port : Nat) (f : PciePort → PciePort) : (s.modPcie port f).invals = s.invals := rfl
@[simp] theorem State.modPcie_waves (s : State) (port : Nat) (f : PciePort → PciePort) : (s.modPcie port f).waves = s.waves := rfl
@[simp] theorem State.modPcie_waveOut (s : State) (port : Nat) (f : PciePort → PciePort) : (s.modPcie port f).waveOut = s.waveOut := rfl
@[simp] theorem State.modPcie_waveWait (s : State) (port : Nat) (f : PciePort → PciePort) : (s.modPcie port f).waveWait = s.waveWait := rfl
@[simp] theorem State.modPcie_counts (s : State) (port : Nat) (f : PciePort → PciePort) : (s.modPcie port f).counts = s.counts := rfl
@[simp] theorem State.modPcie_late (s : State) (port : Nat) (f : PciePort → PciePort) : (s.modPcie port f).late = s.late := rfl
@[simp] theorem State.modPcie_notifies (s : State) (port : Nat) (f : PciePort → PciePort) : (s.modPcie port f).notifies = s.notifies := rfl
@[simp] theorem State.modPcie_glaunches (s : State) (port : Nat) (f : PciePort → PciePort) : (s.modPcie port f).glaunches = s.glaunches := rfl
@[simp] theorem State.modPcie_launches (s : State) (port : Nat) (f : PciePort → PciePort) : (s.modPcie port f).launches = s.launches := rfl
@[simp] theorem State.modPcie_notices (s : State) (port : Nat) (f : PciePort → PciePort) : (s.modPcie port f).notices = s.notices := rfl
@[simp] theorem State.modPcie_nvqs (s : State) (port : Nat) (f : PciePort → PciePort) : (s.modPcie port f).nvqs = s.nvqs := rfl
@[simp] theorem State.modPcie_shlport (s : State) (port : Nat) (f : PciePort → PciePort) : (s.modPcie port f).shlport = s.shlport := rfl
@[simp] theorem State.modPcie_shlpfx (s : State) (port : Nat) (f : PciePort → PciePort) : (s.modPcie port f).shlpfx = s.shlpfx := rfl
@[simp] theorem State.modPcie_shliid (s : State) (port : Nat) (f : PciePort → PciePort) : (s.modPcie port f).shliid = s.shliid := rfl
@[simp] theorem State.modPcie_lnkdrain (s : State) (port : Nat) (f : PciePort → PciePort) : (s.modPcie port f).lnkdrain = s.lnkdrain := rfl
@[simp] theorem State.modPcie_links (s : State) (port : Nat) (f : PciePort → PciePort) : (s.modPcie port f).links = s.links := rfl
@[simp] theorem State.modPcie_planes (s : State) (port : Nat) (f : PciePort → PciePort) : (s.modPcie port f).planes = s.planes := rfl
@[simp] theorem State.modPcie_shlkeys (s : State) (port : Nat) (f : PciePort → PciePort) : (s.modPcie port f).shlkeys = s.shlkeys := rfl
@[simp] theorem State.modPcie_egress (s : State) (port : Nat) (f : PciePort → PciePort) : (s.modPcie port f).egress = s.egress := rfl
@[simp] theorem State.modPcie_mgmtWait (s : State) (port : Nat) (f : PciePort → PciePort) : (s.modPcie port f).mgmtWait = s.mgmtWait := rfl
@[simp] theorem State.modPcie_shlrx (s : State) (port : Nat) (f : PciePort → PciePort) : (s.modPcie port f).shlrx = s.shlrx := rfl
@[simp] theorem State.modPcie_shltx (s : State) (port : Nat) (f : PciePort → PciePort) : (s.modPcie port f).shltx = s.shltx := rfl
@[simp] theorem State.modPcie_hbmLast (s : State) (port : Nat) (f : PciePort → PciePort) : (s.modPcie port f).hbmLast = s.hbmLast := rfl
@[simp] theorem State.modPcie_hertor (s : State) (port : Nat) (f : PciePort → PciePort) : (s.modPcie port f).hertor = s.hertor := rfl

@[simp] theorem State.useBudget_cur (s : State) (c code n : Nat) : (s.useBudget c code n).cur = s.cur := rfl
@[simp] theorem State.useBudget_agenda (s : State) (c code n : Nat) : (s.useBudget c code n).agenda = s.agenda := rfl
@[simp] theorem State.useBudget_fresh (s : State) (c code n : Nat) : (s.useBudget c code n).fresh = s.fresh := rfl
@[simp] theorem State.useBudget_now (s : State) (c code n : Nat) : (s.useBudget c code n).now = s.now := rfl
@[simp] theorem State.useBudget_node (s : State) (c code n : Nat) : (s.useBudget c code n).node = s.node := rfl
@[simp] theorem State.useBudget_mem (s : State) (c code n : Nat) : (s.useBudget c code n).mem = s.mem := rfl
@[simp] theorem State.useBudget_poison (s : State) (c code n : Nat) : (s.useBudget c code n).poison = s.poison := rfl
@[simp] theorem State.useBudget_freed (s : State) (c code n : Nat) : (s.useBudget c code n).freed = s.freed := rfl
@[simp] theorem State.useBudget_claims (s : State) (c code n : Nat) : (s.useBudget c code n).claims = s.claims := rfl
@[simp] theorem State.useBudget_tlb (s : State) (c code n : Nat) : (s.useBudget c code n).tlb = s.tlb := rfl
@[simp] theorem State.useBudget_jobs (s : State) (c code n : Nat) : (s.useBudget c code n).jobs = s.jobs := rfl
@[simp] theorem State.useBudget_cores (s : State) (c code n : Nat) : (s.useBudget c code n).cores = s.cores := rfl
@[simp] theorem State.useBudget_towers (s : State) (c code n : Nat) : (s.useBudget c code n).towers = s.towers := rfl
@[simp] theorem State.useBudget_teams (s : State) (c code n : Nat) : (s.useBudget c code n).teams = s.teams := rfl
@[simp] theorem State.useBudget_islands (s : State) (c code n : Nat) : (s.useBudget c code n).islands = s.islands := rfl
@[simp] theorem State.useBudget_hbm (s : State) (c code n : Nat) : (s.useBudget c code n).hbm = s.hbm := rfl
@[simp] theorem State.useBudget_mgauges (s : State) (c code n : Nat) : (s.useBudget c code n).mgauges = s.mgauges := rfl
@[simp] theorem State.useBudget_directory (s : State) (c code n : Nat) : (s.useBudget c code n).directory = s.directory := rfl
@[simp] theorem State.useBudget_inbound (s : State) (c code n : Nat) : (s.useBudget c code n).inbound = s.inbound := rfl
@[simp] theorem State.useBudget_sent (s : State) (c code n : Nat) : (s.useBudget c code n).sent = s.sent := rfl
@[simp] theorem State.useBudget_acks (s : State) (c code n : Nat) : (s.useBudget c code n).acks = s.acks := rfl
@[simp] theorem State.useBudget_streams (s : State) (c code n : Nat) : (s.useBudget c code n).streams = s.streams := rfl
@[simp] theorem State.useBudget_undecided (s : State) (c code n : Nat) : (s.useBudget c code n).undecided = s.undecided := rfl
@[simp] theorem State.useBudget_outcomes (s : State) (c code n : Nat) : (s.useBudget c code n).outcomes = s.outcomes := rfl
@[simp] theorem State.useBudget_ackOut (s : State) (c code n : Nat) : (s.useBudget c code n).ackOut = s.ackOut := rfl
@[simp] theorem State.useBudget_xlate (s : State) (c code n : Nat) : (s.useBudget c code n).xlate = s.xlate := rfl
@[simp] theorem State.useBudget_sharers (s : State) (c code n : Nat) : (s.useBudget c code n).sharers = s.sharers := rfl
@[simp] theorem State.useBudget_invals (s : State) (c code n : Nat) : (s.useBudget c code n).invals = s.invals := rfl
@[simp] theorem State.useBudget_waves (s : State) (c code n : Nat) : (s.useBudget c code n).waves = s.waves := rfl
@[simp] theorem State.useBudget_waveOut (s : State) (c code n : Nat) : (s.useBudget c code n).waveOut = s.waveOut := rfl
@[simp] theorem State.useBudget_waveWait (s : State) (c code n : Nat) : (s.useBudget c code n).waveWait = s.waveWait := rfl
@[simp] theorem State.useBudget_counts (s : State) (c code n : Nat) : (s.useBudget c code n).counts = s.counts := rfl
@[simp] theorem State.useBudget_late (s : State) (c code n : Nat) : (s.useBudget c code n).late = s.late := rfl
@[simp] theorem State.useBudget_notifies (s : State) (c code n : Nat) : (s.useBudget c code n).notifies = s.notifies := rfl
@[simp] theorem State.useBudget_glaunches (s : State) (c code n : Nat) : (s.useBudget c code n).glaunches = s.glaunches := rfl
@[simp] theorem State.useBudget_launches (s : State) (c code n : Nat) : (s.useBudget c code n).launches = s.launches := rfl
@[simp] theorem State.useBudget_notices (s : State) (c code n : Nat) : (s.useBudget c code n).notices = s.notices := rfl
@[simp] theorem State.useBudget_nvqs (s : State) (c code n : Nat) : (s.useBudget c code n).nvqs = s.nvqs := rfl
@[simp] theorem State.useBudget_shlport (s : State) (c code n : Nat) : (s.useBudget c code n).shlport = s.shlport := rfl
@[simp] theorem State.useBudget_shlpfx (s : State) (c code n : Nat) : (s.useBudget c code n).shlpfx = s.shlpfx := rfl
@[simp] theorem State.useBudget_shliid (s : State) (c code n : Nat) : (s.useBudget c code n).shliid = s.shliid := rfl
@[simp] theorem State.useBudget_lnkdrain (s : State) (c code n : Nat) : (s.useBudget c code n).lnkdrain = s.lnkdrain := rfl
@[simp] theorem State.useBudget_links (s : State) (c code n : Nat) : (s.useBudget c code n).links = s.links := rfl
@[simp] theorem State.useBudget_planes (s : State) (c code n : Nat) : (s.useBudget c code n).planes = s.planes := rfl
@[simp] theorem State.useBudget_shlkeys (s : State) (c code n : Nat) : (s.useBudget c code n).shlkeys = s.shlkeys := rfl
@[simp] theorem State.useBudget_egress (s : State) (c code n : Nat) : (s.useBudget c code n).egress = s.egress := rfl
@[simp] theorem State.useBudget_mgmtWait (s : State) (c code n : Nat) : (s.useBudget c code n).mgmtWait = s.mgmtWait := rfl
@[simp] theorem State.useBudget_shlrx (s : State) (c code n : Nat) : (s.useBudget c code n).shlrx = s.shlrx := rfl
@[simp] theorem State.useBudget_shltx (s : State) (c code n : Nat) : (s.useBudget c code n).shltx = s.shltx := rfl
@[simp] theorem State.useBudget_hbmLast (s : State) (c code n : Nat) : (s.useBudget c code n).hbmLast = s.hbmLast := rfl
@[simp] theorem State.useBudget_hertor (s : State) (c code n : Nat) : (s.useBudget c code n).hertor = s.hertor := rfl
@[simp] theorem State.useBudget_pcie (s : State) (c code n : Nat) : (s.useBudget c code n).pcie = s.pcie := rfl

/-! ### A team changed: the other fields stay -/

/-- A change of a team is a change of the team table alone. -/
theorem State.modTeam_eq (s : State) (t : Nat) (f : Team → Team) : s.modTeam t f = { s with teams := (s.modTeam t f).teams } := by
  unfold State.modTeam
  split <;> rfl

@[simp] theorem State.modTeam_cur (s : State) (t : Nat) (f : Team → Team) : (s.modTeam t f).cur = s.cur := by
  rw [State.modTeam_eq]
@[simp] theorem State.modTeam_agenda (s : State) (t : Nat) (f : Team → Team) : (s.modTeam t f).agenda = s.agenda := by
  rw [State.modTeam_eq]
@[simp] theorem State.modTeam_fresh (s : State) (t : Nat) (f : Team → Team) : (s.modTeam t f).fresh = s.fresh := by
  rw [State.modTeam_eq]
@[simp] theorem State.modTeam_now (s : State) (t : Nat) (f : Team → Team) : (s.modTeam t f).now = s.now := by
  rw [State.modTeam_eq]
@[simp] theorem State.modTeam_node (s : State) (t : Nat) (f : Team → Team) : (s.modTeam t f).node = s.node := by
  rw [State.modTeam_eq]
@[simp] theorem State.modTeam_mem (s : State) (t : Nat) (f : Team → Team) : (s.modTeam t f).mem = s.mem := by
  rw [State.modTeam_eq]
@[simp] theorem State.modTeam_poison (s : State) (t : Nat) (f : Team → Team) : (s.modTeam t f).poison = s.poison := by
  rw [State.modTeam_eq]
@[simp] theorem State.modTeam_freed (s : State) (t : Nat) (f : Team → Team) : (s.modTeam t f).freed = s.freed := by
  rw [State.modTeam_eq]
@[simp] theorem State.modTeam_claims (s : State) (t : Nat) (f : Team → Team) : (s.modTeam t f).claims = s.claims := by
  rw [State.modTeam_eq]
@[simp] theorem State.modTeam_tlb (s : State) (t : Nat) (f : Team → Team) : (s.modTeam t f).tlb = s.tlb := by
  rw [State.modTeam_eq]
@[simp] theorem State.modTeam_jobs (s : State) (t : Nat) (f : Team → Team) : (s.modTeam t f).jobs = s.jobs := by
  rw [State.modTeam_eq]
@[simp] theorem State.modTeam_cols (s : State) (t : Nat) (f : Team → Team) : (s.modTeam t f).cols = s.cols := by
  rw [State.modTeam_eq]
@[simp] theorem State.modTeam_cores (s : State) (t : Nat) (f : Team → Team) : (s.modTeam t f).cores = s.cores := by
  rw [State.modTeam_eq]
@[simp] theorem State.modTeam_towers (s : State) (t : Nat) (f : Team → Team) : (s.modTeam t f).towers = s.towers := by
  rw [State.modTeam_eq]
@[simp] theorem State.modTeam_islands (s : State) (t : Nat) (f : Team → Team) : (s.modTeam t f).islands = s.islands := by
  rw [State.modTeam_eq]
@[simp] theorem State.modTeam_hbm (s : State) (t : Nat) (f : Team → Team) : (s.modTeam t f).hbm = s.hbm := by
  rw [State.modTeam_eq]
@[simp] theorem State.modTeam_mgauges (s : State) (t : Nat) (f : Team → Team) : (s.modTeam t f).mgauges = s.mgauges := by
  rw [State.modTeam_eq]
@[simp] theorem State.modTeam_directory (s : State) (t : Nat) (f : Team → Team) : (s.modTeam t f).directory = s.directory := by
  rw [State.modTeam_eq]
@[simp] theorem State.modTeam_inbound (s : State) (t : Nat) (f : Team → Team) : (s.modTeam t f).inbound = s.inbound := by
  rw [State.modTeam_eq]
@[simp] theorem State.modTeam_sent (s : State) (t : Nat) (f : Team → Team) : (s.modTeam t f).sent = s.sent := by
  rw [State.modTeam_eq]
@[simp] theorem State.modTeam_acks (s : State) (t : Nat) (f : Team → Team) : (s.modTeam t f).acks = s.acks := by
  rw [State.modTeam_eq]
@[simp] theorem State.modTeam_streams (s : State) (t : Nat) (f : Team → Team) : (s.modTeam t f).streams = s.streams := by
  rw [State.modTeam_eq]
@[simp] theorem State.modTeam_undecided (s : State) (t : Nat) (f : Team → Team) : (s.modTeam t f).undecided = s.undecided := by
  rw [State.modTeam_eq]
@[simp] theorem State.modTeam_outcomes (s : State) (t : Nat) (f : Team → Team) : (s.modTeam t f).outcomes = s.outcomes := by
  rw [State.modTeam_eq]
@[simp] theorem State.modTeam_ackOut (s : State) (t : Nat) (f : Team → Team) : (s.modTeam t f).ackOut = s.ackOut := by
  rw [State.modTeam_eq]
@[simp] theorem State.modTeam_xlate (s : State) (t : Nat) (f : Team → Team) : (s.modTeam t f).xlate = s.xlate := by
  rw [State.modTeam_eq]
@[simp] theorem State.modTeam_sharers (s : State) (t : Nat) (f : Team → Team) : (s.modTeam t f).sharers = s.sharers := by
  rw [State.modTeam_eq]
@[simp] theorem State.modTeam_invals (s : State) (t : Nat) (f : Team → Team) : (s.modTeam t f).invals = s.invals := by
  rw [State.modTeam_eq]
@[simp] theorem State.modTeam_waves (s : State) (t : Nat) (f : Team → Team) : (s.modTeam t f).waves = s.waves := by
  rw [State.modTeam_eq]
@[simp] theorem State.modTeam_waveOut (s : State) (t : Nat) (f : Team → Team) : (s.modTeam t f).waveOut = s.waveOut := by
  rw [State.modTeam_eq]
@[simp] theorem State.modTeam_waveWait (s : State) (t : Nat) (f : Team → Team) : (s.modTeam t f).waveWait = s.waveWait := by
  rw [State.modTeam_eq]
@[simp] theorem State.modTeam_counts (s : State) (t : Nat) (f : Team → Team) : (s.modTeam t f).counts = s.counts := by
  rw [State.modTeam_eq]
@[simp] theorem State.modTeam_late (s : State) (t : Nat) (f : Team → Team) : (s.modTeam t f).late = s.late := by
  rw [State.modTeam_eq]
@[simp] theorem State.modTeam_notifies (s : State) (t : Nat) (f : Team → Team) : (s.modTeam t f).notifies = s.notifies := by
  rw [State.modTeam_eq]
@[simp] theorem State.modTeam_glaunches (s : State) (t : Nat) (f : Team → Team) : (s.modTeam t f).glaunches = s.glaunches := by
  rw [State.modTeam_eq]
@[simp] theorem State.modTeam_launches (s : State) (t : Nat) (f : Team → Team) : (s.modTeam t f).launches = s.launches := by
  rw [State.modTeam_eq]
@[simp] theorem State.modTeam_notices (s : State) (t : Nat) (f : Team → Team) : (s.modTeam t f).notices = s.notices := by
  rw [State.modTeam_eq]
@[simp] theorem State.modTeam_nvqs (s : State) (t : Nat) (f : Team → Team) : (s.modTeam t f).nvqs = s.nvqs := by
  rw [State.modTeam_eq]
@[simp] theorem State.modTeam_shlport (s : State) (t : Nat) (f : Team → Team) : (s.modTeam t f).shlport = s.shlport := by
  rw [State.modTeam_eq]
@[simp] theorem State.modTeam_shlpfx (s : State) (t : Nat) (f : Team → Team) : (s.modTeam t f).shlpfx = s.shlpfx := by
  rw [State.modTeam_eq]
@[simp] theorem State.modTeam_shliid (s : State) (t : Nat) (f : Team → Team) : (s.modTeam t f).shliid = s.shliid := by
  rw [State.modTeam_eq]
@[simp] theorem State.modTeam_lnkdrain (s : State) (t : Nat) (f : Team → Team) : (s.modTeam t f).lnkdrain = s.lnkdrain := by
  rw [State.modTeam_eq]
@[simp] theorem State.modTeam_links (s : State) (t : Nat) (f : Team → Team) : (s.modTeam t f).links = s.links := by
  rw [State.modTeam_eq]
@[simp] theorem State.modTeam_planes (s : State) (t : Nat) (f : Team → Team) : (s.modTeam t f).planes = s.planes := by
  rw [State.modTeam_eq]
@[simp] theorem State.modTeam_shlkeys (s : State) (t : Nat) (f : Team → Team) : (s.modTeam t f).shlkeys = s.shlkeys := by
  rw [State.modTeam_eq]
@[simp] theorem State.modTeam_egress (s : State) (t : Nat) (f : Team → Team) : (s.modTeam t f).egress = s.egress := by
  rw [State.modTeam_eq]
@[simp] theorem State.modTeam_mgmtWait (s : State) (t : Nat) (f : Team → Team) : (s.modTeam t f).mgmtWait = s.mgmtWait := by
  rw [State.modTeam_eq]
@[simp] theorem State.modTeam_shlrx (s : State) (t : Nat) (f : Team → Team) : (s.modTeam t f).shlrx = s.shlrx := by
  rw [State.modTeam_eq]
@[simp] theorem State.modTeam_shltx (s : State) (t : Nat) (f : Team → Team) : (s.modTeam t f).shltx = s.shltx := by
  rw [State.modTeam_eq]
@[simp] theorem State.modTeam_hbmLast (s : State) (t : Nat) (f : Team → Team) : (s.modTeam t f).hbmLast = s.hbmLast := by
  rw [State.modTeam_eq]
@[simp] theorem State.modTeam_hertor (s : State) (t : Nat) (f : Team → Team) : (s.modTeam t f).hertor = s.hertor := by
  rw [State.modTeam_eq]
@[simp] theorem State.modTeam_pcie (s : State) (t : Nat) (f : Team → Team) : (s.modTeam t f).pcie = s.pcie := by
  rw [State.modTeam_eq]
@[simp] theorem State.modGroup_cur (s : State) (t g : Nat) (f : Group → Group) : (s.modGroup t g f).cur = s.cur := State.modTeam_cur _ _ _
@[simp] theorem State.modGroup_agenda (s : State) (t g : Nat) (f : Group → Group) : (s.modGroup t g f).agenda = s.agenda := State.modTeam_agenda _ _ _
@[simp] theorem State.modGroup_fresh (s : State) (t g : Nat) (f : Group → Group) : (s.modGroup t g f).fresh = s.fresh := State.modTeam_fresh _ _ _
@[simp] theorem State.modGroup_now (s : State) (t g : Nat) (f : Group → Group) : (s.modGroup t g f).now = s.now := State.modTeam_now _ _ _
@[simp] theorem State.modGroup_node (s : State) (t g : Nat) (f : Group → Group) : (s.modGroup t g f).node = s.node := State.modTeam_node _ _ _
@[simp] theorem State.modGroup_mem (s : State) (t g : Nat) (f : Group → Group) : (s.modGroup t g f).mem = s.mem := State.modTeam_mem _ _ _
@[simp] theorem State.modGroup_poison (s : State) (t g : Nat) (f : Group → Group) : (s.modGroup t g f).poison = s.poison := State.modTeam_poison _ _ _
@[simp] theorem State.modGroup_freed (s : State) (t g : Nat) (f : Group → Group) : (s.modGroup t g f).freed = s.freed := State.modTeam_freed _ _ _
@[simp] theorem State.modGroup_claims (s : State) (t g : Nat) (f : Group → Group) : (s.modGroup t g f).claims = s.claims := State.modTeam_claims _ _ _
@[simp] theorem State.modGroup_tlb (s : State) (t g : Nat) (f : Group → Group) : (s.modGroup t g f).tlb = s.tlb := State.modTeam_tlb _ _ _
@[simp] theorem State.modGroup_jobs (s : State) (t g : Nat) (f : Group → Group) : (s.modGroup t g f).jobs = s.jobs := State.modTeam_jobs _ _ _
@[simp] theorem State.modGroup_cols (s : State) (t g : Nat) (f : Group → Group) : (s.modGroup t g f).cols = s.cols := State.modTeam_cols _ _ _
@[simp] theorem State.modGroup_cores (s : State) (t g : Nat) (f : Group → Group) : (s.modGroup t g f).cores = s.cores := State.modTeam_cores _ _ _
@[simp] theorem State.modGroup_towers (s : State) (t g : Nat) (f : Group → Group) : (s.modGroup t g f).towers = s.towers := State.modTeam_towers _ _ _
@[simp] theorem State.modGroup_islands (s : State) (t g : Nat) (f : Group → Group) : (s.modGroup t g f).islands = s.islands := State.modTeam_islands _ _ _
@[simp] theorem State.modGroup_hbm (s : State) (t g : Nat) (f : Group → Group) : (s.modGroup t g f).hbm = s.hbm := State.modTeam_hbm _ _ _
@[simp] theorem State.modGroup_mgauges (s : State) (t g : Nat) (f : Group → Group) : (s.modGroup t g f).mgauges = s.mgauges := State.modTeam_mgauges _ _ _
@[simp] theorem State.modGroup_directory (s : State) (t g : Nat) (f : Group → Group) : (s.modGroup t g f).directory = s.directory := State.modTeam_directory _ _ _
@[simp] theorem State.modGroup_inbound (s : State) (t g : Nat) (f : Group → Group) : (s.modGroup t g f).inbound = s.inbound := State.modTeam_inbound _ _ _
@[simp] theorem State.modGroup_sent (s : State) (t g : Nat) (f : Group → Group) : (s.modGroup t g f).sent = s.sent := State.modTeam_sent _ _ _
@[simp] theorem State.modGroup_acks (s : State) (t g : Nat) (f : Group → Group) : (s.modGroup t g f).acks = s.acks := State.modTeam_acks _ _ _
@[simp] theorem State.modGroup_streams (s : State) (t g : Nat) (f : Group → Group) : (s.modGroup t g f).streams = s.streams := State.modTeam_streams _ _ _
@[simp] theorem State.modGroup_undecided (s : State) (t g : Nat) (f : Group → Group) : (s.modGroup t g f).undecided = s.undecided := State.modTeam_undecided _ _ _
@[simp] theorem State.modGroup_outcomes (s : State) (t g : Nat) (f : Group → Group) : (s.modGroup t g f).outcomes = s.outcomes := State.modTeam_outcomes _ _ _
@[simp] theorem State.modGroup_ackOut (s : State) (t g : Nat) (f : Group → Group) : (s.modGroup t g f).ackOut = s.ackOut := State.modTeam_ackOut _ _ _
@[simp] theorem State.modGroup_xlate (s : State) (t g : Nat) (f : Group → Group) : (s.modGroup t g f).xlate = s.xlate := State.modTeam_xlate _ _ _
@[simp] theorem State.modGroup_sharers (s : State) (t g : Nat) (f : Group → Group) : (s.modGroup t g f).sharers = s.sharers := State.modTeam_sharers _ _ _
@[simp] theorem State.modGroup_invals (s : State) (t g : Nat) (f : Group → Group) : (s.modGroup t g f).invals = s.invals := State.modTeam_invals _ _ _
@[simp] theorem State.modGroup_waves (s : State) (t g : Nat) (f : Group → Group) : (s.modGroup t g f).waves = s.waves := State.modTeam_waves _ _ _
@[simp] theorem State.modGroup_waveOut (s : State) (t g : Nat) (f : Group → Group) : (s.modGroup t g f).waveOut = s.waveOut := State.modTeam_waveOut _ _ _
@[simp] theorem State.modGroup_waveWait (s : State) (t g : Nat) (f : Group → Group) : (s.modGroup t g f).waveWait = s.waveWait := State.modTeam_waveWait _ _ _
@[simp] theorem State.modGroup_counts (s : State) (t g : Nat) (f : Group → Group) : (s.modGroup t g f).counts = s.counts := State.modTeam_counts _ _ _
@[simp] theorem State.modGroup_late (s : State) (t g : Nat) (f : Group → Group) : (s.modGroup t g f).late = s.late := State.modTeam_late _ _ _
@[simp] theorem State.modGroup_notifies (s : State) (t g : Nat) (f : Group → Group) : (s.modGroup t g f).notifies = s.notifies := State.modTeam_notifies _ _ _
@[simp] theorem State.modGroup_glaunches (s : State) (t g : Nat) (f : Group → Group) : (s.modGroup t g f).glaunches = s.glaunches := State.modTeam_glaunches _ _ _
@[simp] theorem State.modGroup_launches (s : State) (t g : Nat) (f : Group → Group) : (s.modGroup t g f).launches = s.launches := State.modTeam_launches _ _ _
@[simp] theorem State.modGroup_notices (s : State) (t g : Nat) (f : Group → Group) : (s.modGroup t g f).notices = s.notices := State.modTeam_notices _ _ _
@[simp] theorem State.modGroup_nvqs (s : State) (t g : Nat) (f : Group → Group) : (s.modGroup t g f).nvqs = s.nvqs := State.modTeam_nvqs _ _ _
@[simp] theorem State.modGroup_shlport (s : State) (t g : Nat) (f : Group → Group) : (s.modGroup t g f).shlport = s.shlport := State.modTeam_shlport _ _ _
@[simp] theorem State.modGroup_shlpfx (s : State) (t g : Nat) (f : Group → Group) : (s.modGroup t g f).shlpfx = s.shlpfx := State.modTeam_shlpfx _ _ _
@[simp] theorem State.modGroup_shliid (s : State) (t g : Nat) (f : Group → Group) : (s.modGroup t g f).shliid = s.shliid := State.modTeam_shliid _ _ _
@[simp] theorem State.modGroup_lnkdrain (s : State) (t g : Nat) (f : Group → Group) : (s.modGroup t g f).lnkdrain = s.lnkdrain := State.modTeam_lnkdrain _ _ _
@[simp] theorem State.modGroup_links (s : State) (t g : Nat) (f : Group → Group) : (s.modGroup t g f).links = s.links := State.modTeam_links _ _ _
@[simp] theorem State.modGroup_planes (s : State) (t g : Nat) (f : Group → Group) : (s.modGroup t g f).planes = s.planes := State.modTeam_planes _ _ _
@[simp] theorem State.modGroup_shlkeys (s : State) (t g : Nat) (f : Group → Group) : (s.modGroup t g f).shlkeys = s.shlkeys := State.modTeam_shlkeys _ _ _
@[simp] theorem State.modGroup_egress (s : State) (t g : Nat) (f : Group → Group) : (s.modGroup t g f).egress = s.egress := State.modTeam_egress _ _ _
@[simp] theorem State.modGroup_mgmtWait (s : State) (t g : Nat) (f : Group → Group) : (s.modGroup t g f).mgmtWait = s.mgmtWait := State.modTeam_mgmtWait _ _ _
@[simp] theorem State.modGroup_shlrx (s : State) (t g : Nat) (f : Group → Group) : (s.modGroup t g f).shlrx = s.shlrx := State.modTeam_shlrx _ _ _
@[simp] theorem State.modGroup_shltx (s : State) (t g : Nat) (f : Group → Group) : (s.modGroup t g f).shltx = s.shltx := State.modTeam_shltx _ _ _
@[simp] theorem State.modGroup_hbmLast (s : State) (t g : Nat) (f : Group → Group) : (s.modGroup t g f).hbmLast = s.hbmLast := State.modTeam_hbmLast _ _ _
@[simp] theorem State.modGroup_hertor (s : State) (t g : Nat) (f : Group → Group) : (s.modGroup t g f).hertor = s.hertor := State.modTeam_hertor _ _ _
@[simp] theorem State.modGroup_pcie (s : State) (t g : Nat) (f : Group → Group) : (s.modGroup t g f).pcie = s.pcie := State.modTeam_pcie _ _ _

@[simp] theorem State.modSplit_cur (s : State) (t g p : Nat) (f : Split → Split) : (s.modSplit t g p f).cur = s.cur := State.modTeam_cur _ _ _
@[simp] theorem State.modSplit_agenda (s : State) (t g p : Nat) (f : Split → Split) : (s.modSplit t g p f).agenda = s.agenda := State.modTeam_agenda _ _ _
@[simp] theorem State.modSplit_fresh (s : State) (t g p : Nat) (f : Split → Split) : (s.modSplit t g p f).fresh = s.fresh := State.modTeam_fresh _ _ _
@[simp] theorem State.modSplit_now (s : State) (t g p : Nat) (f : Split → Split) : (s.modSplit t g p f).now = s.now := State.modTeam_now _ _ _
@[simp] theorem State.modSplit_node (s : State) (t g p : Nat) (f : Split → Split) : (s.modSplit t g p f).node = s.node := State.modTeam_node _ _ _
@[simp] theorem State.modSplit_mem (s : State) (t g p : Nat) (f : Split → Split) : (s.modSplit t g p f).mem = s.mem := State.modTeam_mem _ _ _
@[simp] theorem State.modSplit_poison (s : State) (t g p : Nat) (f : Split → Split) : (s.modSplit t g p f).poison = s.poison := State.modTeam_poison _ _ _
@[simp] theorem State.modSplit_freed (s : State) (t g p : Nat) (f : Split → Split) : (s.modSplit t g p f).freed = s.freed := State.modTeam_freed _ _ _
@[simp] theorem State.modSplit_claims (s : State) (t g p : Nat) (f : Split → Split) : (s.modSplit t g p f).claims = s.claims := State.modTeam_claims _ _ _
@[simp] theorem State.modSplit_tlb (s : State) (t g p : Nat) (f : Split → Split) : (s.modSplit t g p f).tlb = s.tlb := State.modTeam_tlb _ _ _
@[simp] theorem State.modSplit_jobs (s : State) (t g p : Nat) (f : Split → Split) : (s.modSplit t g p f).jobs = s.jobs := State.modTeam_jobs _ _ _
@[simp] theorem State.modSplit_cols (s : State) (t g p : Nat) (f : Split → Split) : (s.modSplit t g p f).cols = s.cols := State.modTeam_cols _ _ _
@[simp] theorem State.modSplit_cores (s : State) (t g p : Nat) (f : Split → Split) : (s.modSplit t g p f).cores = s.cores := State.modTeam_cores _ _ _
@[simp] theorem State.modSplit_towers (s : State) (t g p : Nat) (f : Split → Split) : (s.modSplit t g p f).towers = s.towers := State.modTeam_towers _ _ _
@[simp] theorem State.modSplit_islands (s : State) (t g p : Nat) (f : Split → Split) : (s.modSplit t g p f).islands = s.islands := State.modTeam_islands _ _ _
@[simp] theorem State.modSplit_hbm (s : State) (t g p : Nat) (f : Split → Split) : (s.modSplit t g p f).hbm = s.hbm := State.modTeam_hbm _ _ _
@[simp] theorem State.modSplit_mgauges (s : State) (t g p : Nat) (f : Split → Split) : (s.modSplit t g p f).mgauges = s.mgauges := State.modTeam_mgauges _ _ _
@[simp] theorem State.modSplit_directory (s : State) (t g p : Nat) (f : Split → Split) : (s.modSplit t g p f).directory = s.directory := State.modTeam_directory _ _ _
@[simp] theorem State.modSplit_inbound (s : State) (t g p : Nat) (f : Split → Split) : (s.modSplit t g p f).inbound = s.inbound := State.modTeam_inbound _ _ _
@[simp] theorem State.modSplit_sent (s : State) (t g p : Nat) (f : Split → Split) : (s.modSplit t g p f).sent = s.sent := State.modTeam_sent _ _ _
@[simp] theorem State.modSplit_acks (s : State) (t g p : Nat) (f : Split → Split) : (s.modSplit t g p f).acks = s.acks := State.modTeam_acks _ _ _
@[simp] theorem State.modSplit_streams (s : State) (t g p : Nat) (f : Split → Split) : (s.modSplit t g p f).streams = s.streams := State.modTeam_streams _ _ _
@[simp] theorem State.modSplit_undecided (s : State) (t g p : Nat) (f : Split → Split) : (s.modSplit t g p f).undecided = s.undecided := State.modTeam_undecided _ _ _
@[simp] theorem State.modSplit_outcomes (s : State) (t g p : Nat) (f : Split → Split) : (s.modSplit t g p f).outcomes = s.outcomes := State.modTeam_outcomes _ _ _
@[simp] theorem State.modSplit_ackOut (s : State) (t g p : Nat) (f : Split → Split) : (s.modSplit t g p f).ackOut = s.ackOut := State.modTeam_ackOut _ _ _
@[simp] theorem State.modSplit_xlate (s : State) (t g p : Nat) (f : Split → Split) : (s.modSplit t g p f).xlate = s.xlate := State.modTeam_xlate _ _ _
@[simp] theorem State.modSplit_sharers (s : State) (t g p : Nat) (f : Split → Split) : (s.modSplit t g p f).sharers = s.sharers := State.modTeam_sharers _ _ _
@[simp] theorem State.modSplit_invals (s : State) (t g p : Nat) (f : Split → Split) : (s.modSplit t g p f).invals = s.invals := State.modTeam_invals _ _ _
@[simp] theorem State.modSplit_waves (s : State) (t g p : Nat) (f : Split → Split) : (s.modSplit t g p f).waves = s.waves := State.modTeam_waves _ _ _
@[simp] theorem State.modSplit_waveOut (s : State) (t g p : Nat) (f : Split → Split) : (s.modSplit t g p f).waveOut = s.waveOut := State.modTeam_waveOut _ _ _
@[simp] theorem State.modSplit_waveWait (s : State) (t g p : Nat) (f : Split → Split) : (s.modSplit t g p f).waveWait = s.waveWait := State.modTeam_waveWait _ _ _
@[simp] theorem State.modSplit_counts (s : State) (t g p : Nat) (f : Split → Split) : (s.modSplit t g p f).counts = s.counts := State.modTeam_counts _ _ _
@[simp] theorem State.modSplit_late (s : State) (t g p : Nat) (f : Split → Split) : (s.modSplit t g p f).late = s.late := State.modTeam_late _ _ _
@[simp] theorem State.modSplit_notifies (s : State) (t g p : Nat) (f : Split → Split) : (s.modSplit t g p f).notifies = s.notifies := State.modTeam_notifies _ _ _
@[simp] theorem State.modSplit_glaunches (s : State) (t g p : Nat) (f : Split → Split) : (s.modSplit t g p f).glaunches = s.glaunches := State.modTeam_glaunches _ _ _
@[simp] theorem State.modSplit_launches (s : State) (t g p : Nat) (f : Split → Split) : (s.modSplit t g p f).launches = s.launches := State.modTeam_launches _ _ _
@[simp] theorem State.modSplit_notices (s : State) (t g p : Nat) (f : Split → Split) : (s.modSplit t g p f).notices = s.notices := State.modTeam_notices _ _ _
@[simp] theorem State.modSplit_nvqs (s : State) (t g p : Nat) (f : Split → Split) : (s.modSplit t g p f).nvqs = s.nvqs := State.modTeam_nvqs _ _ _
@[simp] theorem State.modSplit_shlport (s : State) (t g p : Nat) (f : Split → Split) : (s.modSplit t g p f).shlport = s.shlport := State.modTeam_shlport _ _ _
@[simp] theorem State.modSplit_shlpfx (s : State) (t g p : Nat) (f : Split → Split) : (s.modSplit t g p f).shlpfx = s.shlpfx := State.modTeam_shlpfx _ _ _
@[simp] theorem State.modSplit_shliid (s : State) (t g p : Nat) (f : Split → Split) : (s.modSplit t g p f).shliid = s.shliid := State.modTeam_shliid _ _ _
@[simp] theorem State.modSplit_lnkdrain (s : State) (t g p : Nat) (f : Split → Split) : (s.modSplit t g p f).lnkdrain = s.lnkdrain := State.modTeam_lnkdrain _ _ _
@[simp] theorem State.modSplit_links (s : State) (t g p : Nat) (f : Split → Split) : (s.modSplit t g p f).links = s.links := State.modTeam_links _ _ _
@[simp] theorem State.modSplit_planes (s : State) (t g p : Nat) (f : Split → Split) : (s.modSplit t g p f).planes = s.planes := State.modTeam_planes _ _ _
@[simp] theorem State.modSplit_shlkeys (s : State) (t g p : Nat) (f : Split → Split) : (s.modSplit t g p f).shlkeys = s.shlkeys := State.modTeam_shlkeys _ _ _
@[simp] theorem State.modSplit_egress (s : State) (t g p : Nat) (f : Split → Split) : (s.modSplit t g p f).egress = s.egress := State.modTeam_egress _ _ _
@[simp] theorem State.modSplit_mgmtWait (s : State) (t g p : Nat) (f : Split → Split) : (s.modSplit t g p f).mgmtWait = s.mgmtWait := State.modTeam_mgmtWait _ _ _
@[simp] theorem State.modSplit_shlrx (s : State) (t g p : Nat) (f : Split → Split) : (s.modSplit t g p f).shlrx = s.shlrx := State.modTeam_shlrx _ _ _
@[simp] theorem State.modSplit_shltx (s : State) (t g p : Nat) (f : Split → Split) : (s.modSplit t g p f).shltx = s.shltx := State.modTeam_shltx _ _ _
@[simp] theorem State.modSplit_hbmLast (s : State) (t g p : Nat) (f : Split → Split) : (s.modSplit t g p f).hbmLast = s.hbmLast := State.modTeam_hbmLast _ _ _
@[simp] theorem State.modSplit_hertor (s : State) (t g p : Nat) (f : Split → Split) : (s.modSplit t g p f).hertor = s.hertor := State.modTeam_hertor _ _ _
@[simp] theorem State.modSplit_pcie (s : State) (t g p : Nat) (f : Split → Split) : (s.modSplit t g p f).pcie = s.pcie := State.modTeam_pcie _ _ _

@[simp] theorem State.modSeq_cur (s : State) (t : Nat) (f : Seqr → Seqr) : (s.modSeq t f).cur = s.cur := State.modTeam_cur _ _ _
@[simp] theorem State.modSeq_agenda (s : State) (t : Nat) (f : Seqr → Seqr) : (s.modSeq t f).agenda = s.agenda := State.modTeam_agenda _ _ _
@[simp] theorem State.modSeq_fresh (s : State) (t : Nat) (f : Seqr → Seqr) : (s.modSeq t f).fresh = s.fresh := State.modTeam_fresh _ _ _
@[simp] theorem State.modSeq_now (s : State) (t : Nat) (f : Seqr → Seqr) : (s.modSeq t f).now = s.now := State.modTeam_now _ _ _
@[simp] theorem State.modSeq_node (s : State) (t : Nat) (f : Seqr → Seqr) : (s.modSeq t f).node = s.node := State.modTeam_node _ _ _
@[simp] theorem State.modSeq_mem (s : State) (t : Nat) (f : Seqr → Seqr) : (s.modSeq t f).mem = s.mem := State.modTeam_mem _ _ _
@[simp] theorem State.modSeq_poison (s : State) (t : Nat) (f : Seqr → Seqr) : (s.modSeq t f).poison = s.poison := State.modTeam_poison _ _ _
@[simp] theorem State.modSeq_freed (s : State) (t : Nat) (f : Seqr → Seqr) : (s.modSeq t f).freed = s.freed := State.modTeam_freed _ _ _
@[simp] theorem State.modSeq_claims (s : State) (t : Nat) (f : Seqr → Seqr) : (s.modSeq t f).claims = s.claims := State.modTeam_claims _ _ _
@[simp] theorem State.modSeq_tlb (s : State) (t : Nat) (f : Seqr → Seqr) : (s.modSeq t f).tlb = s.tlb := State.modTeam_tlb _ _ _
@[simp] theorem State.modSeq_jobs (s : State) (t : Nat) (f : Seqr → Seqr) : (s.modSeq t f).jobs = s.jobs := State.modTeam_jobs _ _ _
@[simp] theorem State.modSeq_cols (s : State) (t : Nat) (f : Seqr → Seqr) : (s.modSeq t f).cols = s.cols := State.modTeam_cols _ _ _
@[simp] theorem State.modSeq_cores (s : State) (t : Nat) (f : Seqr → Seqr) : (s.modSeq t f).cores = s.cores := State.modTeam_cores _ _ _
@[simp] theorem State.modSeq_towers (s : State) (t : Nat) (f : Seqr → Seqr) : (s.modSeq t f).towers = s.towers := State.modTeam_towers _ _ _
@[simp] theorem State.modSeq_islands (s : State) (t : Nat) (f : Seqr → Seqr) : (s.modSeq t f).islands = s.islands := State.modTeam_islands _ _ _
@[simp] theorem State.modSeq_hbm (s : State) (t : Nat) (f : Seqr → Seqr) : (s.modSeq t f).hbm = s.hbm := State.modTeam_hbm _ _ _
@[simp] theorem State.modSeq_mgauges (s : State) (t : Nat) (f : Seqr → Seqr) : (s.modSeq t f).mgauges = s.mgauges := State.modTeam_mgauges _ _ _
@[simp] theorem State.modSeq_directory (s : State) (t : Nat) (f : Seqr → Seqr) : (s.modSeq t f).directory = s.directory := State.modTeam_directory _ _ _
@[simp] theorem State.modSeq_inbound (s : State) (t : Nat) (f : Seqr → Seqr) : (s.modSeq t f).inbound = s.inbound := State.modTeam_inbound _ _ _
@[simp] theorem State.modSeq_sent (s : State) (t : Nat) (f : Seqr → Seqr) : (s.modSeq t f).sent = s.sent := State.modTeam_sent _ _ _
@[simp] theorem State.modSeq_acks (s : State) (t : Nat) (f : Seqr → Seqr) : (s.modSeq t f).acks = s.acks := State.modTeam_acks _ _ _
@[simp] theorem State.modSeq_streams (s : State) (t : Nat) (f : Seqr → Seqr) : (s.modSeq t f).streams = s.streams := State.modTeam_streams _ _ _
@[simp] theorem State.modSeq_undecided (s : State) (t : Nat) (f : Seqr → Seqr) : (s.modSeq t f).undecided = s.undecided := State.modTeam_undecided _ _ _
@[simp] theorem State.modSeq_outcomes (s : State) (t : Nat) (f : Seqr → Seqr) : (s.modSeq t f).outcomes = s.outcomes := State.modTeam_outcomes _ _ _
@[simp] theorem State.modSeq_ackOut (s : State) (t : Nat) (f : Seqr → Seqr) : (s.modSeq t f).ackOut = s.ackOut := State.modTeam_ackOut _ _ _
@[simp] theorem State.modSeq_xlate (s : State) (t : Nat) (f : Seqr → Seqr) : (s.modSeq t f).xlate = s.xlate := State.modTeam_xlate _ _ _
@[simp] theorem State.modSeq_sharers (s : State) (t : Nat) (f : Seqr → Seqr) : (s.modSeq t f).sharers = s.sharers := State.modTeam_sharers _ _ _
@[simp] theorem State.modSeq_invals (s : State) (t : Nat) (f : Seqr → Seqr) : (s.modSeq t f).invals = s.invals := State.modTeam_invals _ _ _
@[simp] theorem State.modSeq_waves (s : State) (t : Nat) (f : Seqr → Seqr) : (s.modSeq t f).waves = s.waves := State.modTeam_waves _ _ _
@[simp] theorem State.modSeq_waveOut (s : State) (t : Nat) (f : Seqr → Seqr) : (s.modSeq t f).waveOut = s.waveOut := State.modTeam_waveOut _ _ _
@[simp] theorem State.modSeq_waveWait (s : State) (t : Nat) (f : Seqr → Seqr) : (s.modSeq t f).waveWait = s.waveWait := State.modTeam_waveWait _ _ _
@[simp] theorem State.modSeq_counts (s : State) (t : Nat) (f : Seqr → Seqr) : (s.modSeq t f).counts = s.counts := State.modTeam_counts _ _ _
@[simp] theorem State.modSeq_late (s : State) (t : Nat) (f : Seqr → Seqr) : (s.modSeq t f).late = s.late := State.modTeam_late _ _ _
@[simp] theorem State.modSeq_notifies (s : State) (t : Nat) (f : Seqr → Seqr) : (s.modSeq t f).notifies = s.notifies := State.modTeam_notifies _ _ _
@[simp] theorem State.modSeq_glaunches (s : State) (t : Nat) (f : Seqr → Seqr) : (s.modSeq t f).glaunches = s.glaunches := State.modTeam_glaunches _ _ _
@[simp] theorem State.modSeq_launches (s : State) (t : Nat) (f : Seqr → Seqr) : (s.modSeq t f).launches = s.launches := State.modTeam_launches _ _ _
@[simp] theorem State.modSeq_notices (s : State) (t : Nat) (f : Seqr → Seqr) : (s.modSeq t f).notices = s.notices := State.modTeam_notices _ _ _
@[simp] theorem State.modSeq_nvqs (s : State) (t : Nat) (f : Seqr → Seqr) : (s.modSeq t f).nvqs = s.nvqs := State.modTeam_nvqs _ _ _
@[simp] theorem State.modSeq_shlport (s : State) (t : Nat) (f : Seqr → Seqr) : (s.modSeq t f).shlport = s.shlport := State.modTeam_shlport _ _ _
@[simp] theorem State.modSeq_shlpfx (s : State) (t : Nat) (f : Seqr → Seqr) : (s.modSeq t f).shlpfx = s.shlpfx := State.modTeam_shlpfx _ _ _
@[simp] theorem State.modSeq_shliid (s : State) (t : Nat) (f : Seqr → Seqr) : (s.modSeq t f).shliid = s.shliid := State.modTeam_shliid _ _ _
@[simp] theorem State.modSeq_lnkdrain (s : State) (t : Nat) (f : Seqr → Seqr) : (s.modSeq t f).lnkdrain = s.lnkdrain := State.modTeam_lnkdrain _ _ _
@[simp] theorem State.modSeq_links (s : State) (t : Nat) (f : Seqr → Seqr) : (s.modSeq t f).links = s.links := State.modTeam_links _ _ _
@[simp] theorem State.modSeq_planes (s : State) (t : Nat) (f : Seqr → Seqr) : (s.modSeq t f).planes = s.planes := State.modTeam_planes _ _ _
@[simp] theorem State.modSeq_shlkeys (s : State) (t : Nat) (f : Seqr → Seqr) : (s.modSeq t f).shlkeys = s.shlkeys := State.modTeam_shlkeys _ _ _
@[simp] theorem State.modSeq_egress (s : State) (t : Nat) (f : Seqr → Seqr) : (s.modSeq t f).egress = s.egress := State.modTeam_egress _ _ _
@[simp] theorem State.modSeq_mgmtWait (s : State) (t : Nat) (f : Seqr → Seqr) : (s.modSeq t f).mgmtWait = s.mgmtWait := State.modTeam_mgmtWait _ _ _
@[simp] theorem State.modSeq_shlrx (s : State) (t : Nat) (f : Seqr → Seqr) : (s.modSeq t f).shlrx = s.shlrx := State.modTeam_shlrx _ _ _
@[simp] theorem State.modSeq_shltx (s : State) (t : Nat) (f : Seqr → Seqr) : (s.modSeq t f).shltx = s.shltx := State.modTeam_shltx _ _ _
@[simp] theorem State.modSeq_hbmLast (s : State) (t : Nat) (f : Seqr → Seqr) : (s.modSeq t f).hbmLast = s.hbmLast := State.modTeam_hbmLast _ _ _
@[simp] theorem State.modSeq_hertor (s : State) (t : Nat) (f : Seqr → Seqr) : (s.modSeq t f).hertor = s.hertor := State.modTeam_hertor _ _ _
@[simp] theorem State.modSeq_pcie (s : State) (t : Nat) (f : Seqr → Seqr) : (s.modSeq t f).pcie = s.pcie := State.modTeam_pcie _ _ _

/-! ### Reading a part after a change -/

@[simp] theorem State.col_modCol (s : State) (c : Nat) (f : Column → Column) : (s.modCol c f).col c = f (s.col c) := by
  simp [State.col, State.modCol]
theorem State.col_modCol_other (s : State) {c k : Nat} (f : Column → Column) (h : k ≠ c) : (s.modCol c f).col k = s.col k :=
  tabGet_tabMod_other _ f _ h
@[simp] theorem State.host_modHost (s : State) (c : Nat) (f : HostCore → HostCore) : (s.modHost c f).host c = f (s.host c) := by
  simp [State.host, State.modHost]
theorem State.host_modHost_other (s : State) {c k : Nat} (f : HostCore → HostCore) (h : k ≠ c) :
    (s.modHost c f).host k = s.host k := by
  simp [State.host, State.modHost, State.col_modCol_other _ _ h]
@[simp] theorem State.core_modCore (s : State) (c : Nat) (f : Core → Core) : (s.modCore c f).core c = f (s.core c) := by
  simp [State.core, State.modCore]
theorem State.core_modCore_other (s : State) {c k : Nat} (f : Core → Core) (h : k ≠ c) : (s.modCore c f).core k = s.core k :=
  tabGet_tabMod_other _ f _ h
@[simp] theorem State.tower_modTower (s : State) (t : Nat) (f : Tower → Tower) : (s.modTower t f).tower t = f (s.tower t) := by
  simp [State.tower, State.modTower]
@[simp] theorem State.job_modJob (s : State) (j : Nat) (f : Job → Job) : (s.modJob j f).job j = f (s.job j) := by
  simp [State.job, State.modJob]
theorem State.job_modJob_other (s : State) {j k : Nat} (f : Job → Job) (h : k ≠ j) : (s.modJob j f).job k = s.job k :=
  tabGet_tabMod_other _ f _ h
@[simp] theorem State.island_modIsland (s : State) (i : Nat) (f : Island → Island) : (s.modIsland i f).island i = f (s.island i) := by
  simp [State.island, State.modIsland]
@[simp] theorem State.stack_modStack (s : State) (k : Nat) (f : Stack → Stack) : (s.modStack k f).stack k = f (s.stack k) := by
  simp [State.stack, State.modStack]
@[simp] theorem State.nvq_modNvq (s : State) (q : Nat) (f : NvQueue → NvQueue) : (s.modNvq q f).nvq q = f (s.nvq q) := by
  simp [State.nvq, State.modNvq]

/-- The team is in the directory. -/
def State.known (s : State) (t : Nat) : Prop := (tabFind t s.teams).isSome

theorem State.team_modTeam (s : State) (t : Nat) (f : Team → Team) (h : s.known t) : (s.modTeam t f).team t = f (s.team t) := by
  unfold State.known at h
  unfold State.modTeam State.team tabGet
  cases e : tabFind t s.teams with
  | none => simp [e] at h
  | some tm => simp [tabFind_tabSet_same]

theorem State.team_modTeam_other (s : State) {t u : Nat} (f : Team → Team) (h : u ≠ t) : (s.modTeam t f).team u = s.team u := by
  unfold State.modTeam State.team tabGet
  cases e : tabFind t s.teams with
  | none => rfl
  | some tm => simp [tabFind_tabSet_other _ _ h]

theorem State.known_modTeam (s : State) (t u : Nat) (f : Team → Team) : (s.modTeam t f).known u ↔ s.known u := by
  unfold State.modTeam State.known
  cases e : tabFind t s.teams with
  | none => simp
  | some tm =>
    by_cases h : u = t
    · subst h; simp [tabFind_tabSet_same, e]
    · simp [tabFind_tabSet_other _ _ h]

theorem State.group_modGroup (s : State) (t g : Nat) (f : Group → Group) (h : s.known t) (hg : g < (s.team t).groups.length) :
    (s.modGroup t g f).group t g = f (s.group t g) := by
  unfold State.modGroup State.group
  rw [State.team_modTeam _ _ _ h]
  exact getD_modAt_same g f _ _ hg

theorem State.group_modGroup_other (s : State) {t g k : Nat} (f : Group → Group) (hk : k ≠ g) :
    (s.modGroup t g f).group t k = s.group t k := by
  by_cases h : s.known t
  · unfold State.modGroup State.group
    rw [State.team_modTeam _ _ _ h]
    exact getD_modAt_other f _ _ hk
  · unfold State.modGroup State.modTeam
    unfold State.known at h
    cases e : tabFind t s.teams with
    | none => rfl
    | some tm => simp [e] at h

theorem State.split_modSplit (s : State) (t g p : Nat) (f : Split → Split) (h : s.known t)
    (hg : g < (s.team t).groups.length) (hp : p < (s.group t g).splits.length) :
    (s.modSplit t g p f).split t g p = f (s.split t g p) := by
  unfold State.modSplit State.split
  rw [State.group_modGroup _ _ _ _ h hg]
  exact getD_modAt_same p f _ _ hp

end Sys2Proof.Machine
end

