-- ==== Sys2Proof/Laws/Memory.lean ====
section
/-! SUPPORT. Memory as a sorted list of nonzero bytes: every operation keeps the canonical form, and reading after
writing. -/

namespace Sys2Proof.Machine

/-! ### The canonical form as a chain -/

/-- Every address of a memory lies above `a`. -/
def above (a : Nat) (m : List Host.Cell) : Prop := ∀ c ∈ m, a < c.1

theorem memCanonical_cons (c : Host.Cell) (m : List Host.Cell) :
    memCanonical (c :: m) = true ↔ c.2 ≠ 0 ∧ above c.1 m ∧ memCanonical m = true := by
  induction m generalizing c with
  | nil => simp [memCanonical, above]
  | cons d m ih =>
    obtain ⟨a, x⟩ := c
    obtain ⟨b, y⟩ := d
    have hd := ih (b, y)
    constructor
    · intro h
      simp only [memCanonical, Bool.and_eq_true, bne_iff_ne, ne_eq, decide_eq_true_eq] at h
      refine ⟨h.1.1, ?_, h.2⟩
      intro e he
      rcases List.mem_cons.1 he with rfl | he
      · exact h.1.2
      · exact Nat.lt_trans h.1.2 ((hd.1 h.2).2.1 e he)
    · rintro ⟨h1, h2, h3⟩
      simp only [memCanonical, Bool.and_eq_true, bne_iff_ne, ne_eq, decide_eq_true_eq]
      exact ⟨⟨h1, h2 (b, y) (by simp)⟩, h3⟩

/-- A part of a canonical memory is canonical. -/
theorem memCanonical_filter (p : Host.Cell → Bool) (m : List Host.Cell) (h : memCanonical m = true) :
    memCanonical (m.filter p) = true := by
  induction m with
  | nil => rfl
  | cons c m ih =>
    rw [memCanonical_cons] at h
    rw [List.filter_cons]
    split
    · rw [memCanonical_cons]
      exact ⟨h.1, fun e he => h.2.1 e (List.mem_filter.1 he).1, ih h.2.2⟩
    · exact ih h.2.2

/-! ### One byte -/

theorem mem_memSet (a : Nat) (x : Byte) (m : List Host.Cell) (c : Host.Cell) (h : c ∈ memSet a x m) : c ∈ m ∨ c = (a, x) := by
  induction m with
  | nil =>
    unfold memSet at h
    split at h <;> simp_all
  | cons d m ih =>
    obtain ⟨b, y⟩ := d
    simp only [memSet] at h
    split at h
    · split at h <;> simp_all <;> tauto
    · split at h
      · split at h <;> simp_all <;> tauto
      · rcases List.mem_cons.1 h with h | h
        · exact Or.inl (by simp [h])
        · rcases ih h with h | h
          · exact Or.inl (by simp [h])
          · exact Or.inr h

/-- Writing a byte keeps the canonical form. -/
theorem memSet_canonical (a : Nat) (x : Byte) (m : List Host.Cell) (h : memCanonical m = true) :
    memCanonical (memSet a x m) = true := by
  induction m with
  | nil =>
    unfold memSet
    split
    · rfl
    · simpa [memCanonical]
  | cons d m ih =>
    obtain ⟨b, y⟩ := d
    have hc := (memCanonical_cons _ _).1 h
    simp only [memSet]
    split
    · rename_i hab
      split
      · exact h
      · rename_i hx
        rw [memCanonical_cons]
        refine ⟨hx, ?_, h⟩
        intro e he
        rcases List.mem_cons.1 he with rfl | he
        · exact hab
        · exact Nat.lt_trans hab (hc.2.1 e he)
    · rename_i hab
      split
      · rename_i heq
        split
        · exact hc.2.2
        · rename_i hx
          rw [memCanonical_cons]
          exact ⟨hx, fun e he => heq ▸ hc.2.1 e he, hc.2.2⟩
      · rename_i hne
        rw [memCanonical_cons]
        refine ⟨hc.1, ?_, ih hc.2.2⟩
        intro e he
        rcases mem_memSet a x m e he with he | rfl
        · exact hc.2.1 e he
        · show b < a
          omega

/-- No byte is listed below every listed address. -/
theorem memByte_above {a k : Nat} (m : List Host.Cell) (h : above k m) (hk : a ≤ k) : memByte a m = 0 := by
  induction m with
  | nil => rfl
  | cons c m ih =>
    obtain ⟨b, y⟩ := c
    have hb : k < b := h (b, y) (by simp)
    simp only [memByte]
    rw [if_neg (by omega)]
    exact ih fun e he => h e (by simp [he])

/-- A byte reads as it was written. -/
theorem memByte_memSet_same (a : Nat) (x : Byte) (m : List Host.Cell) (h : memCanonical m = true) :
    memByte a (memSet a x m) = x := by
  induction m with
  | nil =>
    unfold memSet
    split
    · rename_i hx; simp [memByte, hx]
    · simp [memByte]
  | cons d m ih =>
    obtain ⟨b, y⟩ := d
    have hc := (memCanonical_cons _ _).1 h
    simp only [memSet]
    split
    · rename_i hab
      split
      · rename_i hx
        simp only [memByte]
        rw [if_neg (by omega), hx]
        exact memByte_above m hc.2.1 (by show a ≤ b; omega)
      · simp [memByte]
    · split
      · rename_i heq
        split
        · rename_i hx
          rw [hx]
          exact memByte_above m hc.2.1 (by show a ≤ b; omega)
        · simp [memByte]
      · rename_i hne
        simp only [memByte]
        rw [if_neg (by omega)]
        exact ih hc.2.2

/-- Every other byte reads as before. -/
theorem memByte_memSet_other {a k : Nat} (x : Byte) (m : List Host.Cell) (hk : k ≠ a) :
    memByte k (memSet a x m) = memByte k m := by
  induction m with
  | nil =>
    unfold memSet
    split
    · rfl
    · simp [memByte, Ne.symm hk]
  | cons d m ih =>
    obtain ⟨b, y⟩ := d
    simp only [memSet]
    split
    · split
      · rfl
      · simp [memByte, Ne.symm hk]
    · split
      · rename_i heq
        split <;> simp [memByte, heq ▸ Ne.symm hk, Ne.symm hk]
      · simp only [memByte]
        split
        · rfl
        · exact ih

/-! ### Many bytes -/

/-- Storing bytes keeps the canonical form. -/
theorem memPut_canonical (m : List Host.Cell) (a : Nat) (bs : List Byte) (h : memCanonical m = true) :
    memCanonical (memPut m a bs) = true := by
  induction bs generalizing m a with
  | nil => exact h
  | cons x t ih => exact ih _ _ (memSet_canonical _ _ _ h)

/-- Bytes below the first one stored read as before. -/
theorem memByte_memPut_below {k a : Nat} (m : List Host.Cell) (bs : List Byte) (hk : k < a) :
    memByte k (memPut m a bs) = memByte k m := by
  induction bs generalizing m a with
  | nil => rfl
  | cons x t ih =>
    rw [memPut, ih _ (by omega)]
    exact memByte_memSet_other _ _ (by omega)

/-- Bytes outside those stored read as before. -/
theorem memByte_memPut_outside {k a : Nat} (m : List Host.Cell) (bs : List Byte) (hk : k < a ∨ a + bs.length ≤ k) :
    memByte k (memPut m a bs) = memByte k m := by
  induction bs generalizing m a with
  | nil => rfl
  | cons x t ih =>
    simp only [List.length_cons] at hk
    rw [memPut, ih _ (by omega)]
    exact memByte_memSet_other _ _ (by omega)

/-- A stored byte reads as it was stored. -/
theorem memByte_memPut_inside (m : List Host.Cell) (a : Nat) (bs : List Byte) (i : Nat) (hi : i < bs.length)
    (h : memCanonical m = true) : memByte (a + i) (memPut m a bs) = bs[i] := by
  induction bs generalizing m a i with
  | nil => simp at hi
  | cons x t ih =>
    cases i with
    | zero =>
      rw [memPut, Nat.add_zero, memByte_memPut_below _ _ (Nat.lt_succ_self a)]
      exact memByte_memSet_same _ _ _ h
    | succ i =>
      have := ih (memSet a x m) (a + 1) i (by simpa using hi) (memSet_canonical _ _ _ h)
      rw [memPut]
      simpa [Nat.add_assoc, Nat.add_comm 1 i] using this

/-- Zeroing bytes keeps the canonical form. -/
theorem memZero_canonical (m : List Host.Cell) (a n : Nat) (h : memCanonical m = true) :
    memCanonical (memZero m a n) = true := memCanonical_filter _ _ h

/-- Zeroed bytes read 0, the others as before. -/
theorem memByte_memZero (m : List Host.Cell) (a n k : Nat) :
    memByte k (memZero m a n) = if a ≤ k ∧ k < a + n then 0 else memByte k m := by
  unfold memZero
  induction m with
  | nil => simp [memByte]
  | cons c m ih =>
    obtain ⟨b, y⟩ := c
    rw [List.filter_cons]
    by_cases hb : b < a ∨ a + n ≤ b
    · rw [if_pos (by simpa using hb)]
      simp only [memByte]
      by_cases hk : b = k
      · rw [if_pos hk, if_neg (by omega), if_pos hk]
      · rw [if_neg hk, if_neg hk]
        exact ih
    · rw [if_neg (by simpa using hb), ih]
      simp only [memByte]
      by_cases hk : b = k
      · rw [if_pos (by omega), if_pos (by omega)]
      · rw [if_neg hk]

/-- Chunks placed one after the other keep the canonical form. -/
theorem putChunks_canonical (m : List Host.Cell) (base : Nat) (cs : List Chunk) (h : memCanonical m = true) :
    memCanonical (putChunks m base cs) = true := by
  induction cs generalizing m with
  | nil => exact h
  | cons c t ih =>
    obtain ⟨o, bs⟩ := c
    exact ih _ (memPut_canonical _ _ _ h)

/-- The allocation bitmap of a pool is written in canonical form. -/
theorem markPool_canonical (m : List Host.Cell) (base pa size : Nat) (on : Bool) (h : memCanonical m = true) :
    memCanonical (markPool m base pa size on) = true := by
  unfold markPool
  generalize span ((pa - base) / 65536) (size / 65536) = gs
  induction gs generalizing m with
  | nil => exact h
  | cons g t ih => exact ih _ (memSet_canonical _ _ _ h)

/-- A store at a physical address keeps the canonical form. -/
theorem State.physWrite_wf (s : State) (pa : Nat) (bs : List Byte) (h : Memory.wf s.mem = true) :
    Memory.wf (s.physWrite pa bs).mem = true := by
  have hp := memPut_canonical s.mem pa bs h
  unfold State.physWrite
  split
  · exact h
  · exact h
  · split
    · exact h
    · exact hp
  · exact hp

/-! ### Bytes and numbers (R9) -/

@[simp] theorem length_toBytes (n x : Nat) : (toBytes n x).length = n := by
  induction n generalizing x with
  | zero => rfl
  | succ n ih => simp [toBytes, ih]

/-- The bytes of a number spell it. -/
theorem ofBytes_toBytes (n x : Nat) : ofBytes (toBytes n x) = x % 256 ^ n := by
  induction n generalizing x with
  | zero => simp [toBytes, ofBytes, Nat.mod_one]
  | succ n ih =>
    rw [toBytes, ofBytes, ih, BitVec.toNat_ofNat]
    have h : x % 256 ^ (n + 1) = x % 256 + 256 * (x / 256 % 256 ^ n) := by
      rw [Nat.pow_succ, Nat.mul_comm, Nat.mod_mul]
    rw [h]

end Sys2Proof.Machine
end

