-- ==== Sys2Proof/Laws/Ops.lean ====
section
/-! SUPPORT. What each shared operation can do: the end of an instruction, updates of the issuing context, operands,
translation, physical writes, and fault records. -/

namespace Sys2Proof.Machine

/-! ### States that differ in contexts only -/

/-- Nothing but teams and columns differs. -/
def State.OnlyContexts (s t : State) : Prop := t = { s with teams := t.teams, cols := t.cols }

namespace State.OnlyContexts

variable {s t u : State}

theorem refl (s : State) : s.OnlyContexts s := rfl

theorem trans (h : s.OnlyContexts t) (k : t.OnlyContexts u) : s.OnlyContexts u := by
  unfold State.OnlyContexts at *; rw [k, h]

theorem cur (h : s.OnlyContexts t) : t.cur = s.cur := by rw [h]
theorem mem (h : s.OnlyContexts t) : t.mem = s.mem := by rw [h]
theorem cores (h : s.OnlyContexts t) : t.cores = s.cores := by rw [h]
theorem jobs (h : s.OnlyContexts t) : t.jobs = s.jobs := by rw [h]
theorem towers (h : s.OnlyContexts t) : t.towers = s.towers := by rw [h]
theorem tlb (h : s.OnlyContexts t) : t.tlb = s.tlb := by rw [h]
theorem sent (h : s.OnlyContexts t) : t.sent = s.sent := by rw [h]

end State.OnlyContexts

theorem State.modTeam_only (s : State) (t : Nat) (f : Team → Team) : s.OnlyContexts (s.modTeam t f) := by
  unfold State.modTeam; split <;> rfl

theorem State.modCol_only (s : State) (c : Nat) (f : Column → Column) : s.OnlyContexts (s.modCol c f) := rfl

theorem State.modHost_only (s : State) (c : Nat) (f : HostCore → HostCore) : s.OnlyContexts (s.modHost c f) := rfl

theorem State.modGroup_only (s : State) (t g : Nat) (f : Group → Group) : s.OnlyContexts (s.modGroup t g f) :=
  s.modTeam_only t _

theorem State.modSplit_only (s : State) (t g p : Nat) (f : Split → Split) : s.OnlyContexts (s.modSplit t g p f) :=
  s.modTeam_only t _

theorem State.modSeq_only (s : State) (t : Nat) (f : Seqr → Seqr) : s.OnlyContexts (s.modSeq t f) :=
  s.modTeam_only t _

/-! ### Updates of a context -/

theorem State.setPc_only (s : State) (c : Ctx) (pc : Addr) : s.OnlyContexts (s.setPc c pc) := by
  cases c with
  | group t g p => exact s.modSplit_only t g p _
  | seq t => exact s.modSeq_only t _
  | host c => rfl

theorem State.setWait_only (s : State) (c : Ctx) (w : Wait) : s.OnlyContexts (s.setWait c w) := by
  cases c with
  | group t g p => exact s.modSplit_only t g p _
  | seq t => exact s.modSeq_only t _
  | host c => rfl

theorem State.modMyGroup_only (s : State) (f : Group → Group) : s.OnlyContexts (s.modMyGroup f) := by
  unfold State.modMyGroup
  split
  · exact s.modGroup_only _ _ f
  · rfl

theorem State.modK_only (s : State) (c : Ctx) (f : KFile → KFile) : s.OnlyContexts (s.modK c f) := by
  cases c with
  | group t g p => exact s.modGroup_only t g _
  | seq t => exact s.modSeq_only t _
  | host c => rfl

theorem State.setK_only (s : State) (c : Ctx) (n : Nat) (x : DWord) : s.OnlyContexts (s.setK c n x) := s.modK_only c _

theorem State.setS_only (s : State) (c : Ctx) (n : Nat) (x : DWord) : s.OnlyContexts (s.setS c n x) := by
  cases c with
  | group t g p => rfl
  | seq t => exact s.modSeq_only t _
  | host c => rfl

theorem State.modRegs_only (s : State) (c : Ctx) (f : Regs → Regs) : s.OnlyContexts (s.modRegs c f) := by
  cases c with
  | group t g p => exact s.modGroup_only t g _
  | seq t => exact s.modSeq_only t _
  | host c => rfl

theorem State.setPred_only (s : State) (n : Nat) (f : Nat → Bool) : s.OnlyContexts (s.setPred n f) := by
  unfold State.setPred
  split
  · rfl
  · split
    · exact s.modGroup_only _ _ _
    · exact s.modSeq_only _ _
    · rfl

theorem State.advanceOf_only (s : State) (c : Ctx) : s.OnlyContexts (s.advanceOf c) := by
  cases c with
  | group t g p => exact s.modSplit_only t g p _
  | seq t => exact s.modSeq_only t _
  | host c => rfl

theorem State.advance_only (s : State) : s.OnlyContexts s.advance := s.advanceOf_only s.cur

theorem State.parkOn_only (s : State) (c : Ctx) (hold : Bool) (col id va : Nat) : s.OnlyContexts (s.parkOn c hold col id va) := by
  cases c with
  | group t g p => exact (s.setWait_only _ _).trans (State.modGroup_only _ t g _)
  | seq t => exact s.modSeq_only t _
  | host c => rfl

theorem State.raiseFlags_only (s : State) (w : Word) : s.OnlyContexts (s.raiseFlags w) := by
  unfold State.raiseFlags; split
  · rfl
  · exact s.modRegs_only _ _

/-- A wider write to a register that is no queue port: its context alone changes. -/
theorem State.writeOpd_only (s : State) (o : Opd) (f : Lanes) (h : ∀ n, s.cls o ≠ .q n) : s.OnlyContexts (s.writeOpd o f) := by
  have rows (l : List Nat) (u : State) (g : State → Nat → Group → Group) :
      u.OnlyContexts (l.foldl (fun s i => s.modMyGroup (g s i)) u) := by
    induction l generalizing u with
    | nil => rfl
    | cons i l ih => exact (u.modMyGroup_only _).trans (ih _)
  unfold State.writeOpd
  simp only
  split
  · exact rows _ s _
  · split
    · exact (s.setK_only _ _ _).trans (State.setK_only _ _ _ _)
    · exact s.setK_only _ _ _
  · split
    · exact (s.setS_only _ _ _).trans (State.setS_only _ _ _ _)
    · exact s.setS_only _ _ _
  · next n e => exact absurd e (h n)
  · rfl

/-! ### The end of an instruction -/

/-- Every way in which an instruction ends with a next state. -/
theorem conclude_next {s t : State} {r : Res} (h : conclude s r = .next t) :
    r = .ok t ∨ (∃ cause info lane, r = .error (.trap cause info lane) ∧ t = s.raise cause info lane) ∨
    (∃ w, r = .error (.wait w) ∧ t = s.setWait s.cur w) ∨ (r = .error .stall ∧ t = s.setWait s.cur .order) ∨
    ∃ f u count, r = .error (.page f u count) ∧ t = (s.latchPops u).faultHere f count := by
  unfold conclude at h
  split at h <;> first | cases h; simp | cases h

/-- No instruction is refused. -/
theorem conclude_not_refused (s : State) (r : Res) (x : Refusal) : conclude s r ≠ .refused x := by
  unfold conclude
  split <;> simp

@[simp] theorem conclude_ok (s t : State) : conclude s (.ok t) = .next t := rfl
@[simp] theorem conclude_trap (s : State) (cause : Nat) (info : DWord) (lane : Nat) :
    conclude s (.error (.trap cause info lane)) = .next (s.raise cause info lane) := rfl
@[simp] theorem conclude_wait (s : State) (w : Wait) : conclude s (.error (.wait w)) = .next (s.setWait s.cur w) := rfl
@[simp] theorem conclude_stall (s : State) : conclude s (.error .stall) = .next (s.setWait s.cur .order) := rfl

/-! ### Operands -/

/-- Operands that are ready are read; nothing else lets an instruction go on. -/
theorem State.operands_ok (s : State) (os : List Opd) (x : List Lanes × State) :
    s.operands os = .ok x ↔ s.ready os = .ok () ∧ x = s.readAll os := by
  unfold State.operands
  cases h : s.ready os with
  | error e => simp [bind, Except.bind]
  | ok u => simp [bind, Except.bind, eq_comm]

theorem State.operands_of_ready (s : State) (os : List Opd) (h : s.ready os = .ok ()) : s.operands os = .ok (s.readAll os) :=
  (s.operands_ok os _).2 ⟨h, rfl⟩

@[simp] theorem State.needKind_ok (s : State) (i : Instr) (ks : List Kind) :
    s.needKind i ks = .ok () ↔ ks.contains s.kind = true := by
  unfold State.needKind
  split <;> simp_all [notProvided]

@[simp] theorem State.needHost_ok (s : State) (i : Instr) (n : Nat) :
    s.needHost i n = .ok () ↔ s.kind = .host ∧ n ≤ s.ctxLevel s.cur := by
  unfold State.needHost
  split <;> [skip; split] <;> simp_all [notProvided]

/-- Reading marks registers acquired and pops ports; without a port, only contexts change. -/
theorem State.markRead_only (s : State) (o : Opd) : s.OnlyContexts (s.markRead o) := by
  unfold State.markRead
  generalize s.stateful o = l
  induction l generalizing s with
  | nil => rfl
  | cons r l ih =>
    refine State.OnlyContexts.trans ?_ (ih _)
    dsimp only
    split
    · split
      · exact s.modK_only _ _
      · exact s.modMyGroup_only _
    · rfl

theorem State.readOpd_only (s : State) (o : Opd) (h : ∀ n, s.cls o ≠ .q n) : s.OnlyContexts (s.readOpd o).2 := by
  unfold State.readOpd
  split
  · exact s.markRead_only o
  · exact s.markRead_only o
  · rfl
  · next n e => exact absurd e (h n)
  all_goals rfl

/-! ### Physical memory -/

/-- A write of bytes changes memory alone. -/
theorem State.physWrite_only (s : State) (pa : Nat) (bs : List Byte) :
    s.physWrite pa bs = { s with mem := (s.physWrite pa bs).mem } := by
  unfold State.physWrite
  split
  · rfl
  · rfl
  · split <;> rfl
  · rfl

/-! ### Homing and translation -/

/-- What homing and cached translations change: the cache, and the region table in memory (R252, R258). -/
def State.OnlyXlate (s t : State) : Prop := t = { s with tlb := t.tlb, mem := t.mem }

namespace State.OnlyXlate

variable {s t u : State}

theorem refl (s : State) : s.OnlyXlate s := rfl

theorem trans (h : s.OnlyXlate t) (k : t.OnlyXlate u) : s.OnlyXlate u := by
  unfold State.OnlyXlate at *; rw [k, h]

theorem teams (h : s.OnlyXlate t) : t.teams = s.teams := by rw [h]
theorem cols (h : s.OnlyXlate t) : t.cols = s.cols := by rw [h]
theorem cores (h : s.OnlyXlate t) : t.cores = s.cores := by rw [h]
theorem cur (h : s.OnlyXlate t) : t.cur = s.cur := by rw [h]

end State.OnlyXlate

/-- The first request for a region writes its entry in the tower's table, and no more. -/
theorem State.touch_only (s : State) (col pa : Nat) : s.OnlyXlate (s.touch col pa) := by
  unfold State.touch State.homeFor
  dsimp only
  split
  · rfl
  · split
    · rfl
    · dsimp only
      rw [State.physWrite_only]
      rfl

theorem State.touchAll_only (s : State) (col : Nat) (l : List Nat) : s.OnlyXlate (s.touchAll col l) := by
  unfold State.touchAll
  induction l generalizing s with
  | nil => rfl
  | cons x l ih => exact (s.touch_only col _).trans (ih _)

/-- A walk that ends in a translation fault homes the tables it read, and changes nothing else. -/
theorem State.homeReads_only (s : State) (f : FaultAt) : s.OnlyXlate (s.homeReads f) := s.touchAll_only f.col f.reads

/-- A translation that passes changes cached translations, and homes the tables it read. -/
theorem State.leaf_only {s t : State} {job va e l : Nat} {via : List TlbUnit} (h : s.leaf job va via = .ok (e, l, t)) :
    s.OnlyXlate t := by
  unfold State.leaf at h
  dsimp only at h
  split at h
  · cases h; rfl
  · split at h
    · cases h
    · next w k =>
        cases h
        have := State.touchAll_only s (viaCol via) w.reads
        unfold State.OnlyXlate at *
        rw [this]

theorem State.translate_only {s t : State} {r : Requester} {a : AccType} {va : Nat} {x : Xlat}
    (h : s.translate r a va = .ok (x, t)) : s.OnlyXlate t := by
  unfold State.translate at h
  split at h
  · cases h; rfl
  · split at h
    · cases h
    · next e l u k => cases h; exact State.leaf_only k

theorem State.access_only {s t : State} {r : Requester} {a : AccType} {va : Nat} {x : Xlat}
    (h : s.access r a va = .ok (x, t)) : s.OnlyXlate t := by
  unfold State.access at h
  cases k : s.translate r a va with
  | error e => simp [k, bind, Except.bind] at h
  | ok p =>
    obtain ⟨y, u⟩ := p
    simp only [k, bind, Except.bind] at h
    split at h
    · cases h
    · cases h
      split
      · exact (State.translate_only k).trans (State.touch_only _ _ _)
      · exact State.translate_only k

/-! ### Bytes -/

/-- A byte of physical memory depends on the listed byte alone. -/
theorem State.physByte_mem (s : State) (m : List Host.Cell) (k : Nat) (h : memByte k m = memByte k s.mem) :
    State.physByte { s with mem := m } k = s.physByte k := by
  have p : State.place { s with mem := m } k = s.place k := rfl
  unfold State.physByte
  simp only [p, State.isFreed, State.bootStatus, h]
  cases s.place k <;> rfl

/-- A byte outside those written reads as before. -/
theorem State.physByte_physWrite_outside (s : State) (pa k : Nat) (bs : List Byte) (hk : k < pa ∨ pa + bs.length ≤ k) :
    (s.physWrite pa bs).physByte k = s.physByte k := by
  have o := memByte_memPut_outside s.mem bs hk
  unfold State.physWrite
  split
  · rfl
  · rfl
  · split
    · rfl
    · exact s.physByte_mem _ k o
  · exact s.physByte_mem _ k o

/-! ### Fault records -/

/-- A fault is filed in the column's buffer: no other part changes, and the record number is below 256 when it is new. -/
theorem State.fileFault_only {s t : State} {c job agent core i : Nat} {asid : BitVec 16} {f : FaultAt}
    (h : s.fileFault c asid job agent core f = some (i, t)) : s.OnlyContexts t := by
  unfold State.fileFault at h
  dsimp only at h
  split at h
  · cases h; rfl
  · split at h
    · cases h
    · cases h; rfl

end Sys2Proof.Machine
end

