-- ==== Sys2Proof/Laws/Fabric.lean ====
section
/-! SUPPORT. What the sending of a message can change, and what an issue boundary of a quarter can change (R166, R285, R318,
R322). -/

namespace Sys2Proof.Machine

/-! ### Leaving by a port -/

/-- A state differs from another in what has left by the ports alone. -/
def State.OnlyWire (s t : State) : Prop := t = { s with planes := t.planes, shltx := t.shltx }

theorem State.leaveBy_onlyWire (s : State) (port : Option Nat) (id : Nat) (stwr dtwr : BitVec 3) (dst : BitVec 20)
    (h : WireHead) : s.OnlyWire (s.leaveBy port id stwr dtwr dst h) := rfl

theorem State.transmit_onlyWire (s : State) (port : Option Nat) (type : Nat) (m : Msg) :
    s.OnlyWire (s.transmit port type m) := rfl

/-- Without a port nothing leaves. -/
theorem State.leaveBy_none (s : State) (id : Nat) (stwr dtwr : BitVec 3) (dst : BitVec 20) (h : WireHead) :
    s.leaveBy none id stwr dtwr dst h = s := rfl

/-- Through a plane a flit leaves that the plane keeps under its current key; no datagram is formed. -/
theorem State.leaveBy_plane (s : State) {p : Nat} (hp : p < 32) (id : Nat) (stwr dtwr : BitVec 3) (dst : BitVec 20)
    (h : WireHead) :
    (s.leaveBy (some p) id stwr dtwr dst h).shltx = s.shltx ∧
      (tabGet Plane.reset p (s.leaveBy (some p) id stwr dtwr dst h).planes).replay =
        (tabGet Plane.reset p s.planes).replay ++ [(id, (tabGet Plane.reset p s.planes).keyId)] := by
  simp [State.leaveBy, hp, Plane.sendFlit]

/-- Through another port a datagram leaves, and no plane changes. -/
theorem State.leaveBy_datagram (s : State) {p : Nat} (hp : ¬p < 32) (id : Nat) (stwr dtwr : BitVec 3) (dst : BitVec 20)
    (h : WireHead) :
    (s.leaveBy (some p) id stwr dtwr dst h).planes = s.planes ∧
      (s.leaveBy (some p) id stwr dtwr dst h).shltx = s.shltx ++ [s.datagram p stwr dtwr dst h] := by
  simp [State.leaveBy, hp]

/-! ### Sending -/

/-- A state differs from another in what interfaces hold and count alone. -/
def State.OnlySent (s t : State) : Prop :=
  t = { s with
    fresh := t.fresh, streams := t.streams, sent := t.sent, inbound := t.inbound, planes := t.planes, shltx := t.shltx,
    jobs := t.jobs }

theorem State.send_onlySent (s : State) (m : Msg) (comp : Completion) : s.OnlySent (s.send m comp) := by
  unfold State.OnlySent State.send
  dsimp only
  split <;> rfl

namespace State.OnlySent

variable {s t : State}

theorem mem (h : s.OnlySent t) : t.mem = s.mem := by rw [h]
theorem teams (h : s.OnlySent t) : t.teams = s.teams := by rw [h]
theorem cols (h : s.OnlySent t) : t.cols = s.cols := by rw [h]
theorem cores (h : s.OnlySent t) : t.cores = s.cores := by rw [h]
theorem cur (h : s.OnlySent t) : t.cur = s.cur := by rw [h]

end State.OnlySent

/-! ### Issue boundaries -/

theorem State.refresh_only (s : State) (gs : List (Nat × Nat)) : s.OnlyContexts (s.refresh gs) := by
  unfold State.refresh
  generalize gs.map _ = fresh
  induction fresh generalizing s with
  | nil => exact .refl s
  | cons e l ih => exact (s.modGroup_only e.1.1 e.1.2 fun _ => e.2).trans (ih _)

/-- An issue boundary changes contexts alone. -/
theorem State.boundary_only (s : State) (core q : Nat) : s.OnlyContexts (s.boundary core q) := by
  have fold : ∀ (gs : List (Nat × Nat)) (u : State),
      u.OnlyContexts (gs.foldl (fun s e => s.modGroup e.1 e.2 Group.confluence) u) := by
    intro gs
    induction gs with
    | nil => exact fun u => .refl u
    | cons e l ih => exact fun u => (u.modGroup_only e.1 e.2 Group.confluence).trans (ih _)
  unfold State.boundary
  exact ((s.refresh_only _).trans (fold _ _)).trans (State.refresh_only _ _)

end Sys2Proof.Machine
end

