-- ==== Sys2Proof/Laws/Lines.lean ====
section
/-! SUPPORT. What the operations on cached lines can change: who holds a line, and nothing else; and what a write by an agent
without a cache leaves of memory (R249 to R253). -/

namespace Sys2Proof.Machine

/-- Nothing but caches, directory and what the host holds differs. -/
def State.OnlyCaches (s t : State) : Prop :=
  t = { s with cores := t.cores, cols := t.cols, directory := t.directory, pcie := t.pcie }

namespace State.OnlyCaches

variable {s t u : State}

theorem refl (s : State) : s.OnlyCaches s := rfl

theorem trans (h : s.OnlyCaches t) (k : t.OnlyCaches u) : s.OnlyCaches u := by
  unfold State.OnlyCaches at *; rw [k, h]

theorem mem (h : s.OnlyCaches t) : t.mem = s.mem := by rw [h]
theorem teams (h : s.OnlyCaches t) : t.teams = s.teams := by rw [h]
theorem jobs (h : s.OnlyCaches t) : t.jobs = s.jobs := by rw [h]
theorem cur (h : s.OnlyCaches t) : t.cur = s.cur := by rw [h]

end State.OnlyCaches

/-- A fold of operations each of which leaves all but caches alone. -/
theorem State.fold_onlyCaches {α : Type} (f : State → α → State) (hf : ∀ (s : State) x, s.OnlyCaches (f s x)) (l : List α) (s : State) :
    s.OnlyCaches (l.foldl f s) := by
  induction l generalizing s with
  | nil => rfl
  | cons x l ih => exact (hf s x).trans (ih _)

theorem State.setL1_onlyCaches (s : State) (a line : Nat) (st : Option Moesi) : s.OnlyCaches (s.setL1 a line st) := by
  unfold State.setL1 State.modL1; split <;> rfl

theorem State.modCoh_onlyCaches (s : State) (c : Nat) (f : SliceCoh → SliceCoh) : s.OnlyCaches (s.modCoh c f) := rfl

theorem State.setSnoop_onlyCaches (s : State) (c line : Nat) (x : Snoop) : s.OnlyCaches (s.setSnoop c line x) := rfl

theorem State.setTowerLine_onlyCaches (s : State) (c line : Nat) (st : Option Moesi) :
    s.OnlyCaches (s.setTowerLine c line st) := rfl

theorem State.dropTower_onlyCaches (s : State) (tower line : Nat) : s.OnlyCaches (s.dropTower tower line) := by
  unfold State.dropTower
  dsimp only
  split
  · rfl
  · rfl

theorem State.backInvalidate_onlyCaches (s : State) (line : Nat) : s.OnlyCaches (s.backInvalidate line) := rfl

theorem State.dropLine_onlyCaches (s : State) (line : Nat) : s.OnlyCaches (s.dropLine line) :=
  (State.fold_onlyCaches _ (fun s t => s.dropTower_onlyCaches t line) (upto 8) s).trans rfl

theorem State.shareTower_onlyCaches (s : State) (tower line : Nat) : s.OnlyCaches (s.shareTower tower line) := by
  unfold State.shareTower
  split
  · rfl
  · dsimp only
    refine State.OnlyCaches.trans (t := ?_) ?_ ?_
    rotate_left 2
    · split
      · exact State.OnlyCaches.refl _
      · exact State.setTowerLine_onlyCaches _ _ _ _
    · split
      · rfl
      · exact (State.setL1_onlyCaches _ _ _ _).trans (State.setSnoop_onlyCaches _ _ _ _)

theorem State.writeBackLine_onlyCaches (s : State) (c line : Nat) : s.OnlyCaches (s.writeBackLine c line) := by
  unfold State.writeBackLine
  split
  · rfl
  · dsimp only
    split
    · rfl
    · split
      · exact State.setTowerLine_onlyCaches _ _ _ _
      · exact (State.setTowerLine_onlyCaches s c line _).trans rfl

theorem State.leaveSlice_onlyCaches (s : State) (c line : Nat) : s.OnlyCaches (s.leaveSlice c line) := by
  have w := (s.writeBackLine_onlyCaches c line).trans
    (State.modCoh_onlyCaches _ c fun k => { k with data := k.data.filter (· ≠ line) })
  unfold State.leaveSlice
  dsimp only
  split
  · exact w
  · refine w.trans ?_
    split
    · exact State.setTowerLine_onlyCaches _ _ _ _
    · exact (State.setTowerLine_onlyCaches _ c line none).trans rfl

theorem State.keepData_onlyCaches (s : State) (c line : Nat) : s.OnlyCaches (s.keepData c line) := by
  unfold State.keepData
  dsimp only
  split
  · exact State.modCoh_onlyCaches _ _ _
  · exact (State.modCoh_onlyCaches s c _).trans (State.leaveSlice_onlyCaches _ _ _)

theorem State.leaveL1_onlyCaches (s : State) (a line : Nat) : s.OnlyCaches (s.leaveL1 a line) := by
  have l := s.setL1_onlyCaches a line none
  unfold State.leaveL1
  dsimp only
  split
  · exact l
  · split
    · exact (l.trans (State.setSnoop_onlyCaches _ _ _ _)).trans (State.keepData_onlyCaches _ _ _)
    · exact l.trans (State.setSnoop_onlyCaches _ _ _ _)

theorem State.trimL1_onlyCaches (s : State) (a line : Nat) : s.OnlyCaches (s.trimL1 a line) := by
  unfold State.trimL1
  split
  · rfl
  · exact State.leaveL1_onlyCaches _ _ _

theorem State.shareLine_onlyCaches (s : State) (line : Nat) : s.OnlyCaches (s.shareLine line) := by
  unfold State.shareLine
  split
  · rfl
  · split
    · rfl
    · exact (s.shareTower_onlyCaches _ _).trans rfl

theorem State.fetchLine_onlyCaches (s : State) (tower h line : Nat) : s.OnlyCaches (s.fetchLine tower h line) := by
  unfold State.fetchLine
  split
  · rfl
  · dsimp only
    split
    · rfl
    · exact (s.shareTower_onlyCaches _ _).trans rfl

theorem State.evictSnoop_onlyCaches (s : State) (c line : Nat) : s.OnlyCaches (s.evictSnoop c line) :=
  (State.fold_onlyCaches _ (fun s a => s.leaveL1_onlyCaches a line) (s.snoopOf c line).holders s).trans
    (State.setSnoop_onlyCaches _ _ _ _)

theorem State.cohOwn_onlyCaches (s : State) (a h line : Nat) (st : Moesi) : s.OnlyCaches (s.cohOwn a h line st) := by
  unfold State.cohOwn
  dsimp only
  refine State.OnlyCaches.trans ?_ (State.trimL1_onlyCaches _ a line)
  refine State.OnlyCaches.trans ?_ (State.setSnoop_onlyCaches _ h line _)
  refine State.OnlyCaches.trans ?_ (State.setTowerLine_onlyCaches _ h line _)
  refine State.OnlyCaches.trans ?_ (State.setL1_onlyCaches _ a line _)
  exact (s.dropLine_onlyCaches line).trans rfl

theorem State.cleanLine_onlyCaches (s : State) (line : Nat) : s.OnlyCaches (s.cleanLine line) := rfl

theorem State.agentRead_onlyCaches (s : State) (pa n : Nat) : s.OnlyCaches (s.agentRead pa n) :=
  State.fold_onlyCaches _ (fun s l => s.shareLine_onlyCaches l) (linesOf pa n) s

/-- Who holds lines does not change what a physical byte is. -/
theorem State.OnlyCaches.physByte {s t : State} (h : s.OnlyCaches t) (k : Nat) : t.physByte k = s.physByte k := by
  rw [h]; rfl

theorem State.countWrite_physByte (s : State) (pa n k : Nat) : (s.countWrite pa n).physByte k = s.physByte k := by
  unfold State.countWrite; split <;> rfl

/-- A write by an agent without a cache changes only the bytes it writes. -/
theorem State.physByte_agentWrite_outside (s : State) (pa k : Nat) (bs : List Byte) (hk : k < pa ∨ pa + bs.length ≤ k) :
    (s.agentWrite pa bs).physByte k = s.physByte k := by
  unfold State.agentWrite
  dsimp only
  rw [State.countWrite_physByte, State.physByte_physWrite_outside _ _ _ _ hk]
  refine State.OnlyCaches.physByte (State.fold_onlyCaches _ (fun s l => ?_) _ s) k
  by_cases h : (tabFind l s.directory).isSome = true
  · simpa [h] using s.dropLine_onlyCaches l
  · simpa [h] using s.backInvalidate_onlyCaches l

end Sys2Proof.Machine
end

