-- ==== Sys2Proof/Laws/PerInstr.lean ====
section
/-! SUPPORT. One lemma per instruction: a form without an encoding has no field that could be ill-formed. -/

namespace Sys2Proof.Laws

/-- An instruction without an encoding (an event of the opcode table) is well-formed: the field values that no instruction
has are those of encoded words. -/
def Shape.Statement (i : Instr) : Prop := encode i = none → i.wellFormed = true

theorem Shape.add (d : RegNum) (a : RegNum) (b : RegNum) (w : Bool) (s : BitVec 3) : Shape.Statement (.add d a b w s) :=
  fun h => absurd h (Option.some_ne_none _)
theorem Shape.sub (d : RegNum) (a : RegNum) (b : RegNum) (w : Bool) (s : BitVec 3) : Shape.Statement (.sub d a b w s) :=
  fun h => absurd h (Option.some_ne_none _)
theorem Shape.mul (d : RegNum) (a : RegNum) (b : RegNum) (w : Bool) : Shape.Statement (.mul d a b w) :=
  fun h => absurd h (Option.some_ne_none _)
theorem Shape.mulh (d : RegNum) (a : RegNum) (b : RegNum) (w : Bool) : Shape.Statement (.mulh d a b w) :=
  fun h => absurd h (Option.some_ne_none _)
theorem Shape.mulhU (d : RegNum) (a : RegNum) (b : RegNum) (w : Bool) : Shape.Statement (.mulhU d a b w) :=
  fun h => absurd h (Option.some_ne_none _)
theorem Shape.mad (d : RegNum) (a : RegNum) (b : RegNum) (w : Bool) : Shape.Statement (.mad d a b w) :=
  fun h => absurd h (Option.some_ne_none _)
theorem Shape.min (d : RegNum) (a : RegNum) (b : RegNum) (w : Bool) : Shape.Statement (.min d a b w) :=
  fun h => absurd h (Option.some_ne_none _)
theorem Shape.max (d : RegNum) (a : RegNum) (b : RegNum) (w : Bool) : Shape.Statement (.max d a b w) :=
  fun h => absurd h (Option.some_ne_none _)
theorem Shape.minU (d : RegNum) (a : RegNum) (b : RegNum) (w : Bool) : Shape.Statement (.minU d a b w) :=
  fun h => absurd h (Option.some_ne_none _)
theorem Shape.maxU (d : RegNum) (a : RegNum) (b : RegNum) (w : Bool) : Shape.Statement (.maxU d a b w) :=
  fun h => absurd h (Option.some_ne_none _)
theorem Shape.abs (d : RegNum) (a : RegNum) (w : Bool) : Shape.Statement (.abs d a w) :=
  fun h => absurd h (Option.some_ne_none _)
theorem Shape.popc (d : RegNum) (a : RegNum) (w : Bool) : Shape.Statement (.popc d a w) :=
  fun h => absurd h (Option.some_ne_none _)
theorem Shape.clz (d : RegNum) (a : RegNum) (w : Bool) : Shape.Statement (.clz d a w) :=
  fun h => absurd h (Option.some_ne_none _)
theorem Shape.brev (d : RegNum) (a : RegNum) (w : Bool) : Shape.Statement (.brev d a w) :=
  fun h => absurd h (Option.some_ne_none _)
theorem Shape.and (d : RegNum) (a : RegNum) (b : RegNum) (w : Bool) : Shape.Statement (.and d a b w) :=
  fun h => absurd h (Option.some_ne_none _)
theorem Shape.or (d : RegNum) (a : RegNum) (b : RegNum) (w : Bool) : Shape.Statement (.or d a b w) :=
  fun h => absurd h (Option.some_ne_none _)
theorem Shape.xor (d : RegNum) (a : RegNum) (b : RegNum) (w : Bool) : Shape.Statement (.xor d a b w) :=
  fun h => absurd h (Option.some_ne_none _)
theorem Shape.andn (d : RegNum) (a : RegNum) (b : RegNum) (w : Bool) : Shape.Statement (.andn d a b w) :=
  fun h => absurd h (Option.some_ne_none _)
theorem Shape.shl (d : RegNum) (a : RegNum) (b : RegNum) (w : Bool) : Shape.Statement (.shl d a b w) :=
  fun h => absurd h (Option.some_ne_none _)
theorem Shape.shr (d : RegNum) (a : RegNum) (b : RegNum) (w : Bool) : Shape.Statement (.shr d a b w) :=
  fun h => absurd h (Option.some_ne_none _)
theorem Shape.sar (d : RegNum) (a : RegNum) (b : RegNum) (w : Bool) : Shape.Statement (.sar d a b w) :=
  fun h => absurd h (Option.some_ne_none _)
theorem Shape.rot (d : RegNum) (a : RegNum) (b : RegNum) (w : Bool) : Shape.Statement (.rot d a b w) :=
  fun h => absurd h (Option.some_ne_none _)
theorem Shape.bfx (d : RegNum) (a : RegNum) (b : RegNum) (w : Bool) (s : Bool) : Shape.Statement (.bfx d a b w s) :=
  fun h => absurd h (Option.some_ne_none _)
theorem Shape.bfi (d : RegNum) (a : RegNum) (b : RegNum) (w : Bool) : Shape.Statement (.bfi d a b w) :=
  fun h => absurd h (Option.some_ne_none _)
theorem Shape.sel (d : RegNum) (a : RegNum) (b : RegNum) (w : Bool) (p : BitVec 3) : Shape.Statement (.sel d a b w p) :=
  fun h => absurd h (Option.some_ne_none _)
theorem Shape.cmp (p : BitVec 3) (a : RegNum) (b : RegNum) (w : Bool) (c : BitVec 3) : Shape.Statement (.cmp p a b w c) :=
  fun h => absurd h (Option.some_ne_none _)
theorem Shape.cmpU (p : BitVec 3) (a : RegNum) (b : RegNum) (w : Bool) (c : BitVec 3) : Shape.Statement (.cmpU p a b w c) :=
  fun h => absurd h (Option.some_ne_none _)
theorem Shape.lea (d : RegNum) (a : RegNum) (b : RegNum) (w : Bool) (s : BitVec 3) : Shape.Statement (.lea d a b w s) :=
  fun h => absurd h (Option.some_ne_none _)
theorem Shape.div (d : RegNum) (a : RegNum) (b : RegNum) (w : Bool) : Shape.Statement (.div d a b w) :=
  fun h => absurd h (Option.some_ne_none _)
theorem Shape.divU (d : RegNum) (a : RegNum) (b : RegNum) (w : Bool) : Shape.Statement (.divU d a b w) :=
  fun h => absurd h (Option.some_ne_none _)
theorem Shape.rem (d : RegNum) (a : RegNum) (b : RegNum) (w : Bool) : Shape.Statement (.rem d a b w) :=
  fun h => absurd h (Option.some_ne_none _)
theorem Shape.remU (d : RegNum) (a : RegNum) (b : RegNum) (w : Bool) : Shape.Statement (.remU d a b w) :=
  fun h => absurd h (Option.some_ne_none _)
theorem Shape.addi (d : RegNum) (a : RegNum) (i : BitVec 11) : Shape.Statement (.addi d a i) :=
  fun h => absurd h (Option.some_ne_none _)
theorem Shape.andi (d : RegNum) (a : RegNum) (i : BitVec 11) : Shape.Statement (.andi d a i) :=
  fun h => absurd h (Option.some_ne_none _)
theorem Shape.ori (d : RegNum) (a : RegNum) (i : BitVec 11) : Shape.Statement (.ori d a i) :=
  fun h => absurd h (Option.some_ne_none _)
theorem Shape.xori (d : RegNum) (a : RegNum) (i : BitVec 11) : Shape.Statement (.xori d a i) :=
  fun h => absurd h (Option.some_ne_none _)
theorem Shape.shli (d : RegNum) (a : RegNum) (n : BitVec 6) : Shape.Statement (.shli d a n) :=
  fun h => absurd h (Option.some_ne_none _)
theorem Shape.movi (d : RegNum) (i : BitVec 18) : Shape.Statement (.movi d i) :=
  fun h => absurd h (Option.some_ne_none _)
theorem Shape.movh (d : RegNum) (i : BitVec 18) : Shape.Statement (.movh d i) :=
  fun h => absurd h (Option.some_ne_none _)
theorem Shape.br (o : BitVec 21) : Shape.Statement (.br o) :=
  fun h => absurd h (Option.some_ne_none _)
theorem Shape.bp (n : Bool) (p : BitVec 3) (o : BitVec 21) : Shape.Statement (.bp n p o) :=
  fun h => absurd h (Option.some_ne_none _)
theorem Shape.call (o : BitVec 21) : Shape.Statement (.call o) :=
  fun h => absurd h (Option.some_ne_none _)
theorem Shape.jr (a : RegNum) : Shape.Statement (.jr a) :=
  fun h => absurd h (Option.some_ne_none _)
theorem Shape.ret : Shape.Statement (.ret) :=
  fun h => absurd h (Option.some_ne_none _)
theorem Shape.loop (a : RegNum) (l : BitVec 8) : Shape.Statement (.loop a l) :=
  fun h => absurd h (Option.some_ne_none _)
theorem Shape.loopI (n : BitVec 10) (l : BitVec 8) : Shape.Statement (.loopI n l) :=
  fun h => absurd h (Option.some_ne_none _)
theorem Shape.exit : Shape.Statement (.exit) :=
  fun h => absurd h (Option.some_ne_none _)
theorem Shape.brk (c : BitVec 21) : Shape.Statement (.brk c) :=
  fun h => absurd h (Option.some_ne_none _)
theorem Shape.trap (c : BitVec 21) : Shape.Statement (.trap c) :=
  fun h => absurd h (Option.some_ne_none _)
theorem Shape.fadd (d : RegNum) (a : RegNum) (b : RegNum) (s : Bool) (r : BitVec 2) : Shape.Statement (.fadd d a b s r) :=
  fun h => absurd h (Option.some_ne_none _)
theorem Shape.fsub (d : RegNum) (a : RegNum) (b : RegNum) (s : Bool) (r : BitVec 2) : Shape.Statement (.fsub d a b s r) :=
  fun h => absurd h (Option.some_ne_none _)
theorem Shape.fmul (d : RegNum) (a : RegNum) (b : RegNum) (s : Bool) (r : BitVec 2) : Shape.Statement (.fmul d a b s r) :=
  fun h => absurd h (Option.some_ne_none _)
theorem Shape.fma (d : RegNum) (a : RegNum) (b : RegNum) (s : Bool) (r : BitVec 2) : Shape.Statement (.fma d a b s r) :=
  fun h => absurd h (Option.some_ne_none _)
theorem Shape.fmin (d : RegNum) (a : RegNum) (b : RegNum) : Shape.Statement (.fmin d a b) :=
  fun h => absurd h (Option.some_ne_none _)
theorem Shape.fmax (d : RegNum) (a : RegNum) (b : RegNum) : Shape.Statement (.fmax d a b) :=
  fun h => absurd h (Option.some_ne_none _)
theorem Shape.fcmp (p : BitVec 3) (a : RegNum) (b : RegNum) (c : BitVec 3) : Shape.Statement (.fcmp p a b c) :=
  fun h => absurd h (Option.some_ne_none _)
theorem Shape.fdiv (d : RegNum) (a : RegNum) (b : RegNum) (s : Bool) (r : BitVec 2) : Shape.Statement (.fdiv d a b s r) :=
  fun h => absurd h (Option.some_ne_none _)
theorem Shape.fsqrt (d : RegNum) (a : RegNum) (s : Bool) (r : BitVec 2) : Shape.Statement (.fsqrt d a s r) :=
  fun h => absurd h (Option.some_ne_none _)
theorem Shape.frcp (d : RegNum) (a : RegNum) (s : Bool) (r : BitVec 2) : Shape.Statement (.frcp d a s r) :=
  fun h => absurd h (Option.some_ne_none _)
theorem Shape.hadd2 (d : RegNum) (a : RegNum) (b : RegNum) (k : Bool) (s : Bool) (r : BitVec 2) : Shape.Statement (.hadd2 d a b k s r) :=
  fun h => absurd h (Option.some_ne_none _)
theorem Shape.hmul2 (d : RegNum) (a : RegNum) (b : RegNum) (k : Bool) (s : Bool) (r : BitVec 2) : Shape.Statement (.hmul2 d a b k s r) :=
  fun h => absurd h (Option.some_ne_none _)
theorem Shape.hfma2 (d : RegNum) (a : RegNum) (b : RegNum) (k : Bool) (s : Bool) (r : BitVec 2) : Shape.Statement (.hfma2 d a b k s r) :=
  fun h => absurd h (Option.some_ne_none _)
theorem Shape.cvt (d : RegNum) (a : RegNum) (t : BitVec 4) (e : BitVec 4) (s : Bool) (r : BitVec 2) : Shape.Statement (.cvt d a t e s r) :=
  fun h => absurd h (Option.some_ne_none _)
theorem Shape.cvts (d : RegNum) (a : RegNum) (b : RegNum) (x : Bool) (s : Bool) (r : BitVec 2) : Shape.Statement (.cvts d a b x s r) :=
  fun h => absurd h (Option.some_ne_none _)
theorem Shape.fexp2 (d : RegNum) (a : RegNum) : Shape.Statement (.fexp2 d a) :=
  fun h => absurd h (Option.some_ne_none _)
theorem Shape.flog2 (d : RegNum) (a : RegNum) : Shape.Statement (.flog2 d a) :=
  fun h => absurd h (Option.some_ne_none _)
theorem Shape.fsin (d : RegNum) (a : RegNum) : Shape.Statement (.fsin d a) :=
  fun h => absurd h (Option.some_ne_none _)
theorem Shape.fcos (d : RegNum) (a : RegNum) : Shape.Statement (.fcos d a) :=
  fun h => absurd h (Option.some_ne_none _)
theorem Shape.ftanh (d : RegNum) (a : RegNum) : Shape.Statement (.ftanh d a) :=
  fun h => absurd h (Option.some_ne_none _)
theorem Shape.fsig (d : RegNum) (a : RegNum) : Shape.Statement (.fsig d a) :=
  fun h => absurd h (Option.some_ne_none _)
theorem Shape.frsq (d : RegNum) (a : RegNum) : Shape.Statement (.frsq d a) :=
  fun h => absurd h (Option.some_ne_none _)
theorem Shape.fexp2Bf (d : RegNum) (a : RegNum) : Shape.Statement (.fexp2Bf d a) :=
  fun h => absurd h (Option.some_ne_none _)
theorem Shape.flog2Bf (d : RegNum) (a : RegNum) : Shape.Statement (.flog2Bf d a) :=
  fun h => absurd h (Option.some_ne_none _)
theorem Shape.fsinBf (d : RegNum) (a : RegNum) : Shape.Statement (.fsinBf d a) :=
  fun h => absurd h (Option.some_ne_none _)
theorem Shape.fcosBf (d : RegNum) (a : RegNum) : Shape.Statement (.fcosBf d a) :=
  fun h => absurd h (Option.some_ne_none _)
theorem Shape.ftanhBf (d : RegNum) (a : RegNum) : Shape.Statement (.ftanhBf d a) :=
  fun h => absurd h (Option.some_ne_none _)
theorem Shape.fsigBf (d : RegNum) (a : RegNum) : Shape.Statement (.fsigBf d a) :=
  fun h => absurd h (Option.some_ne_none _)
theorem Shape.frsqBf (d : RegNum) (a : RegNum) : Shape.Statement (.frsqBf d a) :=
  fun h => absurd h (Option.some_ne_none _)
theorem Shape.fexp2Hf (d : RegNum) (a : RegNum) : Shape.Statement (.fexp2Hf d a) :=
  fun h => absurd h (Option.some_ne_none _)
theorem Shape.flog2Hf (d : RegNum) (a : RegNum) : Shape.Statement (.flog2Hf d a) :=
  fun h => absurd h (Option.some_ne_none _)
theorem Shape.fsinHf (d : RegNum) (a : RegNum) : Shape.Statement (.fsinHf d a) :=
  fun h => absurd h (Option.some_ne_none _)
theorem Shape.fcosHf (d : RegNum) (a : RegNum) : Shape.Statement (.fcosHf d a) :=
  fun h => absurd h (Option.some_ne_none _)
theorem Shape.ftanhHf (d : RegNum) (a : RegNum) : Shape.Statement (.ftanhHf d a) :=
  fun h => absurd h (Option.some_ne_none _)
theorem Shape.fsigHf (d : RegNum) (a : RegNum) : Shape.Statement (.fsigHf d a) :=
  fun h => absurd h (Option.some_ne_none _)
theorem Shape.frsqHf (d : RegNum) (a : RegNum) : Shape.Statement (.frsqHf d a) :=
  fun h => absurd h (Option.some_ne_none _)
theorem Shape.tbl (d : RegNum) (a : RegNum) (f : BitVec 2) : Shape.Statement (.tbl d a f) :=
  fun h => absurd h (Option.some_ne_none _)
theorem Shape.tblld (a : RegNum) (b : RegNum) : Shape.Statement (.tblld a b) :=
  fun h => absurd h (Option.some_ne_none _)
theorem Shape.tblsw : Shape.Statement (.tblsw) :=
  fun h => absurd h (Option.some_ne_none _)
theorem Shape.vote (d : RegNum) (p : BitVec 3) (k : BitVec 4) : Shape.Statement (.vote d p k) :=
  fun h => absurd h (Option.some_ne_none _)
theorem Shape.shfl (d : RegNum) (a : RegNum) (b : RegNum) (k : BitVec 4) : Shape.Statement (.shfl d a b k) :=
  fun h => absurd h (Option.some_ne_none _)
theorem Shape.red (d : RegNum) (a : RegNum) (o : BitVec 3) : Shape.Statement (.red d a o) :=
  fun h => absurd h (Option.some_ne_none _)
theorem Shape.scan (d : RegNum) (a : RegNum) (x : Bool) (o : BitVec 3) : Shape.Statement (.scan d a x o) :=
  fun h => absurd h (Option.some_ne_none _)
theorem Shape.part (n : BitVec 3) : Shape.Statement (.part n) :=
  fun h => absurd h (Option.some_ne_none _)
theorem Shape.lmask (d : RegNum) : Shape.Statement (.lmask d) :=
  fun h => absurd h (Option.some_ne_none _)
theorem Shape.pand (d : BitVec 3) (a : BitVec 3) (b : BitVec 3) : Shape.Statement (.pand d a b) :=
  fun h => absurd h (Option.some_ne_none _)
theorem Shape.por (d : BitVec 3) (a : BitVec 3) (b : BitVec 3) : Shape.Statement (.por d a b) :=
  fun h => absurd h (Option.some_ne_none _)
theorem Shape.pxor (d : BitVec 3) (a : BitVec 3) (b : BitVec 3) : Shape.Statement (.pxor d a b) :=
  fun h => absurd h (Option.some_ne_none _)
theorem Shape.pnot (d : BitVec 3) (a : BitVec 3) : Shape.Statement (.pnot d a) :=
  fun h => absurd h (Option.some_ne_none _)
theorem Shape.ld (d : RegNum) (a : RegNum) (z : BitVec 3) (o : BitVec 8) : Shape.Statement (.ld d a z o) :=
  fun h => absurd h (Option.some_ne_none _)
theorem Shape.st (d : RegNum) (a : RegNum) (z : BitVec 3) (o : BitVec 8) : Shape.Statement (.st d a z o) :=
  fun h => absurd h (Option.some_ne_none _)
theorem Shape.ldAcq (d : RegNum) (a : RegNum) (z : BitVec 3) (c : BitVec 3) : Shape.Statement (.ldAcq d a z c) :=
  fun h => absurd h (Option.some_ne_none _)
theorem Shape.ldSc (d : RegNum) (a : RegNum) (z : BitVec 3) (c : BitVec 3) : Shape.Statement (.ldSc d a z c) :=
  fun h => absurd h (Option.some_ne_none _)
theorem Shape.stRel (d : RegNum) (a : RegNum) (z : BitVec 3) (c : BitVec 3) : Shape.Statement (.stRel d a z c) :=
  fun h => absurd h (Option.some_ne_none _)
theorem Shape.stSc (d : RegNum) (a : RegNum) (z : BitVec 3) (c : BitVec 3) : Shape.Statement (.stSc d a z c) :=
  fun h => absurd h (Option.some_ne_none _)
theorem Shape.ldt (d : RegNum) (a : RegNum) (b : RegNum) (x : Bool) : Shape.Statement (.ldt d a b x) :=
  fun h => absurd h (Option.some_ne_none _)
theorem Shape.ldro (d : RegNum) (a : RegNum) (z : BitVec 3) (o : BitVec 8) : Shape.Statement (.ldro d a z o) :=
  fun h => absurd h (Option.some_ne_none _)
theorem Shape.ldv (d : RegNum) (a : RegNum) (z : BitVec 3) (o : BitVec 8) : Shape.Statement (.ldv d a z o) :=
  fun h => absurd h (Option.some_ne_none _)
theorem Shape.stv (d : RegNum) (a : RegNum) (z : BitVec 3) (o : BitVec 8) : Shape.Statement (.stv d a z o) :=
  fun h => absurd h (Option.some_ne_none _)
theorem Shape.stvG (d : RegNum) (a : RegNum) (b : RegNum) (z : BitVec 3) : Shape.Statement (.stvG d a b z) :=
  fun h => absurd h (Option.some_ne_none _)
theorem Shape.pf (l : BitVec 2) (a : RegNum) (i : BitVec 11) : Shape.Statement (.pf l a i) :=
  fun h => absurd h (Option.some_ne_none _)
theorem Shape.cctl (a : RegNum) (o : BitVec 4) : Shape.Statement (.cctl a o) :=
  fun h => absurd h (Option.some_ne_none _)
theorem Shape.fence (o : BitVec 4) (x : Bool) (c : BitVec 3) : Shape.Statement (.fence o x c) :=
  fun h => absurd h (Option.some_ne_none _)
theorem Shape.waitc (l : BitVec 6) (s : BitVec 6) : Shape.Statement (.waitc l s) :=
  fun h => absurd h (Option.some_ne_none _)
theorem Shape.atom (d : RegNum) (a : RegNum) (b : RegNum) (o : BitVec 4) : Shape.Statement (.atom d a b o) :=
  fun h => absurd h (Option.some_ne_none _)
theorem Shape.atomD (d : RegNum) (a : RegNum) (b : RegNum) (o : BitVec 4) : Shape.Statement (.atomD d a b o) :=
  fun h => absurd h (Option.some_ne_none _)
theorem Shape.atomp (d : RegNum) (a : RegNum) (b : RegNum) (o : BitVec 4) : Shape.Statement (.atomp d a b o) :=
  fun h => absurd h (Option.some_ne_none _)
theorem Shape.atompD (d : RegNum) (a : RegNum) (b : RegNum) (o : BitVec 4) : Shape.Statement (.atompD d a b o) :=
  fun h => absurd h (Option.some_ne_none _)
theorem Shape.ldp (d : RegNum) (a : RegNum) (z : BitVec 3) (o : BitVec 8) : Shape.Statement (.ldp d a z o) :=
  fun h => absurd h (Option.some_ne_none _)
theorem Shape.stp (d : RegNum) (a : RegNum) (z : BitVec 3) (o : BitVec 8) : Shape.Statement (.stp d a z o) :=
  fun h => absurd h (Option.some_ne_none _)
theorem Shape.rput (n : BitVec 4) (t : BitVec 3) (a : RegNum) (b : RegNum) (x : Bool) (y : Bool) (z : Bool) : Shape.Statement (.rput n t a b x y z) :=
  fun h => absurd h (Option.some_ne_none _)
theorem Shape.rputG (n : BitVec 4) (t : BitVec 3) (a : RegNum) (b : RegNum) (x : Bool) (y : Bool) (z : Bool) : Shape.Statement (.rputG n t a b x y z) :=
  fun h => absurd h (Option.some_ne_none _)
theorem Shape.arm (d : RegNum) (q : Bool) (n : BitVec 5) : Shape.Statement (.arm d q n) :=
  fun h => absurd h (Option.some_ne_none _)
theorem Shape.disarm (d : RegNum) (n : BitVec 5) : Shape.Statement (.disarm d n) :=
  fun h => absurd h (Option.some_ne_none _)
theorem Shape.msgs (d : RegNum) (a : RegNum) (b : RegNum) (t : BitVec 3) : Shape.Statement (.msgs d a b t) :=
  fun h => absurd h (Option.some_ne_none _)
theorem Shape.capmk (d : RegNum) (a : RegNum) : Shape.Statement (.capmk d a) :=
  fun h => absurd h (Option.some_ne_none _)
theorem Shape.capck (d : RegNum) (a : RegNum) : Shape.Statement (.capck d a) :=
  fun h => absurd h (Option.some_ne_none _)
theorem Shape.msgd : Shape.Statement (.msgd) :=
  fun h => absurd h (Option.some_ne_none _)
theorem Shape.waitq (d : RegNum) : Shape.Statement (.waitq d) :=
  fun h => absurd h (Option.some_ne_none _)
theorem Shape.barInit (a : RegNum) (n : BitVec 8) : Shape.Statement (.barInit a n) :=
  fun h => absurd h (Option.some_ne_none _)
theorem Shape.barArv (n : BitVec 8) : Shape.Statement (.barArv n) :=
  fun h => absurd h (Option.some_ne_none _)
theorem Shape.barWait (n : BitVec 8) : Shape.Statement (.barWait n) :=
  fun h => absurd h (Option.some_ne_none _)
theorem Shape.barRarv (a : RegNum) (t : BitVec 3) : Shape.Statement (.barRarv a t) :=
  fun h => absurd h (Option.some_ne_none _)
theorem Shape.gset (d : RegNum) (a : RegNum) (b : RegNum) : Shape.Statement (.gset d a b) :=
  fun h => absurd h (Option.some_ne_none _)
theorem Shape.gwait (d : RegNum) (a : RegNum) (b : RegNum) (k : Bool) (q : Bool) : Shape.Statement (.gwait d a b k q) :=
  fun h => absurd h (Option.some_ne_none _)
theorem Shape.waitk (m : BitVec 8) : Shape.Statement (.waitk m) :=
  fun h => absurd h (Option.some_ne_none _)
theorem Shape.mma (d : RegNum) (a : RegNum) (b : RegNum) (f : BitVec 3) : Shape.Statement (.mma d a b f) :=
  fun h => absurd h (Option.some_ne_none _)
theorem Shape.chb (t : BitVec 3) : Shape.Statement (.chb t) :=
  fun h => absurd h (Option.some_ne_none _)
theorem Shape.che (t : BitVec 3) : Shape.Statement (.che t) :=
  fun h => absurd h (Option.some_ne_none _)
theorem Shape.scs (n : BitVec 3) (a : RegNum) : Shape.Statement (.scs n a) :=
  fun h => absurd h (Option.some_ne_none _)
theorem Shape.acal (d : RegNum) (a : RegNum) : Shape.Statement (.acal d a) :=
  fun h => absurd h (Option.some_ne_none _)
theorem Shape.acfr (a : RegNum) : Shape.Statement (.acfr a) :=
  fun h => absurd h (Option.some_ne_none _)
theorem Shape.acrd (d : RegNum) (a : RegNum) (b : RegNum) : Shape.Statement (.acrd d a b) :=
  fun h => absurd h (Option.some_ne_none _)
theorem Shape.acwr (a : RegNum) (b : RegNum) : Shape.Statement (.acwr a b) :=
  fun h => absurd h (Option.some_ne_none _)
theorem Shape.acz (a : RegNum) : Shape.Statement (.acz a) :=
  fun h => absurd h (Option.some_ne_none _)
theorem Shape.aud (a : RegNum) : Shape.Statement (.aud a) :=
  fun h => absurd h (Option.some_ne_none _)
theorem Shape.tcopy : Shape.Statement (.tcopy) :=
  fun h => absurd h (Option.some_ne_none _)
theorem Shape.pipe (x : BitVec 5) (n : BitVec 5) : Shape.Statement (.pipe x n) :=
  fun h => absurd h (Option.some_ne_none _)
theorem Shape.fork (d : RegNum) (i : BitVec 18) : Shape.Statement (.fork d i) :=
  fun h => absurd h (Option.some_ne_none _)
theorem Shape.join : Shape.Statement (.join) :=
  fun h => absurd h (Option.some_ne_none _)
theorem Shape.rdv : Shape.Statement (.rdv) :=
  fun h => absurd h (Option.some_ne_none _)
theorem Shape.launch (a : RegNum) : Shape.Statement (.launch a) :=
  fun h => absurd h (Option.some_ne_none _)
theorem Shape.nvsub (d : RegNum) (a : RegNum) (b : RegNum) (r : Bool) : Shape.Statement (.nvsub d a b r) :=
  fun h => absurd h (Option.some_ne_none _)
theorem Shape.nvwait (d : RegNum) (a : RegNum) (q : Bool) : Shape.Statement (.nvwait d a q) :=
  fun h => absurd h (Option.some_ne_none _)
theorem Shape.movs (d : RegNum) (x : Bool) (s : BitVec 7) : Shape.Statement (.movs d x s) :=
  fun h => absurd h (Option.some_ne_none _)
theorem Shape.movsWrite (d : RegNum) (x : Bool) (s : BitVec 7) : Shape.Statement (.movsWrite d x s) :=
  fun h => absurd h (Option.some_ne_none _)
theorem Shape.winb (w : BitVec 5) : Shape.Statement (.winb w) :=
  fun h => absurd h (Option.some_ne_none _)
theorem Shape.sysr (d : RegNum) (n : BitVec 11) : Shape.Statement (.sysr d n) :=
  fun h => absurd h (Option.some_ne_none _)
theorem Shape.sysw (d : RegNum) (n : BitVec 11) : Shape.Statement (.sysw d n) :=
  fun h => absurd h (Option.some_ne_none _)
theorem Shape.eret : Shape.Statement (.eret) :=
  fun h => absurd h (Option.some_ne_none _)
theorem Shape.wfi : Shape.Statement (.wfi) :=
  fun h => absurd h (Option.some_ne_none _)
theorem Shape.halt : Shape.Statement (.halt) :=
  fun h => absurd h (Option.some_ne_none _)
theorem Shape.tlbi (a : RegNum) (b : RegNum) (k : BitVec 4) : Shape.Statement (.tlbi a b k) :=
  fun h => absurd h (Option.some_ne_none _)
theorem Shape.preempt (d : RegNum) (a : RegNum) (k : BitVec 2) : Shape.Statement (.preempt d a k) :=
  fun h => absurd h (Option.some_ne_none _)
theorem Shape.resume (d : RegNum) (a : RegNum) : Shape.Statement (.resume d a) :=
  fun h => absurd h (Option.some_ne_none _)
theorem Shape.mfree (a : RegNum) (b : RegNum) : Shape.Statement (.mfree a b) :=
  fun h => absurd h (Option.some_ne_none _)
theorem Shape.mused (a : RegNum) (b : RegNum) : Shape.Statement (.mused a b) :=
  fun h => absurd h (Option.some_ne_none _)
theorem Shape.rgrel (a : RegNum) (b : RegNum) : Shape.Statement (.rgrel a b) :=
  fun h => absurd h (Option.some_ne_none _)
theorem Shape.loadReturn (c : Ctx) (n : Nat) : Shape.Statement (.loadReturn c n) :=
  fun _ => rfl
theorem Shape.storePerformed (c : Ctx) (n : Nat) : Shape.Statement (.storePerformed c n) :=
  fun _ => rfl
theorem Shape.atomicReturn (c : Ctx) (n : Nat) : Shape.Statement (.atomicReturn c n) :=
  fun _ => rfl
theorem Shape.memoryPoison (c : Ctx) : Shape.Statement (.memoryPoison c) :=
  fun _ => rfl
theorem Shape.overwrite (team g : Nat) : Shape.Statement (.overwrite team g) :=
  fun _ => rfl
theorem Shape.homeRequest (core line : Nat) (write : Bool) : Shape.Statement (.homeRequest core line write) :=
  fun _ => rfl
theorem Shape.writeBack (col line : Nat) : Shape.Statement (.writeBack col line) :=
  fun _ => rfl
theorem Shape.snoopFilterEviction (col line : Nat) : Shape.Statement (.snoopFilterEviction col line) :=
  fun _ => rfl
theorem Shape.putArrival (n : Nat) : Shape.Statement (.putArrival n) :=
  fun _ => rfl
theorem Shape.rputGArrival (n : Nat) : Shape.Statement (.rputGArrival n) :=
  fun _ => rfl
theorem Shape.barrierArrival (n : Nat) : Shape.Statement (.barrierArrival n) :=
  fun _ => rfl
theorem Shape.messageArrival (n : Nat) : Shape.Statement (.messageArrival n) :=
  fun _ => rfl
theorem Shape.stpArrival (n : Nat) : Shape.Statement (.stpArrival n) :=
  fun _ => rfl
theorem Shape.atompArrival (n : Nat) : Shape.Statement (.atompArrival n) :=
  fun _ => rfl
theorem Shape.ldpArrival (n : Nat) : Shape.Statement (.ldpArrival n) :=
  fun _ => rfl
theorem Shape.tcopyChunkArrival (n : Nat) : Shape.Statement (.tcopyChunkArrival n) :=
  fun _ => rfl
theorem Shape.messageAck (n : Nat) : Shape.Statement (.messageAck n) :=
  fun _ => rfl
theorem Shape.retransmit (n : Nat) : Shape.Statement (.retransmit n) :=
  fun _ => rfl
theorem Shape.writeoff (n : Nat) : Shape.Statement (.writeoff n) :=
  fun _ => rfl
theorem Shape.writeoffArrival (n : Nat) : Shape.Statement (.writeoffArrival n) :=
  fun _ => rfl
theorem Shape.writeoffAnswer (n : Nat) : Shape.Statement (.writeoffAnswer n) :=
  fun _ => rfl
theorem Shape.peerWriteoff (n : Nat) : Shape.Statement (.peerWriteoff n) :=
  fun _ => rfl
theorem Shape.redirect (n : Nat) : Shape.Statement (.redirect n) :=
  fun _ => rfl
theorem Shape.retranslate (n : Nat) : Shape.Statement (.retranslate n) :=
  fun _ => rfl
theorem Shape.translationInvalidation (n : Nat) : Shape.Statement (.translationInvalidation n) :=
  fun _ => rfl
theorem Shape.wavePassStart (job : Nat) : Shape.Statement (.wavePassStart job) :=
  fun _ => rfl
theorem Shape.wave (n : Nat) : Shape.Statement (.wave n) :=
  fun _ => rfl
theorem Shape.reply (n : Nat) : Shape.Statement (.reply n) :=
  fun _ => rfl
theorem Shape.quiet (n : Nat) : Shape.Statement (.quiet n) :=
  fun _ => rfl
theorem Shape.waveResend (n : Nat) : Shape.Statement (.waveResend n) :=
  fun _ => rfl
theorem Shape.packetForward (port : Nat) : Shape.Statement (.packetForward port) :=
  fun _ => rfl
theorem Shape.packetUrgent (port n : Nat) : Shape.Statement (.packetUrgent port n) :=
  fun _ => rfl
theorem Shape.gaugeCount (n : Nat) : Shape.Statement (.gaugeCount n) :=
  fun _ => rfl
theorem Shape.notifyStore (n : Nat) : Shape.Statement (.notifyStore n) :=
  fun _ => rfl
theorem Shape.gaugeLaunchRetry (n : Nat) : Shape.Statement (.gaugeLaunchRetry n) :=
  fun _ => rfl
theorem Shape.launchLineStore (n : Nat) : Shape.Statement (.launchLineStore n) :=
  fun _ => rfl
theorem Shape.launchRecordTake (col pri : Nat) : Shape.Statement (.launchRecordTake col pri) :=
  fun _ => rfl
theorem Shape.aggregationBatchClose (col slot : Nat) : Shape.Statement (.aggregationBatchClose col slot) :=
  fun _ => rfl
theorem Shape.clusterPlace (col : Nat) (choice : List PlaceChoice) : Shape.Statement (.clusterPlace col choice) :=
  fun _ => rfl
theorem Shape.pwaitExpire (col pri : Nat) : Shape.Statement (.pwaitExpire col pri) :=
  fun _ => rfl
theorem Shape.groupUrgent (team g : Nat) : Shape.Statement (.groupUrgent team g) :=
  fun _ => rfl
theorem Shape.groupRetire (team g : Nat) : Shape.Statement (.groupRetire team g) :=
  fun _ => rfl
theorem Shape.teamRetire (team : Nat) : Shape.Statement (.teamRetire team) :=
  fun _ => rfl
theorem Shape.completionNotice (n : Nat) : Shape.Statement (.completionNotice n) :=
  fun _ => rfl
theorem Shape.watchdog (team : Nat) : Shape.Statement (.watchdog team) :=
  fun _ => rfl
theorem Shape.swapTick (team : Nat) : Shape.Statement (.swapTick team) :=
  fun _ => rfl
theorem Shape.teamHalt (team : Nat) : Shape.Statement (.teamHalt team) :=
  fun _ => rfl
theorem Shape.saveComplete (team : Nat) : Shape.Statement (.saveComplete team) :=
  fun _ => rfl
theorem Shape.kstep (core n q : Nat) : Shape.Statement (.kstep core n q) :=
  fun _ => rfl
theorem Shape.auditRecordWrite (core n : Nat) : Shape.Statement (.auditRecordWrite core n) :=
  fun _ => rfl
theorem Shape.acfrBanksFree (core n : Nat) : Shape.Statement (.acfrBanksFree core n) :=
  fun _ => rfl
theorem Shape.copyChunkComplete (core n chunk : Nat) : Shape.Statement (.copyChunkComplete core n chunk) :=
  fun _ => rfl
theorem Shape.pipeDepthAdjust (team : Nat) : Shape.Statement (.pipeDepthAdjust team) :=
  fun _ => rfl
theorem Shape.tblldFillComplete (core : Nat) : Shape.Statement (.tblldFillComplete core) :=
  fun _ => rfl
theorem Shape.tblDrainEnd (core : Nat) : Shape.Statement (.tblDrainEnd core) :=
  fun _ => rfl
theorem Shape.nvmeCompletion (queue : Nat) : Shape.Statement (.nvmeCompletion queue) :=
  fun _ => rfl
theorem Shape.hostTimer (col : Nat) : Shape.Statement (.hostTimer col) :=
  fun _ => rfl
theorem Shape.interruptTaken (col : Nat) : Shape.Statement (.interruptTaken col) :=
  fun _ => rfl
theorem Shape.fbactRetry (col id : Nat) : Shape.Statement (.fbactRetry col id) :=
  fun _ => rfl
theorem Shape.fbactUnservable (col id : Nat) : Shape.Statement (.fbactUnservable col id) :=
  fun _ => rfl
theorem Shape.isreq (col : Nat) (v : DWord) : Shape.Statement (.isreq col v) :=
  fun _ => rfl
theorem Shape.islandVoltageSettled (island : Nat) : Shape.Statement (.islandVoltageSettled island) :=
  fun _ => rfl
theorem Shape.islandClockRestart (island : Nat) : Shape.Statement (.islandClockRestart island) :=
  fun _ => rfl
theorem Shape.thcapWrite (col : Nat) (v : DWord) : Shape.Statement (.thcapWrite col v) :=
  fun _ => rfl
theorem Shape.activityWindowEnd (col : Nat) (meas : List Activity) : Shape.Statement (.activityWindowEnd col meas) :=
  fun _ => rfl
theorem Shape.governorSample (col : Nat) (sensors : List Nat) : Shape.Statement (.governorSample col sensors) :=
  fun _ => rfl
theorem Shape.emergencyIslandDrop (col : Nat) : Shape.Statement (.emergencyIslandDrop col) :=
  fun _ => rfl
theorem Shape.coreSleep (core : Nat) : Shape.Statement (.coreSleep core) :=
  fun _ => rfl
theorem Shape.coreWake (core : Nat) : Shape.Statement (.coreWake core) :=
  fun _ => rfl
theorem Shape.pgateGate (core : Nat) : Shape.Statement (.pgateGate core) :=
  fun _ => rfl
theorem Shape.pgateUngate (core : Nat) : Shape.Statement (.pgateUngate core) :=
  fun _ => rfl
theorem Shape.energyInterval (col e : Nat) : Shape.Statement (.energyInterval col e) :=
  fun _ => rfl
theorem Shape.budgetPeriod (col : Nat) : Shape.Statement (.budgetPeriod col) :=
  fun _ => rfl
theorem Shape.hbmTempReading (stack temp : Nat) : Shape.Statement (.hbmTempReading stack temp) :=
  fun _ => rfl
theorem Shape.thermalTrip (tower sensor : Nat) : Shape.Statement (.thermalTrip tower sensor) :=
  fun _ => rfl
theorem Shape.twrpwr (v : DWord) : Shape.Statement (.twrpwr v) :=
  fun _ => rfl
theorem Shape.rfScrub (team g row : Nat) (errs : List (Nat × ScrubResult)) : Shape.Statement (.rfScrub team g row errs) :=
  fun _ => rfl
theorem Shape.hbmScrub (line : Nat) (res : ScrubResult) : Shape.Statement (.hbmScrub line res) :=
  fun _ => rfl
theorem Shape.errorRateCheck (col : Nat) : Shape.Statement (.errorRateCheck col) :=
  fun _ => rfl
theorem Shape.columnFailure (col : Nat) : Shape.Statement (.columnFailure col) :=
  fun _ => rfl
theorem Shape.erpclr (v : DWord) : Shape.Statement (.erpclr v) :=
  fun _ => rfl
theorem Shape.erlpop (col : Nat) : Shape.Statement (.erlpop col) :=
  fun _ => rfl
theorem Shape.losspop (tower : Nat) : Shape.Statement (.losspop tower) :=
  fun _ => rfl
theorem Shape.saverel (v : DWord) : Shape.Statement (.saverel v) :=
  fun _ => rfl
theorem Shape.hbmret (v : DWord) : Shape.Statement (.hbmret v) :=
  fun _ => rfl
theorem Shape.hbmChannelMoveDone (stack : Nat) : Shape.Statement (.hbmChannelMoveDone stack) :=
  fun _ => rfl
theorem Shape.colsvcDrain (col target : Nat) (on : Bool) : Shape.Statement (.colsvcDrain col target on) :=
  fun _ => rfl
theorem Shape.colsvcReset (col target : Nat) : Shape.Statement (.colsvcReset col target) :=
  fun _ => rfl
theorem Shape.colsvcRetire (col target : Nat) : Shape.Statement (.colsvcRetire col target) :=
  fun _ => rfl
theorem Shape.colsvcLoad (col target : Nat) : Shape.Statement (.colsvcLoad col target) :=
  fun _ => rfl
theorem Shape.jobctlWrite (job : Nat) (v : DWord) : Shape.Statement (.jobctlWrite job v) :=
  fun _ => rfl
theorem Shape.jobkeyWrite (job : Nat) (hi : Bool) (v : DWord) : Shape.Statement (.jobkeyWrite job hi v) :=
  fun _ => rfl
theorem Shape.telemetryRingSet (job : Nat) (size : Bool) (v : DWord) : Shape.Statement (.telemetryRingSet job size v) :=
  fun _ => rfl
theorem Shape.wvctlWrite (job : Nat) (v : DWord) : Shape.Statement (.wvctlWrite job v) :=
  fun _ => rfl
theorem Shape.lnkdrainWrite (v : DWord) : Shape.Statement (.lnkdrainWrite v) :=
  fun _ => rfl
theorem Shape.nvqctlWrite (queue : Nat) (v : DWord) : Shape.Statement (.nvqctlWrite queue v) :=
  fun _ => rfl
theorem Shape.shlkeyWrite (pod : Nat) (v : DWord) : Shape.Statement (.shlkeyWrite pod v) :=
  fun _ => rfl
theorem Shape.shlkeyOldExpire (pod : Nat) : Shape.Statement (.shlkeyOldExpire pod) :=
  fun _ => rfl
theorem Shape.ukctlRotate (plane : Nat) : Shape.Statement (.ukctlRotate plane) :=
  fun _ => rfl
theorem Shape.keyRetire (plane : Nat) : Shape.Statement (.keyRetire plane) :=
  fun _ => rfl
theorem Shape.linkRetry (link : Nat) : Shape.Statement (.linkRetry link) :=
  fun _ => rfl
theorem Shape.linkStateChange (link : Nat) (up : Bool) : Shape.Statement (.linkStateChange link up) :=
  fun _ => rfl
theorem Shape.sahlinDatagram (dg : Datagram) : Shape.Statement (.sahlinDatagram dg) :=
  fun _ => rfl
theorem Shape.pcieInboundRequest (port : Nat) (req : PcieReq) : Shape.Statement (.pcieInboundRequest port req) :=
  fun _ => rfl
theorem Shape.spdmRequest (req : SpdmReq) : Shape.Statement (.spdmRequest req) :=
  fun _ => rfl
theorem Shape.auxPowerOn : Shape.Statement (.auxPowerOn) :=
  fun _ => rfl
theorem Shape.mainPowerOn (trained : Bool) : Shape.Statement (.mainPowerOn trained) :=
  fun _ => rfl
theorem Shape.mrstn (low : Bool) : Shape.Statement (.mrstn low) :=
  fun _ => rfl
theorem Shape.perstn (port : Nat) (low : Bool) : Shape.Statement (.perstn port low) :=
  fun _ => rfl
theorem Shape.restoreComplete (team : Nat) : Shape.Statement (.restoreComplete team) :=
  fun _ => rfl
theorem Shape.vaultSliceAccumScrub (site : ScrubSite) (res : ScrubResult) : Shape.Statement (.vaultSliceAccumScrub site res) :=
  fun _ => rfl
theorem Shape.powerRemoval (aux : Bool) : Shape.Statement (.powerRemoval aux) :=
  fun _ => rfl

end Sys2Proof.Laws
end

