-- ==== Sys2Proof/Laws/Step.lean ====
section
/-! SUPPORT. What a step is: the issue of a context, an event of the opcode table, or what the outside does. -/

namespace Sys2Proof.Machine

theorem step_nil {s : State} (h : s.agenda = []) : step s = stepIssue s := by
  unfold step; rw [h]

theorem step_issue {s : State} {c : Ctx} {rest : List Agenda} (h : s.agenda = .issue c :: rest) :
    step s = stepIssue { s with agenda := rest, cur := c } := by
  unfold step; rw [h]

theorem step_event {s : State} {i : Instr} {rest : List Agenda} (h : s.agenda = .event i :: rest) (e : isEvent i = true) :
    step s = exec i { s with agenda := rest } := by
  unfold step; rw [h]; simp [e]

theorem stepIssue_run {s u : State} {i : Instr} (h : s.prepare = .run i u) : stepIssue s = exec i u := by
  unfold stepIssue; rw [h]

theorem stepIssue_done {s : State} {o : Host.Outcome State Fault Refusal} (h : s.prepare = .done o) : stepIssue s = o := by
  unfold stepIssue; rw [h]

/-- Every next state comes from an issue, from an event, from a form that is no event at the head of the agenda (nothing
happens), or from the outside. -/
theorem step_cases {s t : State} (h : step s = .next t) :
    (s.agenda = [] ∧ stepIssue s = .next t) ∨
    (∃ c rest, s.agenda = .issue c :: rest ∧ stepIssue { s with agenda := rest, cur := c } = .next t) ∨
    (∃ i rest, s.agenda = .event i :: rest ∧ isEvent i = true ∧ exec i { s with agenda := rest } = .next t) ∨
    (∃ a rest, s.agenda = a :: rest ∧ (t = { s with agenda := rest } ∨ t = State.outside { s with agenda := rest } a)) := by
  unfold step at h
  split at h
  · next e => exact .inl ⟨e, h⟩
  · next a rest e =>
    dsimp only at h
    split at h
    · exact .inr (.inl ⟨_, rest, e, h⟩)
    · split at h
      · next k => exact .inr (.inr (.inl ⟨_, rest, e, k, h⟩))
      · cases h; exact .inr (.inr (.inr ⟨_, rest, e, .inl rfl⟩))
    · cases h; exact .inr (.inr (.inr ⟨a, rest, e, .inr rfl⟩))

end Sys2Proof.Machine
end

