-- ==== Sys2Proof/Tests/Slice0.lean ====
section
/-! SUPPORT. Tests of the model on small states, witnesses that the hypotheses of the statements can be met, the words of
the spec's encodings, and ill-formed terms that the checks refuse. Expected values are taken from the rules that the
comments name. -/

namespace Sys2Proof.Tests

open Sys2Proof Sys2Proof.Machine

-- One theorem is elaborated after the other: together they need more threads than the memory holds.
set_option Elab.async false

/-! ### Small states -/

/-- A launch record: one group of 64 registers, a vault of 8192 bytes, 4 barriers, TVEC 0x4000. -/
def launch : BitVec 512 := BitVec.ofNat 512 (0x4000 * 2 ^ 128 + (2 ^ 39 + 64 * 2 ^ 24 + 4 * 2 ^ 15) * 2 ^ 256)

/-- A group of one split at 0x1000, with a lane mask, some rows and `k` registers. -/
def aGroup (mask : Word) (rows : Tab Row) (ks : Tab DWord) (preds : Tab Word) : Group :=
  { Group.none with
    retired := false, part := 5, rows := rows, preds := preds, k := { vals := ks, states := [] }
    splits := [{ Split.none with valid := true, pc := 0x1000, mask := mask }, Split.none, Split.none, Split.none] }

/-- A resident team on core 0. -/
def aTeam (g : Group) (q : Option Seqr) : Team :=
  { Team.none with state := .resident, core := 0, launch := launch, groups := [g], seq := q }

/-- Every lane holds the same word. -/
def all (x : Word) : Row := List.replicate 32 x

/-- The state after reset with one team, whose group issues. -/
def groupState (mask : Word) (rows : Tab Row) (ks : Tab DWord) (preds : Tab Word) : State :=
  { State.reset with cur := .group 0 0 0, teams := [(0, aTeam (aGroup mask rows ks preds) none)] }

/-- The state after reset with one team, whose sequencer issues. -/
def seqState (ss ks : Tab DWord) : State :=
  { State.reset with
    cur := .seq 0
    cores := tabSet 0 { State.reset.core 0 with seqOwner := some 0 } State.reset.cores
    teams := [(0, aTeam (aGroup 1 [] [] []) (some { Seqr.none with pc := 0x2000, s := ss, k := { vals := ks, states := [] } }))] }

/-- The state after reset, whose host core 0 issues. -/
def hostState (ss ks : Tab DWord) : State :=
  ({ State.reset with cur := .host 0 }).modHost 0 fun h => { h with pc := 0x3000, s := ss, k := { vals := ks, states := [] } }

/-- The next state of an instruction, or the state itself where there is none. -/
def after (i : Instr) (s : State) : State :=
  match exec i s with
  | .next t => t
  | _ => s

/-- An outcome is a next state. -/
def isNext : Host.Outcome State Fault Refusal → Bool
  | .next _ => true
  | _ => false

/-- A result is there and has a property. -/
def okAnd {α β : Type} (x : Except α β) (p : β → Bool) : Bool :=
  match x with
  | .ok y => p y
  | .error _ => false

/-- A lane of a `v` register of group 0. -/
def vLane (s : State) (r l : Nat) : Word := laneOf ((s.group 0 0).row r) l

/-! ### Ill-formed terms: one for each check of `Instr.unassignedCode` and `Instr.outOfRange` -/

theorem test_illformed_add : (Instr.add 0 0 0 false 3 : Instr).wellFormed = false := by decide

theorem test_illformed_sub : (Instr.sub 0 0 0 true 7 : Instr).wellFormed = false := by decide

theorem test_illformed_cmp : (Instr.cmp 0 0 0 false 6 : Instr).wellFormed = false := by decide

theorem test_illformed_cmpU : (Instr.cmpU 0 0 0 false 7 : Instr).wellFormed = false := by decide

theorem test_illformed_cvt_target : (Instr.cvt 0 0 7 1 false 0 : Instr).wellFormed = false := by decide

theorem test_illformed_cvt_source : (Instr.cvt 0 0 1 11 false 0 : Instr).wellFormed = false := by decide

theorem test_illformed_tbl : (Instr.tbl 0 0 3 : Instr).wellFormed = false := by decide

theorem test_illformed_vote : (Instr.vote 0 0 5 : Instr).wellFormed = false := by decide

theorem test_illformed_shfl : (Instr.shfl 0 0 0 5 : Instr).wellFormed = false := by decide

theorem test_illformed_ld : (Instr.ld 0 0 7 0 : Instr).wellFormed = false := by decide

theorem test_illformed_ldro : (Instr.ldro 0 0 7 0 : Instr).wellFormed = false := by decide

theorem test_illformed_ldv : (Instr.ldv 0 0 7 0 : Instr).wellFormed = false := by decide

theorem test_illformed_ldp : (Instr.ldp 0 0 7 0 : Instr).wellFormed = false := by decide

theorem test_illformed_ldAcq : (Instr.ldAcq 0 0 7 0 : Instr).wellFormed = false := by decide

theorem test_illformed_ldSc : (Instr.ldSc 0 0 7 0 : Instr).wellFormed = false := by decide

theorem test_illformed_st : (Instr.st 0 0 1 0 : Instr).wellFormed = false := by decide

theorem test_illformed_stv : (Instr.stv 0 0 3 0 : Instr).wellFormed = false := by decide

theorem test_illformed_stp : (Instr.stp 0 0 7 0 : Instr).wellFormed = false := by decide

theorem test_illformed_stRel : (Instr.stRel 0 0 1 0 : Instr).wellFormed = false := by decide

theorem test_illformed_stSc : (Instr.stSc 0 0 3 0 : Instr).wellFormed = false := by decide

theorem test_illformed_stvG : (Instr.stvG 0 0 0 7 : Instr).wellFormed = false := by decide

theorem test_illformed_pf : (Instr.pf 3 0 0 : Instr).wellFormed = false := by decide

theorem test_illformed_cctl : (Instr.cctl 0 4 : Instr).wellFormed = false := by decide

theorem test_illformed_cctl_operand : (Instr.cctl 1 3 : Instr).wellFormed = false := by decide

theorem test_illformed_fence_zero : (Instr.fence 0 false 0 : Instr).wellFormed = false := by decide

theorem test_illformed_fence : (Instr.fence 5 false 0 : Instr).wellFormed = false := by decide

theorem test_illformed_atom : (Instr.atom 0 0 0 11 : Instr).wellFormed = false := by decide

theorem test_illformed_atomp : (Instr.atomp 0 0 0 15 : Instr).wellFormed = false := by decide

theorem test_illformed_atomD : (Instr.atomD 0 0 0 10 : Instr).wellFormed = false := by decide

theorem test_illformed_atompD : (Instr.atompD 0 0 0 10 : Instr).wellFormed = false := by decide

theorem test_illformed_movs : (Instr.movs 0 false 5 : Instr).wellFormed = false := by decide

theorem test_illformed_movsWrite : (Instr.movsWrite 0 false 0x2D : Instr).wellFormed = false := by decide

theorem test_illformed_tlbi : (Instr.tlbi 0 0 4 : Instr).wellFormed = false := by decide

theorem test_illformed_tlbi_all : (Instr.tlbi 0 1 0 : Instr).wellFormed = false := by decide

theorem test_illformed_tlbi_asid : (Instr.tlbi 1 0 1 : Instr).wellFormed = false := by decide

theorem test_illformed_tlbi_va : (Instr.tlbi 0 1 2 : Instr).wellFormed = false := by decide

theorem test_illformed_preempt : (Instr.preempt 0 0 3 : Instr).wellFormed = false := by decide

theorem test_illformed_part_zero : (Instr.part 0 : Instr).wellFormed = false := by decide

theorem test_illformed_part : (Instr.part 6 : Instr).wellFormed = false := by decide

theorem test_illformed_pipe_zero : (Instr.pipe 4 0 : Instr).wellFormed = false := by decide

theorem test_illformed_pipe : (Instr.pipe 4 5 : Instr).wellFormed = false := by decide

/-! ### Words of the spec's encodings, written out from the opcode table's matches and fields, one for each encoded row -/

/-- Each word decodes to its instruction. -/
def reads (ws : List (Word × Instr)) : Bool := ws.all fun e => decode e.1 == .ok e.2

theorem test_decode_integer_0 : reads [
    (0b0000001_0100011_1000010_1100010_1010, .add 35 66 98 true 2),
    (0b0000010_0100011_1000010_1100010_1001, .sub 35 66 98 true 1),
    (0b0000011_0100011_1000010_1100010_1000, .mul 35 66 98 true),
    (0b0000011_0100011_1000010_1100010_1001, .mulh 35 66 98 true),
    (0b0000011_0100011_1000010_1100010_1010, .mulhU 35 66 98 true),
    (0b0000100_0100011_1000010_1100010_1000, .mad 35 66 98 true),
    (0b0000101_0100011_1000010_1100010_1000, .min 35 66 98 true),
    (0b0000101_0100011_1000010_1100010_1001, .max 35 66 98 true),
    (0b0000101_0100011_1000010_1100010_1010, .minU 35 66 98 true),
    (0b0000101_0100011_1000010_1100010_1011, .maxU 35 66 98 true),
    (0b0000110_0100011_1000010_0000000_1000, .abs 35 66 true),
    (0b0000110_0100011_1000010_0000000_1001, .popc 35 66 true)] = true := by decide

theorem test_decode_integer_1 : reads [
    (0b0000110_0100011_1000010_0000000_1010, .clz 35 66 true),
    (0b0000110_0100011_1000010_0000000_1011, .brev 35 66 true),
    (0b0000111_0100011_1000010_1100010_1000, .and 35 66 98 true),
    (0b0000111_0100011_1000010_1100010_1001, .or 35 66 98 true),
    (0b0000111_0100011_1000010_1100010_1010, .xor 35 66 98 true),
    (0b0000111_0100011_1000010_1100010_1011, .andn 35 66 98 true),
    (0b0001000_0100011_1000010_1100010_1000, .shl 35 66 98 true),
    (0b0001000_0100011_1000010_1100010_1001, .shr 35 66 98 true),
    (0b0001000_0100011_1000010_1100010_1010, .sar 35 66 98 true),
    (0b0001000_0100011_1000010_1100010_1011, .rot 35 66 98 true),
    (0b0001001_0100011_1000010_1100010_1001, .bfx 35 66 98 true true),
    (0b0001010_0100011_1000010_1100010_1000, .bfi 35 66 98 true)] = true := by decide

theorem test_decode_integer_2 : reads [
    (0b0001011_0100011_1000010_1100010_1011, .sel 35 66 98 true 3),
    (0b0001100_0000011_1000010_1100010_1100, .cmp 3 66 98 true 4),
    (0b0001101_0000011_1000010_1100010_1101, .cmpU 3 66 98 true 5),
    (0b0001110_0100011_1000010_1100010_1100, .lea 35 66 98 true 4),
    (0b0001111_0100011_1000010_1100010_1000, .div 35 66 98 true),
    (0b0001111_0100011_1000010_1100010_1001, .divU 35 66 98 true),
    (0b0001111_0100011_1000010_1100010_1010, .rem 35 66 98 true),
    (0b0001111_0100011_1000010_1100010_1011, .remU 35 66 98 true),
    (0b0010000_0100011_1000010_0101010_1011, .addi 35 66 683),
    (0b0010001_0100011_1000010_0101010_1011, .andi 35 66 683),
    (0b0010010_0100011_1000010_0101010_1011, .ori 35 66 683),
    (0b0010011_0100011_1000010_0101010_1011, .xori 35 66 683)] = true := by decide

theorem test_decode_integer_3 : reads [
    (0b0010100_0100011_1000010_0000010_1011, .shli 35 66 43),
    (0b0010101_0100011_1010101_0101010_1011, .movi 35 174763),
    (0b0010110_0100011_1010101_0101010_1011, .movh 35 174763),
    (0b0111110_0000001_0000010_0000101_0000, .pand 1 2 5),
    (0b0111110_0000001_0000010_0000101_0001, .por 1 2 5),
    (0b0111110_0000001_0000010_0000101_0010, .pxor 1 2 5),
    (0b0111110_0000001_0000010_0000000_0011, .pnot 1 2)] = true := by decide

theorem test_decode_control_0 : reads [
    (0b0011000_0000010_1010101_0101010_1011, .br 699051),
    (0b0011001_1011010_1010101_0101010_1011, .bp true 3 699051),
    (0b0011010_0000010_1010101_0101010_1011, .call 699051),
    (0b0011011_0000000_1000010_0000000_0000, .jr 66),
    (0b0011011_0000000_0000000_0000000_0001, .ret),
    (0b0011100_0000000_1000010_0001010_1011, .loop 66 171),
    (0b0011101_0000000_1010101_0111010_1011, .loopI 683 171),
    (0b0011110_0000000_0000000_0000000_0000, .exit),
    (0b0011110_0001010_1010101_0101010_1011, .brk 699051),
    (0b0011110_0010010_1010101_0101010_1011, .trap 699051)] = true := by decide

theorem test_decode_float_0 : reads [
    (0b0100000_0100011_1000010_1100010_0110, .fadd 35 66 98 true 2),
    (0b0100001_0100011_1000010_1100010_0110, .fsub 35 66 98 true 2),
    (0b0100010_0100011_1000010_1100010_0110, .fmul 35 66 98 true 2),
    (0b0100011_0100011_1000010_1100010_0110, .fma 35 66 98 true 2),
    (0b0100100_0100011_1000010_1100010_0000, .fmin 35 66 98),
    (0b0100100_0100011_1000010_1100010_0001, .fmax 35 66 98),
    (0b0100101_0000011_1000010_1100010_0100, .fcmp 3 66 98 4),
    (0b0100110_0100011_1000010_1100010_0110, .fdiv 35 66 98 true 2),
    (0b0100111_0100011_1000010_0000000_0110, .fsqrt 35 66 true 2),
    (0b0101000_0100011_1000010_0000000_0110, .frcp 35 66 true 2),
    (0b0101001_0100011_1000010_1100010_1110, .hadd2 35 66 98 true true 2),
    (0b0101010_0100011_1000010_1100010_1110, .hmul2 35 66 98 true true 2)] = true := by decide

theorem test_decode_float_1 : reads [
    (0b0101011_0100011_1000010_1100010_1110, .hfma2 35 66 98 true true 2),
    (0b0110000_0100011_1000010_1001001_0110, .cvt 35 66 9 2 true 2),
    (0b0110001_0100011_1000010_1100010_1110, .cvts 35 66 98 true true 2),
    (0b0110010_0100011_1000010_0000000_0000, .fexp2 35 66),
    (0b0110010_0100011_1000010_0000000_0001, .flog2 35 66),
    (0b0110010_0100011_1000010_0000000_0010, .fsin 35 66),
    (0b0110010_0100011_1000010_0000000_0011, .fcos 35 66),
    (0b0110010_0100011_1000010_0000000_0100, .ftanh 35 66),
    (0b0110010_0100011_1000010_0000000_0101, .fsig 35 66),
    (0b0110010_0100011_1000010_0000000_0110, .frsq 35 66),
    (0b0110011_0100011_1000010_0000000_0000, .fexp2Bf 35 66),
    (0b0110011_0100011_1000010_0000000_0001, .flog2Bf 35 66)] = true := by decide

theorem test_decode_float_2 : reads [
    (0b0110011_0100011_1000010_0000000_0010, .fsinBf 35 66),
    (0b0110011_0100011_1000010_0000000_0011, .fcosBf 35 66),
    (0b0110011_0100011_1000010_0000000_0100, .ftanhBf 35 66),
    (0b0110011_0100011_1000010_0000000_0101, .fsigBf 35 66),
    (0b0110011_0100011_1000010_0000000_0110, .frsqBf 35 66),
    (0b0110100_0100011_1000010_0000000_0000, .fexp2Hf 35 66),
    (0b0110100_0100011_1000010_0000000_0001, .flog2Hf 35 66),
    (0b0110100_0100011_1000010_0000000_0010, .fsinHf 35 66),
    (0b0110100_0100011_1000010_0000000_0011, .fcosHf 35 66),
    (0b0110100_0100011_1000010_0000000_0100, .ftanhHf 35 66),
    (0b0110100_0100011_1000010_0000000_0101, .fsigHf 35 66),
    (0b0110100_0100011_1000010_0000000_0110, .frsqHf 35 66)] = true := by decide

theorem test_decode_float_3 : reads [
    (0b0110101_0100011_1000010_0000000_0010, .tbl 35 66 2),
    (0b0110110_0000000_1000010_1100010_0000, .tblld 66 98),
    (0b0110111_0000000_0000000_0000000_0000, .tblsw)] = true := by decide

theorem test_decode_lanes_0 : reads [
    (0b0111000_0100011_0000000_0000011_0011, .vote 35 3 3),
    (0b0111001_0100011_1000010_1100010_0010, .shfl 35 66 98 2),
    (0b0111010_0100011_1000010_0000000_0101, .red 35 66 5),
    (0b0111011_0100011_1000010_0000000_1101, .scan 35 66 true 5),
    (0b0111100_0000000_0000000_0000000_0101, .part 5),
    (0b0111101_0100011_0000000_0000000_0000, .lmask 35),
    (0b1111001_0000000_0000000_0000000_1011, .winb 11)] = true := by decide

theorem test_decode_memory_0 : reads [
    (0b1000000_0100011_1000010_0111010_1011, .ld 35 66 3 171),
    (0b1000001_0100011_1000010_0101010_1011, .st 35 66 2 171),
    (0b1000010_0100011_1000010_0000011_0100, .ldAcq 35 66 3 4),
    (0b1000010_0100011_1000010_0000011_1100, .ldSc 35 66 3 4),
    (0b1000011_0100011_1000010_0000010_0100, .stRel 35 66 2 4),
    (0b1000011_0100011_1000010_0000010_1100, .stSc 35 66 2 4),
    (0b1000100_0100011_1000010_1100010_0001, .ldt 35 66 98 true),
    (0b1000101_0100011_1000010_0111010_1011, .ldro 35 66 3 171),
    (0b1000110_0100011_1000010_0111010_1011, .ldv 35 66 3 171),
    (0b1000111_0100011_1000010_1001010_1011, .stv 35 66 4 171),
    (0b1001000_0100011_1000010_1100010_0010, .stvG 35 66 98 2),
    (0b1001001_0000010_1000010_0101010_1011, .pf 2 66 683)] = true := by decide

theorem test_decode_memory_1 : reads [
    (0b1001010_0000000_1000010_0000000_0010, .cctl 66 2),
    (0b1001011_0100000_0000000_0000000_1101, .fence 4 true 5),
    (0b1001100_0000000_0000001_0101110_1011, .waitc 43 43),
    (0b1010000_0100011_1000010_1100010_0111, .atom 35 66 98 7),
    (0b1010001_0100011_1000010_1100010_0111, .atomD 35 66 98 7)] = true := by decide

theorem test_decode_fabric_0 : reads [
    (0b1010010_0100011_1000010_1100010_0111, .atomp 35 66 98 7),
    (0b1010011_0100011_1000010_1100010_0111, .atompD 35 66 98 7),
    (0b1011000_0100011_1000010_0111010_1011, .ldp 35 66 3 171),
    (0b1011001_0100011_1000010_0101010_1011, .stp 35 66 2 171),
    (0b1011010_1001110_1000010_1100010_0111, .rput 9 6 66 98 true true true),
    (0b1011010_1001110_1000010_1100010_1111, .rputG 9 6 66 98 true true true),
    (0b1011011_0100011_0000000_0000010_1011, .arm 35 true 11),
    (0b1011100_0100011_0000000_0000000_1011, .disarm 35 11),
    (0b1011101_0100011_1000010_1100010_0110, .msgs 35 66 98 6),
    (0b1011110_0100011_1000010_0000000_0000, .capmk 35 66),
    (0b1011110_0100011_1000010_0000000_0001, .capck 35 66),
    (0b1011111_0000000_0000000_0000000_0000, .msgd)] = true := by decide

theorem test_decode_fabric_1 : reads [
    (0b1011111_0100011_0000000_0000000_0001, .waitq 35),
    (0b1100000_0000000_1000010_0001010_1011, .barInit 66 171),
    (0b1100001_0000000_0000000_0001010_1011, .barArv 171),
    (0b1100010_0000000_0000000_0001010_1011, .barWait 171),
    (0b1100011_0000000_1000010_0000000_0110, .barRarv 66 6),
    (0b1100100_0100011_1000010_1100010_0000, .gset 35 66 98),
    (0b1100101_0100011_1000010_1100010_0011, .gwait 35 66 98 true true),
    (0b1100110_0000000_0000000_0001010_1011, .waitk 171)] = true := by decide

theorem test_decode_engine_0 : reads [
    (0b1101000_0100011_1000010_1100010_0011, .mma 35 66 98 3),
    (0b1101001_0000000_0000000_0000000_0110, .chb 6),
    (0b1101001_0001000_0000000_0000000_0110, .che 6),
    (0b1101010_0000011_1000010_0000000_0000, .scs 3 66),
    (0b1101011_0100011_1000010_0000000_0000, .acal 35 66),
    (0b1101011_0000000_1000010_0000000_0001, .acfr 66),
    (0b1101100_0100011_1000010_1100010_0000, .acrd 35 66 98),
    (0b1101100_0000000_1000010_1100010_0001, .acwr 66 98),
    (0b1101100_0000000_1000010_0000000_0010, .acz 66),
    (0b1101101_0000000_1000010_0000000_0000, .aud 66),
    (0b1110000_0000000_0000000_0000000_0000, .tcopy),
    (0b1110001_0000000_0000000_0010010_0010, .pipe 9 2)] = true := by decide

theorem test_decode_engine_1 : reads [
    (0b1110010_0100011_1010101_0101010_1011, .fork 35 174763),
    (0b1110011_0000000_0000000_0000000_0000, .join),
    (0b1110011_0001000_0000000_0000000_0000, .rdv)] = true := by decide

theorem test_decode_system_0 : reads [
    (0b1110100_0000000_1100010_1101000_0000, .launch 98),
    (0b1110101_0100011_1000010_1101000_0001, .nvsub 35 66 104 true),
    (0b1110110_0100011_1000010_0000000_0001, .nvwait 35 66 true),
    (0b1111000_0100011_0000000_0010001_0100, .movs 35 true 20),
    (0b1111000_0100011_0000000_0011010_0110, .movsWrite 35 true 38),
    (0b1111010_0100011_0000000_0101010_1011, .sysr 35 683),
    (0b1111011_0100011_0000000_0101010_1011, .sysw 35 683),
    (0b1111100_0000000_0000000_0000000_0000, .eret),
    (0b1111100_0001000_0000000_0000000_0000, .wfi),
    (0b1111100_0010000_0000000_0000000_0000, .halt),
    (0b1111101_0000000_1000010_1100010_0011, .tlbi 66 98 3),
    (0b1111110_0100011_1000010_0000000_0010, .preempt 35 66 2)] = true := by decide

theorem test_decode_system_1 : reads [
    (0b1111110_0100011_1000010_0000000_0011, .resume 35 66),
    (0b1111111_0000000_1000010_1100010_0000, .mfree 66 98),
    (0b1111111_0000000_1000010_1100010_0001, .mused 66 98),
    (0b1111111_0000000_1000010_1100010_0010, .rgrel 66 98)] = true := by decide

/-- Words that the spec's own examples print: `fence.ar.twr.ro`, `stv.g [v1], v2, k5`, `ldt v3, [k4], v9`, `launch k2, k8`,
`movs v5, CYC` and `movs STAT, k2`. -/
theorem test_decode_examples : reads [
    (0x9660000C, .fence 3 true 4), (0x90080E54, .stvG 2 1 101 4), (0x880F2090, .ldt 3 100 9 false), (0xE8031680, .launch 98),
    (0xF0140014, .movs 5 false 0x14), (0xF18800A6, .movsWrite 98 false 0x26)] = true := by decide

/-- R77: an unassigned major opcode is reason 0, an unassigned function code reason 1, a nonzero reserved bit reason 2. -/
theorem test_decode_rejects : decode 0x00000000 = .error (.illegal 0) ∧ decode 0x06000007 = .error (.illegal 1) ∧
    decode 0x0C000010 = .error (.illegal 2) := by decide

/-- What is not in the table is no instruction of it. -/
theorem test_decode_table_word : decodeTableWord 32 0x02040610 = some (.add 1 0 97 false 0) ∧ decodeTableWord 32 0 = none := by decide
/-! ### One step each, on the values of the spec's worked examples (the rule stands in each comment) -/

/-- A group whose lanes all hold two words in `v1` and `v2`, and a third in `v3`. -/
def pair (x y z : Word) : State := groupState 0xFFFFFFFF [(1, all x), (2, all y), (3, all z)] [] []

/-- Lane 0 of `v3` after an instruction on two words. -/
def result (i : Instr) (x y : Word) : Word := vLane (after i (pair x y 0)) 3 0

/-- R88. -/
theorem test_add_signed_saturates : result (.add 3 1 2 false 1) 0x7FFFFFF0 0x20 = 0x7FFFFFFF := by decide +kernel
/-- R88. -/
theorem test_sub_unsigned_saturates : result (.sub 3 1 2 false 2) 5 9 = 0 := by decide +kernel
/-- R89. -/
theorem test_mulh_both : result (.mulh 3 1 2 false) 0x80000000 2 = 0xFFFFFFFF ∧ result (.mulhU 3 1 2 false) 0x80000000 2 = 1 := by
  decide +kernel
/-- R93: `p` = 4 and `n` = 8. -/
theorem test_bfx_signed : result (.bfx 3 1 2 false true) 0x0F60 0x0804 = 0xFFFFFFF6 := by decide +kernel
/-- R93: with `p` = 28 and `n` = 8 only bits 31 to 28 are written. -/
theorem test_bfi_at_the_top : vLane (after (.bfi 3 1 2 false) (pair 0xFF 0x081C 0x12345678)) 3 0 = 0xF2345678 := by decide +kernel
/-- R95: −7 and 2. -/
theorem test_division_truncates : result (.rem 3 1 2 false) 0xFFFFFFF9 2 = 0xFFFFFFFF ∧
    result (.div 3 1 2 false) 0xFFFFFFF9 2 = 0xFFFFFFFD := by decide +kernel
/-- R86, R94: a division by 0 sets DZ and gives all ones. -/
theorem test_division_by_zero : result (.divU 3 1 2 false) 7 0 = 0xFFFFFFFF ∧
    ((after (.divU 3 1 2 false) (pair 7 0 0)).group 0 0).regs.stat = flagDZ := by decide +kernel
/-- R84, R83: a `k` destination takes the sum of the lowest active lane, zero-extended. -/
theorem test_add_to_k : (after (.add 98 4 99 false 0)
    (groupState 0xF00 [(4, (List.range 32).map fun l => BitVec.ofNat 32 (100 + l))] [(3, 0xFFFFFFFF00000001)] [])).getK (.group 0 0 0) 2
      = 109 := by decide +kernel
/-- R99: the last step of the worked sequence. -/
theorem test_movh_builds_a_constant : (after (.movh 100 0x0DEF0) (groupState 1 [] [(4, 0x48D159E26AF)] [])).getK (.group 0 0 0) 4
    = 0x123456789ABCDEF0 := by decide +kernel
/-- R97: the active lanes of a predicate are written and no other. -/
theorem test_cmp_writes_active_lanes : (after (.cmp 1 1 2 false 2) (groupState 0xF0 [(1, all 0xFFFFFFFF)] [] [(1, 0xF0000)])).pred 1
    = 0xF00F0 := by decide +kernel

/-! R115: tiles of 16, MASK 0x00FF_00F0, `p1` true in lanes 4, 5 and 20. -/

/-- The state of the example of R115. -/
def voting : State := (groupState 0x00FF00F0 [] [] [(1, 0x00100030)]).modMyGroup fun g => { g with part := 4 }

/-- R115: `vote.count` and `vote.mask`. -/
theorem test_vote_in_tiles : vLane (after (.vote 2 1 4) voting) 2 4 = 2 ∧ vLane (after (.vote 2 1 4) voting) 2 16 = 1 ∧
    vLane (after (.vote 3 1 2) voting) 3 7 = 0x30 ∧ vLane (after (.vote 3 1 2) voting) 3 23 = 0x10 := by decide +kernel
/-- R115: `vote.mask` to a `k` register takes the whole split, and `vote.same` is false in both tiles. -/
theorem test_vote_to_k_and_same : (after (.vote 99 1 2) voting).getK (.group 0 0 0) 3 = 0x00100030 ∧
    vLane (after (.vote 4 1 3) voting) 4 4 = 0 ∧ vLane (after (.vote 4 1 3) voting) 4 16 = 0 := by decide +kernel

/-- The state of the examples of R116 and R117: `v1` holds 10 times the lane number, `k5` holds 3, tiles of 8. -/
def moving (mask : Word) : State :=
  (groupState mask [(1, (List.range 32).map fun l => BitVec.ofNat 32 (10 * l)), (2, all 7),
    (5, (List.range 32).map fun l => BitVec.ofNat 32 l)] [(5, 3)] []).modMyGroup fun g => { g with part := 3 }

/-- R116: `shfl.rot` and `shfl.fwd`, one lane without a source. -/
theorem test_shfl_moves : vLane (after (.shfl 2 1 101 4) (moving 0xFFFFFFFF)) 2 6 = 10 ∧
    vLane (after (.shfl 2 1 101 4) (moving 0xFFFFFFFF)) 2 13 = 80 ∧
    vLane (after (.shfl 2 1 101 2) (moving 0xFFFFFFFF)) 2 1 = 40 ∧ vLane (after (.shfl 2 1 101 2) (moving 0xFFFFFFFF)) 2 6 = 7 := by
  decide +kernel
/-- R117: `red.add` in tiles, and to a `k` register over the split. -/
theorem test_red_adds : vLane (after (.red 4 5 0) (moving 0xFF0F)) 4 3 = 6 ∧ vLane (after (.red 4 5 0) (moving 0xFF0F)) 4 8 = 92 ∧
    vLane (after (.red 4 5 0) (moving 0xFF0F)) 4 16 = 0 ∧ (after (.red 100 5 0) (moving 0xFF0F)).getK (.group 0 0 0) 4 = 98 := by
  decide +kernel
/-- R118: an exclusive scan in tiles of 8. -/
theorem test_scan_excludes : vLane (after (.scan 4 5 true 0) (moving 0xFF0F)) 4 0 = 0 ∧
    vLane (after (.scan 4 5 true 0) (moving 0xFF0F)) 4 3 = 3 := by decide +kernel

/-- Lane 0 of `v3` and STAT after an instruction on three words. -/
def floated (i : Instr) (x y z : Word) : Word × Word :=
  let t := after i (pair x y z)
  (vLane t 3 0, (t.group 0 0).regs.stat)

/-- R124: (1 + 2^−12)² − 1 is 2^−11 + 2^−24 exactly. -/
theorem test_fma_rounds_once : floated (.fma 3 1 2 false 0) 0x3F800800 0x3F800800 0xBF800000 = (0x3A000400, 0) := by decide +kernel
/-- R126: of 0x7F80_0001, a signalling NaN, and 2.0; and of the two zeros. -/
theorem test_fmax_of_nan_and_zeros : floated (.fmax 3 1 2) 0x7F800001 0x40000000 0 = (0x40000000, flagNV) ∧
    floated (.fmin 3 1 2) 0 0x80000000 0 = (0x80000000, 0) := by decide +kernel
/-- R127: unordered is true and invalid, less is false and invalid. -/
theorem test_fcmp_of_nan : (after (.fcmp 1 1 2 6) (pair 0x7F800001 0x40000000 0)).pred 1 = 0xFFFFFFFF ∧
    (after (.fcmp 1 1 2 2) (pair 0x7F800001 0x40000000 0)).pred 1 = 0 := by decide +kernel
/-- R128: the halves of `hadd2.hf`. -/
theorem test_hadd2_halves : floated (.hadd2 3 1 2 true false 0) 0x7BFF3C00 0x3C003C00 0 = (0x7BFF4000, flagNX) ∧
    floated (.hadd2 3 1 2 true true 0) 0x7BFF3C00 0x50003C00 0 = (0x7BFF4000, flagOF ||| flagNX) := by decide +kernel
/-- R129: 2 to the power −1, and of 128. -/
theorem test_fexp2_of_one_and_overflow : (floated (.fexp2Bf 3 1) 0xBF80 0 0).1 = 0x3F00 ∧
    floated (.fexp2 3 1) 0x43000000 0 0 = (0x7F800000, flagOF ||| flagNX) := by decide +kernel
/-- R129: the logarithm of the FP16 value 0. -/
theorem test_flog2_of_zero : floated (.flog2Hf 3 1) 0 0 0 = (0xFC00, flagDZ) := by decide +kernel
/-- R131: 460.0 to E4M3, and −0.75 to E2M1. -/
theorem test_cvt_narrows : floated (.cvt 3 1 4 1 false 0) 0x43E60000 0 0 = (0x7E, flagNX) ∧
    floated (.cvt 3 1 6 1 false 0) 0xBF400000 0 0 = (0xA, flagNX ||| flagUF) := by decide +kernel
/-- R131: 300 to INT8, and with saturation. -/
theorem test_cvt_integers : (floated (.cvt 3 1 8 9 false 0) 300 0 0).1 = 44 ∧ (floated (.cvt 3 1 8 9 true 0) 300 0 0).1 = 127 := by
  decide +kernel
/-- R132: 11.8125 and 13.0 under the combined scale 1.96875. -/
theorem test_cvts_encodes : floated (.cvts 3 1 2 true false 0) 0x413D0000 0x4A404000 0 = (7, 0) ∧
    floated (.cvts 3 1 2 true false 0) 0x41500000 0x4A404000 0 = (7, flagNX) := by decide +kernel
/-- R135: 1.4375 in a table of squares. -/
theorem test_tbl_interpolates : vLane (after (.tbl 3 1 0) ((pair 0x3FB80000 0 0).modCore 0 fun c => { c with
    table := { c.table with holder := some 0, bank0 := memPut [] 0x1FD8 (toBytes 4 0x3FF20000 ++ toBytes 4 0x3EB80000) } })) 3 0
      = 0x40048000 := by decide +kernel

/-! ### Witnesses: the hypotheses of each statement are met together by a concrete state and operands -/

theorem live_group (m : Word) (r : Tab Row) (k : Tab DWord) (p : Tab Word) : Spec.live (groupState m r k p) :=
  ⟨rfl, Nat.zero_lt_one, Nat.zero_lt_succ 3⟩

theorem live_seq (ss ks : Tab DWord) : Spec.live (seqState ss ks) := ⟨rfl, rfl⟩

theorem live_host (ss ks : Tab DWord) : Spec.live (hostState ss ks) := trivial

theorem witness_DecodeOfEncodeIsTheInstruction : ∃ i w, Instr.wellFormed i = true ∧ encode i = some w :=
  ⟨.add 3 1 2 false 2, _, rfl, rfl⟩

theorem witness_EncodeOfDecodeIsTheWord : ∃ w i, decode w = .ok i := ⟨0x02040610, .add 1 0 97 false 0, by decide⟩

/-- A state whose `v1` and `v2` are set, and one of a host core whose `k1` and `k2` are. -/
theorem witness_TwoSourceIntegerResults :
    (∃ (s : State) (f : Nat → Nat → Nat → Nat), Spec.intTwo (.divU 3 1 2 false) = some (3, 1, 2, false, f) ∧
      s.ready [srcAny 1 1, srcAny 2 1, dstAny 3 1] = .ok () ∧ s.width false [3, 1, 2] = 32) ∧
    (∃ (s : State) (f : Nat → Nat → Nat → Nat), Spec.intTwo (.add 99 97 98 false 2) = some (99, 97, 98, false, f) ∧
      s.ready [srcAny 97 2, srcAny 98 2, dstAny 99 2] = .ok () ∧ s.width false [99, 97, 98] = 64) :=
  ⟨⟨pair 7 0 0, _, rfl, by decide +kernel⟩, ⟨hostState [] [(1, 2 ^ 64 - 1), (2, 1)], _, rfl, by decide +kernel⟩⟩

theorem witness_OneAndThreeSourceIntegerResults : ∃ s : State,
    (∃ f, Spec.intOne (.clz 3 1 false) = some (3, some 1, false, f)) ∧ (∃ f, Spec.intOne (.movi 3 (-1)) = some (3, none, false, f)) ∧
    s.width false [3, 1, 2] = 32 ∧ s.ready [srcAny 1 1, srcAny 2 1, bothAny 3 1] = .ok () ∧
    s.ready [srcAny 1 1, srcAny 2 1, dstAny 3 1] = .ok () ∧ s.ready [srcAny 1 1, dstAny 3 1] = .ok () ∧
    s.ready [bothAny 3 1] = .ok () ∧ s.ready [dstAny 3 1] = .ok () :=
  ⟨pair 0 0x0804 5, ⟨_, rfl⟩, ⟨_, rfl⟩, by decide +kernel⟩

/-- Codes 5 and 6 are the last legal and the first illegal. -/
theorem witness_ComparesWriteTheirCondition : ∃ s : State, Spec.live s ∧
    (∃ v, Spec.compareForm (.cmp 7 1 2 false 5) = some (7, 1, 2, false, 5, v)) ∧ s.ready [srcAny 1 1, srcAny 2 1] = .ok () ∧
    (∃ v, Spec.compareForm (.cmpU 1 1 2 false 6) = some (1, 1, 2, false, 6, v)) ∧
    (encode (.cmpU 1 1 2 false 6)).isSome = true :=
  ⟨pair 1 2 0, live_group _ _ _ _, ⟨_, rfl⟩, by decide +kernel, ⟨_, rfl⟩, by decide +kernel⟩

theorem witness_PredicateLogicWritesItsFunction :
    (∃ (s : State) (f : Bool → Bool → Bool), Spec.predicateLogic (.pnot 1 2) = some (1, 2, 2, f) ∧ Spec.live s) ∧
    ∃ w : Word, w.toNat / 2 ^ 25 = 0x3E ∧ w.toNat % 16 ≤ 3 ∧ w &&& 0x01E3C780 ≠ 0 :=
  ⟨⟨pair 0 0 0, _, rfl, live_group _ _ _ _⟩, 0x7C000080, by decide⟩

theorem noPort_pair (n : Nat) : Spec.noPort (pair 1 2 3) [srcAny 1 n, srcAny 2 n, dstAny 3 n] := by
  intro o ho q h
  simp only [List.mem_cons, List.not_mem_nil, or_false] at ho
  rcases ho with rfl | rfl | rfl <;> cases h

theorem witness_RegisterAndPredicateFormsFrame : ∃ s : State,
    Spec.registerForm s (.add 3 1 2 false 0) = some ([srcAny 1 1, srcAny 2 1, dstAny 3 1], dstAny 3 1) ∧
    Spec.noPort s [srcAny 1 1, srcAny 2 1, dstAny 3 1] ∧ s.ready [srcAny 1 1, srcAny 2 1, dstAny 3 1] = .ok () ∧
    s.ready [srcAny 1 1, srcAny 2 1] = .ok () ∧ s.width false [1, 2] = 32 ∧
    (∃ v, Spec.compareForm (.cmp 0 1 2 false 5) = some (0, 1, 2, false, 5, v)) ∧
    ∃ f, Spec.predicateLogic (.pand 0 1 2) = some (0, 1, 2, f) :=
  ⟨pair 1 2 3, rfl, noPort_pair 1, by decide +kernel, by decide +kernel, by decide +kernel, ⟨_, rfl⟩, ⟨_, rfl⟩⟩

/-- A division by zero in every lane, in a group; and predicate logic in a sequencer. -/
theorem witness_IntegerFormsSetNoFlagButDZ :
    (∃ s : State, Spec.integerOperands s (.div 3 1 2 false) = some [srcAny 1 1, srcAny 2 1, dstAny 3 1] ∧ Spec.live s ∧
      s.kind ≠ .host ∧ s.ready [srcAny 1 1, srcAny 2 1, dstAny 3 1] = .ok () ∧ Spec.dividesByZero s (.div 3 1 2 false)) ∧
    ∃ s : State, Spec.integerOperands s (.pand 0 1 2) = some [] ∧ Spec.live s ∧ s.kind ≠ .host ∧ s.ready [] = .ok () ∧
      ¬ Spec.dividesByZero s (.pand 0 1 2) :=
  ⟨⟨pair 7 0 0, rfl, live_group _ _ _ _, by decide +kernel, by decide +kernel, by
    unfold Spec.dividesByZero; decide +kernel⟩, seqState [] [], rfl, live_seq _ _, by decide +kernel, by decide +kernel, id⟩

theorem witness_FloatingResults : ∃ (s : State) (f : (Nat → Nat) → Nat × Word → Prop),
    Spec.registerForm s (.fma 3 1 2 true 3) = some ([srcAny 1 1, srcAny 2 1, bothAny 3 1], dstAny 3 1) ∧
    Spec.floatForm (.fma 3 1 2 true 3) = some f ∧ s.ready [srcAny 1 1, srcAny 2 1, bothAny 3 1] = .ok () ∧
    Spec.live s ∧ s.ready [srcAny 1 1, srcAny 2 1] = .ok () :=
  ⟨pair 0x7F800001 1 2, _, rfl, rfl, by decide +kernel, live_group _ _ _ _, by decide +kernel⟩

theorem witness_PackedElementsAreIndependent : ∃ (s : State) (f : Fmt → Nat → Nat → Nat → Nat × Word),
    Spec.registerForm s (.hfma2 3 1 2 true false 0) = some ([srcAny 1 1, srcAny 2 1, bothAny 3 1], dstAny 3 1) ∧
    Spec.packedForm (.hfma2 3 1 2 true false 0) = some (true, f) ∧ s.ready [srcAny 1 1, srcAny 2 1, bothAny 3 1] = .ok () :=
  ⟨pair 0x7BFF3C00 0x3C003C00 0, _, rfl, rfl, by decide +kernel⟩

/-- The greatest code of each format, with the sign bit set. -/
theorem witness_RoundingAnExactValueGivesItsCode : ∀ f ∈ [fp32, bf16, fp16, e5m2, e4m3, e2m1],
    2 ^ f.signBit + f.maxCode < 2 ^ (f.signBit + 1) ∧ (2 ^ f.signBit + f.maxCode) % 2 ^ f.signBit ≤ f.maxCode := by
  decide +kernel

theorem witness_LaneInstructionResults : ∃ s : State, s.kind = .group ∧ (4 : BitVec 4).toNat ≤ 4 ∧
    s.ready [{ reg := 2, role := .dst, words := 1, set := .vu }] = .ok () ∧
    s.ready [srcAny 1 1, srcAny 101 1, { reg := 2, role := .both, words := 1, set := .v }] = .ok () ∧
    s.ready [srcAny 1 1, { reg := 99, role := .dst, words := 1, set := .vu }] = .ok () ∧
    s.ready [srcAny 1 1, { reg := 2, role := .dst, words := 1, set := .v }] = .ok () :=
  ⟨moving 0xFF0F, by decide +kernel⟩

/-- The last window inside the allocation of 64 registers is 1, the first outside is 2. -/
theorem witness_PartitionAndWindowAreSet : ∃ s : State, s.cur = .group 0 0 0 ∧ Spec.live s ∧ 32 * (1 : BitVec 5).toNat < s.regsA ∧
    s.regsA ≤ 32 * (2 : BitVec 5).toNat ∧ (encode (.part 6)).isSome = true :=
  ⟨pair 0 0 0, rfl, live_group _ _ _ _, by decide +kernel⟩

/-! ### Control flow -/

/-- A group of one split whose `p1` is true in some of its lanes. -/
def branching (taken : Word) : State := groupState 0xFF [] [] [(1, taken)]

/-- R101: a branch moves by 4 times its offset, and a divided one keeps the taken lanes in its entry. -/
theorem test_bp_divides : ((after (.bp false 1 (-4)) (branching 0x0F)).split 0 0 0).pc = 0xFF0 ∧
    ((after (.bp false 1 (-4)) (branching 0x0F)).split 0 0 0).mask = 0x0F ∧
    ((after (.bp false 1 (-4)) (branching 0x0F)).split 0 0 1).pc = 0x1004 ∧
    ((after (.bp false 1 (-4)) (branching 0x0F)).split 0 0 1).mask = 0xF0 := by decide +kernel

/-- A table of four valid splits, and a number of deferred ones. -/
def fullTable (n : Nat) : Group :=
  { Group.none with splits := List.replicate 4 { Split.none with valid := true }, deferred := List.replicate n Split.none }

/-- Of one split into two on a full table: 16 entries of the deferred stack are the last that fit. -/
theorem witness_BranchesMoveOrDivide :
    (∃ s : State, Spec.live s ∧ s.ctxMask s.cur &&& s.pred 1 = s.ctxMask s.cur) ∧
    (∃ s : State, Spec.live s ∧ s.ctxMask s.cur &&& s.pred 1 = 0 ∧ s.ctxMask s.cur ≠ 0) ∧
    (∃ s : State, Spec.live s ∧ s.ctxMask s.cur &&& s.pred 1 ≠ 0 ∧ s.ctxMask s.cur &&& s.pred 1 ≠ s.ctxMask s.cur ∧
      s.cur = .group 0 0 0) ∧
    (∃ (g : Group) (p : Split) (ps : List Split), 0 < g.splits.length ∧ p.valid = true ∧
      16 < g.deferred.length + (ps.length - Spec.freeBelow g.splits 0 g.splits.length)) ∧
    (∃ (g : Group) (p : Split) (ps : List Split), 0 < g.splits.length ∧ p.valid = true ∧
      g.deferred.length + (ps.length - Spec.freeBelow g.splits 0 g.splits.length) = 16) :=
  ⟨⟨branching 0xFFFF, live_group _ _ _ _, by decide +kernel⟩, ⟨branching 0xF00, live_group _ _ _ _, by decide +kernel⟩,
    ⟨branching 0x0F, live_group _ _ _ _, by decide +kernel⟩,
    ⟨fullTable 16, { Split.none with valid := true }, [Split.none], by decide +kernel⟩,
    ⟨fullTable 15, { Split.none with valid := true }, [Split.none], by decide +kernel⟩⟩

/-- A group whose `v4` and `v5` hold an address in each lane: `x` in lane 0 and `y` in the others. -/
def jumping (x y : Word) : State := groupState 0xF [(4, x :: List.replicate 31 y), (30, all 0x40), (31, all 0)] [] []

/-- R102: `call` leaves the address of the next instruction in `v30`. -/
theorem test_call_links : vLane (after (.call 16) (jumping 0 0)) 30 3 = 0x1004 ∧ vLane (after (.call 16) (jumping 0 0)) 31 3 = 0 ∧
    ((after (.call 16) (jumping 0 0)).split 0 0 0).pc = 0x1040 := by decide +kernel

/-- The lanes of a state whose `jr v4` targets are the first of their kind. -/
def firstTargets (s : State) : List Nat :=
  let f := fun l => (nthLanes (s.readAll [{ reg := 4, role := .src, words := 2, set := .vu }]).1 0 l).toNat % 2 ^ 64
  s.lanes.filter fun l => s.lanes.all fun k => decide (l ≤ k) || decide (f k ≠ f l)

/-- A target of two lanes apart, one of all lanes together, and one that is not aligned. -/
theorem witness_CallsAndJumpsThroughRegisters :
    (∀ s ∈ [jumping 0x100 0x200, jumping 0x100 0x100, jumping 0x100 0x102],
      s.ready [{ reg := s.linkReg, role := .dst, words := 2, set := .any }] = .ok () ∧
      s.ready [{ reg := 4, role := .src, words := 2, set := .vu }] = .ok ()) ∧
    (∀ x y, Spec.live (jumping x y)) ∧ firstTargets (jumping 0x100 0x200) = [0, 1] ∧ firstTargets (jumping 0x100 0x100) = [0] ∧
    (nthLanes ((jumping 0x100 0x102).readAll [{ reg := 4, role := .src, words := 2, set := .vu }]).1 0 1).toNat % 4 ≠ 0 :=
  ⟨by decide +kernel, fun _ _ => live_group _ _ _ _, by decide +kernel⟩

/-- Two lanes that return to one address. -/
theorem witness_CallsAndJumpsThroughRegisters_return :
    let s := groupState 3 [(30, all 0x100), (31, all 0)] [] []
    let os : List Opd := [{ reg := if s.kind = .group then 30 else 31, role := .src, words := 2, set := .vu }]
    Spec.live s ∧ s.ready os = .ok () ∧ 0 ∈ s.lanes ∧
    (∀ k ∈ s.lanes, (nthLanes (s.readAll os).1 0 k).toNat % 2 ^ 64 = 0x100) ∧ 0x100 % 4 = 0 := by
  intro s os
  exact ⟨live_group _ _ _ _, by decide +kernel⟩

/-- A group with some loops open, the innermost ending at its pc. -/
def looping (n : Nat) : State :=
  (groupState 0xF [] [(1, 5)] []).modSplit 0 0 0 fun p => { p with loops := List.replicate n { count := 2, start := 0xFF0, last := 0x1000 } }

theorem live_looping (n : Nat) : Spec.live (looping n) := ⟨rfl, Nat.zero_lt_one, Nat.zero_lt_succ 3⟩

/-- With two loops open a third opens, and with three it is an illegal operand; a count of 0 skips. -/
theorem witness_LoopsOpenSkipAndReturn : ∀ n, n ≤ 3 → (looping n).cur = .group 0 0 0 ∧ Spec.live (looping n) ∧
    Instr.loopI ((1023 : Word).setWidth 10) 3 = .loopI 1023 3 ∧ (1023 : Word).toNat < 1024 ∧
    ((looping n).split 0 0 0).loops.length = n ∧
    (looping n).ready [{ reg := 97, role := .src, words := 2, set := .uz }] = .ok () := by
  intro n hn
  refine ⟨rfl, live_looping n, ?_⟩
  have : n = 0 ∨ n = 1 ∨ n = 2 ∨ n = 3 := by omega
  rcases this with rfl | rfl | rfl | rfl <;> decide +kernel

/-- R110: the innermost loop returns while its counter is above 1, and closes at 1. -/
theorem test_end_of_loop : endTest 0x1000 [{ count := 2, start := 0xFF0, last := 0x1000 }]
      = (0xFF0, [{ count := 1, start := 0xFF0, last := 0x1000 }]) ∧
    endTest 0x1000 [{ count := 1, start := 0xFF0, last := 0x1000 }] = (0x1004, []) := by decide +kernel

theorem witness_ExitEndsTheContext :
    (∃ s : State, s.cur = .group 0 0 0 ∧ Spec.live s) ∧
    ∃ s : State, s.cur = .seq 0 ∧ Spec.live s ∧ (s.seqr 0).regs.outs = [] ∧
      ∀ n, n < 8 → (tabGet Token.zero n (s.seqr 0).regs.tok).count = 0 :=
  ⟨⟨pair 0 0 0, rfl, live_group _ _ _ _⟩, seqState [] [], rfl, live_seq _ _, by decide +kernel, by decide +kernel⟩

/-- A host core at a level. -/
def atLevel (l : BitVec 2) (ss ks : Tab DWord) : State := (hostState ss ks).modHost 0 fun h => { h with pl := l }

theorem witness_FormsNotProvidedTrap : (Spec.groupOnly (.part 5) = true ∧ (seqState [] []).kind ≠ .group) ∧
    (Spec.noHost .tcopy = true ∧ (hostState [] []).kind = .host) ∧ (pair 0 0 0).kind ≠ .seq ∧
    ((Spec.hostLevel .wfi).isSome = true ∧ (pair 0 0 0).kind ≠ .host) ∧
    (Spec.hostLevel .wfi = some 1 ∧ (atLevel 0 [] []).kind = .host ∧ (atLevel 0 [] []).ctxLevel (atLevel 0 [] []).cur < 1) ∧
    Spec.hostLevel .halt = some 3 ∧ (atLevel 1 [] []).ctxLevel (atLevel 1 [] []).cur < 3 := by decide +kernel

/-! ### Memory -/

/-- A cached translation of the page at 0x10000 to 0x20000, with every permission, for ASID 0. -/
def onePage : List TlbEntry := [{ unit := .core 0, asid := 0, page := 1, entry := 0x200F2, level := 0 }]

/-- Sixteen bytes apart in each lane. -/
def spread (base : Nat) : Row := (List.range 32).map fun l => BitVec.ofNat 32 (base + 16 * l)

/-- A group of four lanes: `v4` and `v5` hold addresses of the page, `v6` vault addresses, `v7` the lane number, `v8` to `v11`
peer addresses of node 9, `k2` an address, `k4` and `k5` a peer address; some accesses are outstanding already. -/
def reaching (outs : List Access) : State :=
  let s := groupState 0xF [(4, spread 0x10000), (5, all 0), (6, spread 0), (7, spread 0), (8, spread 0x10000), (10, all 9), (1, all 0x55)]
    [(2, 0x10000), (4, 0x10000), (5, 9)] []
  ({ s with tlb := onePage }).modRegs s.cur fun r => { r with outs := outs }

/-- An outstanding access that orders nothing. -/
def anAccess (k : AccKind) (n : Nat) : Access :=
  { id := n, kind := k, pc := 0xF00, split := 0, mask := 1, acq := false, rel := false, sc := false, scope := 0, size := 4, signed := false,
    ro := false, wide := false, typed := false, op := 0, peer := false, dst := .none, lanes := [], reissue := false,
    fault := none, fenced := 0 }

/-- Sixty-two accesses of a kind: one more may issue. -/
def sixtyTwo (k : AccKind) : List Access := (List.range 62).map (anAccess k)

theorem live_reaching (outs : List Access) : Spec.live (reaching outs) := ⟨rfl, Nat.zero_lt_one, Nat.zero_lt_succ 3⟩

/-- R145: a load reads nothing at issue, and its destination is written when it returns. -/
theorem test_load_returns : vLane (after (.ld 2 4 4 0) (reaching [])) 2 1 = 0 ∧
    ((after (.ld 2 4 4 0) (reaching [])).group 0 0).regs.outs.length = 1 ∧
    vLane (after (.loadReturn (.group 0 0 0) 0) (after (.ld 2 4 4 0)
      ({ reaching [] with fresh := 0 }.physWrite 0x20010 [0x78, 0x56, 0x34, 0x12]))) 2 1 = 0x12345678 := by decide +kernel

/-- R155, R143: 4 lanes add their number to a counter that holds 100, in ascending order. -/
theorem test_atomics_in_lane_order :
    let s := ({ (groupState 0xFFFFFFFF [(7, (List.range 32).map fun l => BitVec.ofNat 32 l)] [(2, 0x10000)] []) with
      tlb := onePage, fresh := 0 }).physWrite 0x20000 [100]
    let t := after (.atomicReturn (.group 0 0 0) 0) (after (.atom 5 98 7 0) s)
    vLane t 5 3 = 103 ∧ vLane t 5 31 = 565 ∧ ofBytes (t.physRead 0x20000 4) = 596 := by decide +kernel

/-- R141: the last address is in range, the next is not; byte 0x10002 is misaligned for four bytes. -/
theorem witness_AddressChecksInOrder :
    (let eas := [(0, 2 ^ 57 - 4), (1, 2 ^ 57)]
     eas = [(0, 2 ^ 57 - 4)] ++ (1, 2 ^ 57) :: [] ∧ 2 ^ 57 ≤ 2 ^ 57 ∧ ∀ y ∈ [(0, 2 ^ 57 - 4)], y.2 < 2 ^ 57) ∧
    (let eas := [(0, 0x10000), (1, 0x10002)]
     eas = [(0, 0x10000)] ++ (1, 0x10002) :: [] ∧ (∀ y ∈ eas, y.2 < 2 ^ 57) ∧ 0x10002 % 4 ≠ 0 ∧ ∀ y ∈ [(0, 0x10000)], y.2 % 4 = 0) ∧
    ((reaching []).globalLanes .read 4 [(0, 0x10000), (1, 0x1FFFC)]).isOk = true := by decide +kernel

/-- What the load forms of a state need, at an address operand: readiness, room, and lanes that pass. -/
def loadOk (s : State) (o dst : Opd) (n : Nat) (t : AccType) : Prop :=
  s.kind ≠ .host ∧ s.ready [o, dst] = .ok () ∧ Spec.mayAccess true (s.readAll [o, dst]).2 ∧
  ((s.readAll [o, dst]).2.globalLanes t n (((s.readAll [o, dst]).2.computing dst.reg).map fun l =>
    (l, Spec.address ((nthLanes (s.readAll [o, dst]).1 0 l).toNat % 2 ^ 64) 0 n))).isOk = true

/-- What the store forms need. -/
def storeOk (s : State) (o src : Opd) (n : Nat) : Prop :=
  s.kind ≠ .host ∧ s.ready [o, src] = .ok () ∧ Spec.mayAccess false (s.readAll [o, src]).2 ∧
  ((s.readAll [o, src]).2.globalLanes .write n ((s.readAll [o, src]).2.lanes.map fun l =>
    (l, Spec.address ((nthLanes (s.readAll [o, src]).1 0 l).toNat % 2 ^ 64) 0 n))).isOk = true

/-- The widest size, with one access of the 63 still free. -/
theorem witness_GlobalLoadsAndStoresIssue :
    (∃ s od, Spec.globalLoad (.ldSc 12 4 6 5) = some (12, 4, 6, 0, od) ∧ loadOk s (globalAddr 4) (dataDst 12 4) 16 .read) ∧
    (∃ s od, Spec.globalStore (.stSc 12 4 6 5) = some (12, 4, 6, 0, od) ∧ storeOk s (globalAddr 4) (dataSrc 12 4) 16) :=
  ⟨⟨reaching (sixtyTwo .load), _, rfl, by unfold loadOk Spec.mayAccess; decide +kernel⟩,
    ⟨reaching (sixtyTwo .store), _, rfl, by unfold storeOk Spec.mayAccess; decide +kernel⟩⟩

/-- A host core without translation, whose `k2` holds an address in HBM and `k1` a value. -/
def hostReach : State := hostState [] [(1, 0x55), (2, 0x20000)]

theorem witness_HostAccessesCompleteAtOnce : ∃ s : State, s.cur = .host 0 ∧
    s.ready [globalAddr 98, dataDst 99 1] = .ok () ∧ Spec.mayAccess true (s.readAll [globalAddr 98, dataDst 99 1]).2 ∧
    (let u := (s.readAll [globalAddr 98, dataDst 99 1]).2
     let va := Spec.address ((nthLanes (s.readAll [globalAddr 98, dataDst 99 1]).1 0 0).toNat % 2 ^ 64) (-1) 4
     va = 0x1FFFC ∧ okAnd (u.globalLanes .read 4 [(0, va)]) fun r =>
       decide (r.1 = [(0, va, { pa := va, entry := flatEntry .hbm })]) && decide (r.2.poisonIn va 4 = none)) ∧
    s.ready [globalAddr 98, dataSrc 97 1] = .ok () ∧ Spec.mayAccess false (s.readAll [globalAddr 98, dataSrc 97 1]).2 ∧
    (let u := (s.readAll [globalAddr 98, dataSrc 97 1]).2
     let va := Spec.address ((nthLanes (s.readAll [globalAddr 98, dataSrc 97 1]).1 0 0).toNat % 2 ^ 64) (-1) 4
     (okAnd (u.globalLanes .write 4 [(0, va)]) fun r => decide (r.1 = [(0, va, { pa := va, entry := flatEntry .hbm })])) = true ∧
     Memory.wf s.mem = true ∧ ∀ i, i < 4 → u.place (va + i) = .hbm ∧ u.isFreed (va + i) = false) :=
  ⟨hostReach, rfl, by decide +kernel, by unfold Spec.mayAccess; decide +kernel, by decide +kernel, by decide +kernel,
    by unfold Spec.mayAccess; decide +kernel, by decide +kernel⟩

/-- The last 16 bytes of the vault of 8 KiB are inside. -/
theorem witness_VaultAndTypedFormsIssue :
    (∃ s : State, s.kind ≠ .host ∧ s.ready [vaultAddr 6, dataDst 12 4] = .ok () ∧
      Spec.mayAccess true (s.readAll [vaultAddr 6, dataDst 12 4]).2 ∧
      Spec.vaultOk (s.readAll [vaultAddr 6, dataDst 12 4]).2 16
        (fun l => (nthLanes (s.readAll [vaultAddr 6, dataDst 12 4]).1 0 l).toNat) 1
        ((s.readAll [vaultAddr 6, dataDst 12 4]).2.computing 12)) ∧
    (∃ s : State, s.kind ≠ .host ∧ s.ready [vaultAddr 6, dataSrc 1 1] = .ok () ∧ s.ready [vaultAddr 6, vaultAddr 6, dataSrc 1 1] = .ok () ∧
      Spec.mayAccess false (s.readAll [vaultAddr 6, dataSrc 1 1]).2 ∧
      Spec.mayAccess false (s.readAll [vaultAddr 6, vaultAddr 6, dataSrc 1 1]).2 ∧
      Spec.vaultOk s 16 (fun l => 8192 - 16 * (l + 1)) 0 s.lanes ∧
      Spec.vaultOk (s.readAll [vaultAddr 6, vaultAddr 6, dataSrc 1 1]).2 16
        (fun l => (nthLanes (s.readAll [vaultAddr 6, vaultAddr 6, dataSrc 1 1]).1 1 l).toNat) 0 s.lanes) ∧
    (let os := [globalAddr 4, { reg := 7, role := .src, words := 1, set := .data }, dataDst 3 1]
     let s := reaching []
     let u := (s.readAll os).2
     let bx := (u.computing 3).map fun l => (l, 0x10000 + 16 * l, ({ pa := 0x20000 + 16 * l, entry := 0x200F2 } : Xlat))
     let ex := (u.computing 3).map fun l => (l, 0x10000 + 80 * l, ({ pa := 0x20000 + 80 * l, entry := 0x200F2 } : Xlat))
     s.kind ≠ .host ∧ s.ready os = .ok () ∧
     u.xlateLanes (u.requester u.cur) .read (bx.map fun e => (e.1, e.2.1)) = .ok (bx, u) ∧
     (∀ e ∈ bx, e.2.1 = (nthLanes (s.readAll os).1 0 e.1).toNat % 2 ^ 64 ∧ leafFmt e.2.2.entry ≤ 10 ∧
       e.2.1 % max 1 (elemSize (leafFmt e.2.2.entry) 4) = 0) ∧
     u.xlateLanes (u.requester u.cur) .read (ex.map fun e => (e.1, e.2.1)) = .ok (ex, u) ∧
     (∀ p ∈ bx.zip ex, p.2.2.1 = p.1.2.1 + (nthLanes (s.readAll os).1 1 p.1.1).toNat % 2 ^ 32 * elemSize (leafFmt p.1.2.2.entry) 4) ∧
     u.permitLanes (u.requester u.cur) .read ex = .ok () ∧
     ∀ p ∈ bx.zip ex, formatBad p.2.2.2.entry p.2.2.2.pa = false ∧ leafFmt p.1.2.2.entry = leafFmt p.2.2.2.entry ∧
       leafGeom p.1.2.2.entry = leafGeom p.2.2.2.entry) :=
  ⟨⟨reaching (sixtyTwo .load), by unfold Spec.mayAccess Spec.vaultOk; decide +kernel⟩,
    ⟨reaching (sixtyTwo .store), by unfold Spec.mayAccess Spec.vaultOk; decide +kernel⟩, by
    intro os s u bx ex; and_intros <;> decide +kernel⟩

theorem witness_AtomicsIssueAndCompute : ∃ s : State, s.kind ≠ .host ∧
    Spec.atomicForm (.atomD 12 4 2 9) = some (12, 4, 2, 8, 9, false) ∧ s.ready (Spec.atomicOpds 12 4 2 8 9 false) = .ok () ∧
    Spec.mayAccess true (s.readAll (Spec.atomicOpds 12 4 2 8 9 false)).2 ∧
    ((s.readAll (Spec.atomicOpds 12 4 2 8 9 false)).2.globalLanes .atomic 8 (s.lanes.map fun l =>
      (l, (nthLanes (s.readAll (Spec.atomicOpds 12 4 2 8 9 false)).1 0 l).toNat % 2 ^ 64))).isOk = true ∧
    Spec.atomicForm (.atomp 12 8 1 10) = some (12, 8, 1, 4, 10, true) ∧ s.ready (Spec.atomicOpds 12 8 1 4 10 true) = .ok () ∧
    Spec.peersOk (fun l => (nthLanes (s.readAll (Spec.atomicOpds 12 8 1 4 10 true)).1 0 l).toNat) 0 4 s.lanes ∧
    s.ready [peerAddr 8, dataDst 12 4] = .ok () ∧
    Spec.peersOk (fun l => (nthLanes (s.readAll [peerAddr 8, dataDst 12 4]).1 0 l).toNat) (-1) 16 s.lanes ∧
    s.ready [peerAddr 8, dataSrc 12 4] = .ok () :=
  ⟨reaching (sixtyTwo .load), by unfold Spec.mayAccess Spec.peersOk; and_intros <;> decide +kernel⟩

/-- A fence of order 2 waits for no load, and one of order 1 for no store. -/
theorem witness_FencesPrefetchesAndWaitsOnCounts : ∃ s : State, s.ready [globalAddr 4] = .ok () ∧ s.kind ≠ .host ∧
    Spec.mayAccess false (s.readAll [globalAddr 4]).2 ∧
    ((s.readAll [globalAddr 4]).2.globalLanes .read 1 (s.lanes.map fun l =>
      (l, (nthLanes (s.readAll [globalAddr 4]).1 0 l).toNat % 2 ^ 64))).isOk = true ∧
    (∀ a ∈ (s.ctxRegs s.cur).outs, a.kind = .load ∧ a.kind ≠ .atomic) ∧
    (s.ctxRegs s.cur).ldc ≤ (62 : BitVec 6).toNat ∧ (s.ctxRegs s.cur).stc ≤ (0 : BitVec 6).toNat ∧
    (61 : BitVec 6).toNat < (s.ctxRegs s.cur).ldc :=
  ⟨reaching (sixtyTwo .load), by unfold Spec.mayAccess; decide +kernel⟩

/-! ### Traps and numbered registers -/

/-- A team of one group and a sequencer, both with given trap registers; whether it has a trap vector and a save record. -/
def trapped (c : Ctx) (tr : TrapRegs) (vector : Bool) (recPa : Nat) : State :=
  let g := aGroup 0xF [(1, all 5)] [] []
  let q := { Seqr.none with pc := 0x2000, regs := { Regs.zero with trap := tr } }
  let tm := aTeam { g with regs := { g.regs with trap := tr } } (some q)
  { State.reset with
    cur := c, teams := [(0, { tm with recPa := recPa, launch := if vector then launch else launch - 0x4000#512 <<< 128 })] }

theorem live_trapped (tr : TrapRegs) (v : Bool) (n : Nat) :
    Spec.live (trapped (.group 0 0 0) tr v n) ∧ Spec.live (trapped (.seq 0) tr v n) :=
  ⟨⟨rfl, Nat.zero_lt_one, Nat.zero_lt_succ 3⟩, rfl, rfl⟩

/-- No trap, and a trap of cause 14 under a mask. -/
def noTrap : TrapRegs := { tcause := 0, tinfo := 0, epc := 0, emask := 0, respc := 0 }
def inTrap (mask : Word) : TrapRegs := { tcause := 0x8000000E, tinfo := 7, epc := 0x1000, emask := mask, respc := 0x1004 }

/-- R106, R237: `trap 7` saves its address and cause and goes to the vector. -/
theorem test_trap_enters_the_vector :
    let t := after (.trap 7) (trapped (.group 0 0 0) noTrap true 0)
    (t.split 0 0 0).pc = 0x4000 ∧ (t.group 0 0).regs.trap = { tcause := 0x8000000E, tinfo := 7, epc := 0x1000, emask := 0xF, respc := 0x1004 } := by
  decide +kernel

/-- R239: `brk` in a host core enters machine level with cause 13, and `eret` skips the instruction. -/
theorem test_host_break_and_return :
    let s := (hostState [] []).modHost 0 fun h => { h with pl := 1, ppl := 0, ie := true, mtrap := { h.mtrap with vec := 0x800 } }
    let t := after (.brk 3) s
    let u := after .eret t
    ((t.host 0).pc = 0x800 ∧ (t.host 0).pl = 3 ∧ (t.host 0).ppl = 1 ∧ (t.host 0).ie = false ∧ (t.host 0).mtrap.cause = 13 ∧
      (t.host 0).mtrap.epc = 0x3000) ∧ (u.host 0).pc = 0x3004 ∧ (u.host 0).pl = 1 ∧ (u.host 0).ie = true := by decide +kernel

/-- Cause 1 and cause 14 are the first and the last that are taken; a return under the trap's mask, under another, and outside a
trap. -/
theorem witness_TrapsAreTakenAndLeft :
    Spec.trapForm (.brk 5) = some (13, 5) ∧ Spec.fatalCause 1 = false ∧ Spec.fatalCause 14 = false ∧
    (∀ c ∈ [Ctx.group 0 0 0, .seq 0], ∀ tr ∈ [noTrap, inTrap 0xF, inTrap 0x3], Spec.live (trapped c tr true 0) ∧
      (trapped c tr true 0).kind ≠ .host) ∧
    ((trapped (.group 0 0 0) noTrap true 0).ctxRegs (.group 0 0 0)).trap.tcause.getLsbD 31 = false ∧
    lrTvec ((trapped (.group 0 0 0) noTrap true 0).team 0).launch ≠ 0 ∧
    (inTrap 0xF).tcause.getLsbD 31 = true ∧ noTrap.tcause.getLsbD 31 = false ∧
    ((trapped (.group 0 0 0) (inTrap 0xF) true 0).split 0 0 0).mask = (inTrap 0xF).emask ∧
    ((trapped (.group 0 0 0) (inTrap 0x3) true 0).split 0 0 0).mask ≠ (inTrap 0x3).emask ∧
    (hostState [] []).cur = .host 0 ∧ 1 ≤ ((hostState [] []).host 0).pl.toNat := by
  refine ⟨rfl, rfl, rfl, ?_, ?_⟩
  · intro c hc tr htr
    simp only [List.mem_cons, List.not_mem_nil, or_false] at hc
    rcases hc with rfl | rfl
    · exact ⟨(live_trapped tr true 0).1, nofun⟩
    · exact ⟨(live_trapped tr true 0).2, nofun⟩
  · decide +kernel

/-- A fatal cause, a cause in a trap, and a cause without a vector; with a save record and without. -/
theorem witness_FatalCausesHaltTheCluster : ∀ r ∈ [0, 0x40000],
    ∀ s ∈ [trapped (.group 0 0 0) noTrap true r, trapped (.group 0 0 0) (inTrap 0xF) true r, trapped (.group 0 0 0) noTrap false r],
    s.kind ≠ .host ∧ (∀ u ∈ s.clusterTeams (s.team 0).cluster, (s.team u).state = .resident) ∧ 0 ∈ s.clusterTeams (s.team 0).cluster ∧
    ctxTeam s.cur = 0 ∧ (s.team 0).recPa = r ∧
    (Spec.fatalCause 7 = true ∨ (s.ctxRegs s.cur).trap.tcause.getLsbD 31 = true ∨ lrTvec (s.team 0).launch = 0) := by decide +kernel

/-- The three grounds of the statement each hold somewhere. -/
theorem test_grounds_of_a_halt : Spec.fatalCause 7 = true ∧ Spec.fatalCause 1 = false ∧
    ((trapped (.group 0 0 0) (inTrap 0xF) true 0).ctxRegs (.group 0 0 0)).trap.tcause.getLsbD 31 = true ∧
    lrTvec ((trapped (.group 0 0 0) noTrap false 0).team 0).launch = 0 := by decide +kernel

theorem test_vector_field : lrTvec ((trapped (.group 0 0 0) noTrap false 0).team 0).launch = 0 ∧ lrTvec launch = 0x4000 ∧ lrRegs launch = 64 ∧
    lrVault launch = 8192 ∧ lrBars launch = 4 ∧ lrGroups launch = 1 := by decide +kernel

/-- R231: the first and last selectors, and the writable ones. -/
theorem witness_NumberedRegistersAreReadAndWritten_group : ∃ s : State, s.kind ≠ .host ∧ (∀ n ∈ [0x00, 0x37, 0x22, 0x23, 0x26], n ∈ Spec.selectors) ∧
    Spec.isV s 12 ∧ ¬ Spec.isV s 98 ∧ s.ready [Spec.movsOpd s 12 true .dst] = .ok () ∧ s.ready [Spec.movsOpd s 12 true .src] = .ok () ∧
    s.ready [Spec.movsOpd s 98 false .dst] = .ok () ∧ s.cur = .group 0 0 0 :=
  ⟨pair 1 2 3, by unfold Spec.isV Spec.movsOpd; and_intros <;> decide +kernel⟩

theorem witness_NumberedRegistersAreReadAndWritten_seq : ∃ s : State, s.kind = .seq ∧ s.cur = .seq 0 ∧ 0x20 ∈ Spec.groupSelectors ∧
    0x14 ∈ Spec.selectors ∧ 0x14 ∉ Spec.groupSelectors ∧ s.ready [Spec.movsOpd s 98 false .dst] = .ok () ∧ ¬ Spec.isV s 98 ∧
    (2 : BitVec 11).toNat < 3 ∧ s.ready [dstU 98] = .ok () ∧ s.ready [srcU 98] = .ok () :=
  ⟨seqState [] [], by unfold Spec.isV Spec.movsOpd; and_intros <;> decide +kernel⟩

/-- Registers of both levels, the first and last of those that hold what is written. -/
theorem witness_NumberedRegistersAreReadAndWritten_host : ∃ s : State, s.cur = .host 0 ∧ s.ready [dstU 98] = .ok () ∧ s.ready [srcU 98] = .ok () ∧
    ((0x001, -1) ∈ Spec.heldBits ∧ numberLevel 0x001 = some 1 ∧ 1 ≤ (s.host 0).pl.toNat) ∧
    ((0x328, 0x7FF) ∈ Spec.heldBits ∧ ∃ l, numberLevel 0x328 = some l ∧ l ≤ (s.host 0).pl.toNat) ∧ 1 ≤ (s.host 0).pl.toNat :=
  ⟨hostState [] [(2, 5)], rfl, by decide +kernel, by decide +kernel, by decide +kernel, ⟨by decide, _, rfl, by decide +kernel⟩, by decide +kernel⟩

/-! ### Messages, capabilities, barriers and gauges -/

/-- A capability word of a type with USE, BCAST and the wide permission, for registers 8 to 11 of group 0. -/
def aCap (ty : Nat) : Nat := ty * 2 ^ 124 + 8 * 2 ^ 68 + 3 * 2 ^ 63 + 7 * 2 ^ 52 + 2 ^ 51

/-- A `k` pair that holds 128 bits. -/
def pairOf (r x : Nat) : Tab DWord := [(r, BitVec.ofNat 64 x), (r + 1, BitVec.ofNat 64 (x / 2 ^ 64))]

/-- A group with a capability in `k2` and `k3`, words in `v4` and `v5`, a message header in `k6`, and a token in use. -/
def sending (c : Nat) (len : Nat) (count : Byte) : State :=
  let s := groupState 0xF [(4, spread 1), (5, spread 2)] (pairOf 2 c ++ [(6, BitVec.ofNat 64 (len * 2 ^ 16 + 5))]) []
  s.modRegs s.cur fun r => { r with tok := [(1, { count := count, status := 0, info := 0 })] }

/-- R166, R174: a put raises its token's count, and its message waits to be acknowledged. -/
theorem test_put_attaches : let t := after (.rput 2 1 98 4 false false false) (sending (aCap 1) 0 0)
    (tabGet Token.zero 1 (t.ctxRegs t.cur).tok).count = 1 ∧ t.sent.length = 1 ∧ (t.towerJob 0 0).inj = 1 := by decide +kernel

/-- R174: a put above the capability's registers is DENIED and sends nothing. -/
theorem test_put_denied : let t := after (.rput 4 1 98 4 false false false) (sending (aCap 1) 0 0)
    (tabGet Token.zero 1 (t.ctxRegs t.cur).tok).status = 10 ∧ t.sent = [] := by decide +kernel

/-- Register offset 3 is the last that the capability covers, 4 the first that it does not; 254 operations leave room for one. -/
theorem witness_MessagesAreNumberedAndSent_put : ∃ (s : State) (c : BitVec 128), s.kind ≠ .host ∧
    Spec.putOf (.rput 3 1 98 4 true true false) = some (3, 1, 98, 4, false, true, true, false) ∧ s.ready [srcKp 98, srcAny 4 1] = .ok () ∧
    ((s.readAll [srcKp 98, srcAny 4 1]).2.ctxRegs s.cur).outs = [] ∧ Spec.roomOn (s.readAll [srcKp 98, srcAny 4 1]).2 1 ∧
    c = nthLanes (s.readAll [srcKp 98, srcAny 4 1]).1 0 s.low ∧ Spec.usable s c [1, 2] ∧ Spec.putAllowed c 3 false true false ∧
    ¬ Spec.putAllowed c 4 false true false :=
  ⟨sending (aCap 1) 0 254, BitVec.ofNat 128 (aCap 1), by
    unfold Spec.roomOn Spec.usable Spec.putAllowed; and_intros <;> first | decide +kernel | rfl⟩

/-- A length of 64 bytes is the last that is sent, 65 the first that is refused. -/
theorem witness_MessagesAreNumberedAndSent_message :
    let os : List Opd := [srcKp 98, { reg := 4, role := .src, words := 1, set := .v }, srcU 102]
    (∀ s ∈ [sending (aCap 6) 64 254, sending (aCap 6) 65 254], s.kind = .group ∧ s.ready os = .ok () ∧
      (tabGet Token.zero 1 ((s.readAll os).2.ctxRegs s.cur).tok).count ≠ 255 ∧
      Spec.bits (nthLanes (s.readAll os).1 0 s.low) 124 4 ∈ [6] ∧ Spec.bits (nthLanes (s.readAll os).1 0 s.low) 54 1 = 1 ∧
      Spec.bits (nthLanes (s.readAll os).1 0 s.low) 43 8 = s.ctxJob s.cur) ∧
    (nthLanes ((sending (aCap 6) 64 254).readAll os).1 2 0).toNat / 2 ^ 16 % 2 ^ 7 = 64 ∧
    (nthLanes ((sending (aCap 6) 65 254).readAll os).1 2 0).toNat / 2 ^ 16 % 2 ^ 7 = 65 := by decide +kernel

theorem witness_MessagesAreNumberedAndSent_arrival : ∃ s : State, s.kind ≠ .host ∧ s.ready [srcKp 98] = .ok () ∧
    ((s.readAll [srcKp 98]).2.ctxRegs s.cur).outs = [] ∧ Spec.roomOn (s.readAll [srcKp 98]).2 1 ∧
    Spec.usable (s.readAll [srcKp 98]).2 (nthLanes (s.readAll [srcKp 98]).1 0 s.low) [3] :=
  ⟨sending (aCap 3) 0 254, by unfold Spec.roomOn Spec.usable; and_intros <;> decide +kernel⟩

/-- Type 3 with the last barrier of four, and with the next; a host core mints type 5. -/
theorem witness_CapabilitiesAreMinted :
    (∃ s : State, s.kind ≠ .host ∧ s.ready [srcKp 98, dstKp 100] = .ok () ∧
      Spec.mintable s (nthLanes (s.readAll [srcKp 98, dstKp 100]).1 0 s.low)) ∧
    (∃ s : State, s.kind ≠ .host ∧ s.ready [srcKp 98, dstKp 100] = .ok () ∧
      ¬ Spec.mintable s (nthLanes (s.readAll [srcKp 98, dstKp 100]).1 0 s.low)) ∧
    ∃ s : State, s.kind = .host ∧ 1 ≤ s.ctxLevel s.cur ∧ s.ready [srcKp 98, dstKp 100] = .ok () ∧
      Spec.bits (nthLanes (s.readAll [srcKp 98, dstKp 100]).1 0 s.low) 124 4 = 5 :=
  ⟨⟨sending (3 * 2 ^ 124 + 3 * 2 ^ 68) 0 0, by unfold Spec.mintable; and_intros <;> decide +kernel⟩,
    ⟨sending (3 * 2 ^ 124 + 4 * 2 ^ 68) 0 0, by unfold Spec.mintable; and_intros <;> decide +kernel⟩,
    hostState [] (pairOf 2 (5 * 2 ^ 124)), by and_intros <;> decide +kernel⟩

theorem witness_CapabilitiesAreCheckedLocally : (∃ s : State, s.ready [srcKp 98, dstU 100] = .ok ()) ∧
    ∃ w : Word, w.toNat / 2 ^ 25 = 0x5E ∧ w.toNat % 16 = 1 ∧ w.toNat / 16 % 128 ≠ 0 :=
  ⟨⟨sending (aCap 1) 0 0, by decide +kernel⟩, 0xBC000011, by decide⟩

/-- R164: a capability that `capmk` minted under the job's key passes `capck`, and one with a bit changed does not. -/
theorem test_minted_capability_checks :
    let t := after (.capmk 98 98) (sending (3 * 2 ^ 124 + 3 * 2 ^ 68) 0 0)
    let bad := t.modMyGroup fun g => { g with k := { g.k with vals := tabSet 3 (tabGet 0 3 g.k.vals ^^^ 1) g.k.vals } }
    (after (.capck 104 98) t).getK t.cur 8 = 0 ∧ (after (.capck 104 98) bad).getK t.cur 8 = 10 := by decide +kernel

/-- The last run of the allocation of 64 registers, and one of `k` registers. -/
theorem witness_ArmingRetiringAndWaitingForQuiet : ∃ s : State, s.cur = .group 0 0 0 ∧ Spec.live s ∧ (s.ctxRegs s.cur).outs = [] ∧
    Spec.armRegs s 62 ((1 : BitVec 5).toNat + 1) = some (false, [62, 63]) ∧
    Spec.armRegs s 111 ((0 : BitVec 5).toNat + 1) = some (true, [15]) ∧ s.ready [dstU 98] = .ok () :=
  ⟨pair 1 2 3, rfl, live_group _ _ _ _, by and_intros <;> decide +kernel⟩

/-- R172, R173: a held message is what `msgd` retires. -/
theorem witness_msgd_holds_a_message : ∃ s : State, s.cur = .group 0 0 0 ∧ Spec.live s ∧ (s.group 0 0).held ≠ none :=
  ⟨(pair 1 2 3).modGroup 0 0 fun g => { g with held := some { payload := [], header := 0, snode := 0, score := 0 } }, rfl,
    ⟨rfl, Nat.zero_lt_one, Nat.zero_lt_succ 3⟩, by decide +kernel⟩

/-- The last barrier of four, and the first number that names none. -/
theorem witness_BarriersAndTokenWaits : ∃ s : State, s.cur = .group 0 0 0 ∧ Spec.live s ∧
    Spec.namedBarrier s 0 (4 : BitVec 8).toNat = none ∧ Spec.namedBarrier s 0 (3 : BitVec 8).toNat = some (0, 3) ∧
    (tabFind 0 s.teams).isSome = true ∧ (s.team 0).state = .resident ∧
    s.ready [{ reg := 1, role := .src, words := 1, set := .vu }] = .ok () ∧
    (nthLanes (s.readAll [{ reg := 1, role := .src, words := 1, set := .vu }]).1 0 s.low).setWidth 16 ≠ 0#16 ∧
    (s.group 0 0).regs.outs = [] ∧ s.kind ≠ .host :=
  ⟨pair 2 0 0, rfl, live_group _ _ _ _, by unfold Spec.namedBarrier; and_intros <;> decide +kernel⟩

/-- R180: the second of two arrivals moves the phase. -/
theorem test_barrier_phase_moves :
    let t := after (.barArv 3) (after (.barInit 1 3) (pair 2 0 0))
    (tabGet Barrier.zero 3 (t.team 0).barriers) = { expected := 2, arrivals := 1, phase := 0 } ∧
    (tabGet Barrier.zero 3 ((after (.barArv 3) t).team 0).barriers) = { expected := 2, arrivals := 0, phase := 1 } := by
  decide +kernel

/-- A host core whose `k2` holds a region or handle, `k3` its upper half, and `k4` the address of a parameter block. -/
def gauging (x len : Nat) : State :=
  ({ hostState [] [(2, BitVec.ofNat 64 x), (3, BitVec.ofNat 64 len), (4, 0x30000)] with mgauges := [] }).physWrite 0x30000 [0, 0, 1, 0]

/-- A region of length 0, a misaligned one, and one of one page: the last detaches nothing that is busy, the last attaches. -/
theorem witness_GaugesAreSetAndWaitedFor_set :
    (∀ s ∈ [gauging 0 0, gauging 0x10010 65536, gauging 0x10000 65536], s.ready [srcU 100, srcKp 98, dstU 102] = .ok ()) ∧
    (gauging 0 0).gaugeBusy 0x30000 = false ∧ ((gauging 0x10010 65536).readBlock 0x30000).isOk = true ∧
    (((gauging 0x10000 65536).readBlock 0x30000).toOption.map fun r =>
      (r.2.gaugePages (r.2.requester r.2.cur) 0x10000 1).toOption.map (·.1)) = some (some [1]) ∧
    (gauging 0x10000 65536).oneAgent [1] = some 0 ∧ (gauging 0x10000 65536).freeGauge 0 = some 0 := by
  and_intros <;> decide +kernel

/-- A memory gauge of one page with given counts, attached as entry 0 of agent 0. -/
def aGauge (total count gen : Word) (action : BitVec 4) (params : List Byte) : MGauge :=
  { pages := [1], job := 0, limit := 0, total := total, count := count, gen := gen, action := action, params := params }

/-- R187: a handle of no gauge, one whose generation is exactly half the range ahead, and one behind it. -/
theorem witness_GaugesAreSetAndWaitedFor_wait :
    let os := [srcU 98, srcU 99, dstU 100]
    let s := { groupState 1 [] [(2, 0), (3, 5)] [] with mgauges := [(0, aGauge 16 0 5 0 [])] }
    s.kind ≠ .host ∧ s.ready os = .ok () ∧ (nthLanes (s.readAll os).1 0 0).toNat = 0 ∧
    ((s.readAll os).2.gaugeOf 0).isSome = true ∧ (s.readAll os).2.gaugeOf 256 = none ∧
    (s.readAll os).2.vaultLoc 0 (8192 - 16) 16 = some (0, 8192 - 16) := by decide +kernel

/-! ### Tables, the matrix engine, copies, launches and storage -/

/-- A group whose core's table is held by a team, and whose `k2` and `k3` hold two values. -/
def tabled (holder : Option Nat) (a n : DWord) : State :=
  (groupState 0xF [(1, all 0x3FB80000)] [(2, a), (3, n)] []).modCore 0 fun c => { c with table := { c.table with holder := holder } }

/-- Counts 8 and 32768 are the first and last, 32776 is above. -/
theorem witness_ActivationTablesFillExchangeAndEvaluate :
    (∀ s ∈ [tabled none 0x10004 8, tabled none 0x10000 32776, tabled (some 0) 0x10000 32768, tabled (some 64) 0x10000 8],
      s.kind ≠ .host ∧ s.ready [srcAny 1 1, dstAny 3 1] = .ok () ∧ s.ready [srcU 98, srcU 99] = .ok () ∧
      (s.core (s.ctxCore s.cur)).table.fill = none ∧ (s.core (s.ctxCore s.cur)).table.draining = false) ∧
    ((tabled (some 0) 0 0).core 0).table.holder = some (ctxTeam (tabled (some 0) 0 0).cur) ∧
    ((tabled (some 64) 0 0).core 0).table.holder ≠ some (ctxTeam (tabled (some 64) 0 0).cur) ∧
    ((tabled none 0 0).core 0).table.holder = none := by decide +kernel

/-- A chain of the issuing group with token 1. -/
def aChain : Chain :=
  { id := 7, team := 0, ctx := .group 0 0 0, token := 1, audit := 0, seqNo := 0, tiles := 4, open_ := true, failed := none, aborted := false,
    audits := [], auditFault := none }

/-- A bank of a one by one rectangle. -/
def aBank (phys b : Nat) : Bank := { phys := phys, steps := 0, words := [], bad := [], rect := (b, 1, 1) }

/-- A group with some banks of its team, some chains and an open one, commands queued, and `k2` to `k5`. -/
def engine (banks : List Nat) (chain : Option Nat) (mq : List MCmd) (ks : Tab DWord) : State :=
  let s := groupState 0xF [(4, all 0x40A00000)] ks []
  let s := s.modTeam 0 fun t => { t with acc := banks.map fun b => (b, aBank b b) }
  let s := s.modCore 0 fun c => { c with chains := if chain.isSome then [aChain] else [], mq := mq, phys := banks }
  s.modRegs s.cur fun r => { r with chain := chain }

theorem live_engine (b : List Nat) (c : Option Nat) (q : List MCmd) (k : Tab DWord) : Spec.live (engine b c q k) :=
  ⟨rfl, Nat.zero_lt_one, Nat.zero_lt_succ 3⟩

/-- An audit interval of 65535 is the greatest; a chain that is open, and none. -/
theorem witness_ScalesAndChains : (engine [] none [] [(2, 65535)]).kind ≠ .host ∧ Spec.live (engine [] none [] [(2, 65535)]) ∧
    (∀ s ∈ [engine [] none [] [(2, 65535)], engine [] none [] [(2, 65536)]],
      s.ready [srcU 98] = .ok () ∧ s.ready [{ reg := 98, role := .src, words := 1, set := .vu }] = .ok ()) ∧
    ((engine [] none [] []).ctxRegs (.group 0 0 0)).chain = none ∧ Spec.roomOn (engine [] none [] []) 1 ∧
    Spec.openChainOf (engine [] (some 7) [] []) = some aChain ∧ aChain.token = (1 : BitVec 3).toNat ∧ aChain.token ≠ (2 : BitVec 3).toNat ∧
    Spec.openChainOf (engine [] none [] []) = none := by
  refine ⟨nofun, live_engine _ _ _ _, ?_⟩
  unfold Spec.roomOn Spec.openChainOf
  and_intros <;> decide +kernel

/-- Two rows and 64 columns of banks fill the file; with bank 64 taken no run of 128 is free. -/
theorem witness_AccumulatorBanksAndRows_acal :
    (∀ s ∈ [engine [] none [] [(2, 2 + 2 ^ 8 * 64)], engine [64] none [] [(2, 2 + 2 ^ 8 * 64)]], s.ready [srcU 98, dstU 99] = .ok () ∧
      (nthLanes (s.readAll [srcU 98, dstU 99]).1 0 s.low).toNat = 2 + 2 ^ 8 * 64 ∧ s.kind ≠ .host) ∧
    (∀ i, i < 128 → Spec.bankOf (engine [] none [] [(2, 2 + 2 ^ 8 * 64)]) (0 + i) = none) ∧
    (∀ b, b + 128 ≤ 128 → ¬ ∀ i, i < 128 → Spec.bankOf (engine [64] none [] [(2, 2 + 2 ^ 8 * 64)]) (b + i) = none) ∧
    128 ≤ ((List.range 128).filter fun p => decide (p ∉ ((engine [] none [] []).core 0).phys)).length := by
  refine ⟨by decide +kernel, by unfold Spec.bankOf; decide +kernel, fun b hb h => ?_, by decide +kernel⟩
  have h0 : b = 0 := by omega
  subst h0
  have h64 := h 64 (by omega)
  revert h64
  unfold Spec.bankOf
  decide +kernel

/-- The last bank and the last row, allocated and not. -/
theorem witness_AccumulatorBanksAndRows_rows :
    (∀ s ∈ [engine [127] none [] [(2, 4095), (4, 1 * 2 ^ 24 + 1 * 2 ^ 16 + 127 * 2 ^ 8), (5, 127)], engine [] none [] [(2, 4095), (5, 127)]],
      s.kind = .group ∧ s.ready [{ reg := 6, role := .dst, words := 1, set := .v }, srcU 98, { reg := 99, role := .dst, words := 2, set := .uz }] = .ok () ∧
      s.ready [srcU 98, { reg := 4, role := .src, words := 1, set := .v }] = .ok () ∧ s.ready [srcU 100] = .ok () ∧ s.ready [srcU 101] = .ok () ∧
      lrWindow (Spec.teamOf s).launch = false ∧ lrActrap (Spec.teamOf s).launch = false ∧
      (s.core (s.ctxCore s.cur)).mq.length < 16 ∧ Spec.engineIdle s) ∧
    Spec.bankOf (engine [127] none [] []) (4095 / 32) = some (aBank 127 127) ∧ (aBank 127 127).rect = (127, 1, 1) ∧
    Spec.bankOf (engine [] none [] []) (4095 / 32) = none := by
  unfold Spec.engineIdle Spec.bankOf Spec.teamOf
  and_intros <;> decide +kernel

/-- A vault descriptor of 32 lines of 64 bytes from offset 0. -/
def aDesc : BitVec 128 := BitVec.ofNat 128 (4 * 2 ^ 28)

/-- The group of an `mma` with two vault descriptors into bank 5; or, in a sequencer, one that is prepared. -/
def multiplying : State := engine [5] (some 7) [] [(2, 4 * 2 ^ 28), (4, 5)]

theorem live_multiplying : Spec.live multiplying := live_engine [5] (some 7) [] [(2, 4 * 2 ^ 28), (4, 5)]

theorem witness_MatrixCommandsAreQueuedAndPerformed_issue : ∃ s : State, s.kind ≠ .host ∧ Spec.live s ∧
    s.ready (s.tileOpds 98 (s.scaledTile 0 98) ++ s.tileOpds 98 (s.scaledTile 0 98) ++ [srcU 100]) = .ok () ∧ s.isTile 98 = false ∧
    Spec.openChainOf s = some aChain ∧ aChain.aborted = false ∧ Spec.mmaAllowed s 5 0 (.desc aDesc) (.desc aDesc) ∧
    Spec.inWindow s 160 191 ∧ (Spec.bankOf s 5).isSome = true ∧ (s.core (s.ctxCore s.cur)).mq.length < 16 := by
  refine ⟨multiplying, ?_, live_multiplying, ?_⟩
  · decide +kernel
  · have hd : Spec.descAllowed multiplying 0 aDesc := by unfold Spec.descAllowed; decide +kernel
    have hm : Spec.mmaAllowed multiplying 5 0 (.desc aDesc) (.desc aDesc) :=
      ⟨by decide, by decide, fun d h => by rcases h with h | h <;> cases h <;> exact hd, nofun, fun _ _ _ _ => rfl, nofun⟩
    refine ⟨by decide +kernel, by decide +kernel, by unfold Spec.openChainOf; decide +kernel, rfl, hm, ?_⟩
    unfold Spec.inWindow Spec.bankOf Spec.teamOf
    and_intros <;> decide +kernel

/-- An `mma` of two vault tiles of BF16 into bank 5, one of whose k-steps has been performed. -/
def aMul : MCmd :=
  { id := 3, team := 0, ctx := .group 0 0 0, kind := .mma 5 0 7 (.desc aDesc) (.desc aDesc) 2 2 0x3F800000 0x3F800000 1, fault := none,
    audited := false, dead := false }

theorem witness_MatrixCommandsAreQueuedAndPerformed_step : ∃ s : State,
    (s.core 0).mq.find? (fun c => c.id = 3) = some aMul ∧ (s.core 0).chains.find? (fun c => c.id = 7) = some aChain ∧
    (1 : BitVec 4).getLsbD 2 = false ∧ aMul.fault = none ∧ s.engineRuns 0 = true ∧ (s.core 0).chainHeld aChain = false ∧
    aMul.heldBy (cmdsBefore 3 (s.core 0).mq) = false ∧ (s.readTiles 0 (.desc aDesc) (.desc aDesc) 2 2).isOk = true ∧
    tabFind 5 (s.team 0).acc = some (aBank 5 5) ∧ ((1 : BitVec 4) ||| ((1 : BitVec 4) <<< 2)) ≠ 15 := by
  refine ⟨engine [5] (some 7) [aMul] [], ?_⟩
  and_intros <;> decide +kernel

/-- 1.0 in BF16, in every element of a register tile. -/
def ones : MOperand := .tile (List.replicate 1024 [0x80, 0x3F]).flatten []

/-- R202: of BF16 ones each k-step adds 8.0 to a word. -/
theorem test_kstep_adds_eight : ((engine [] none [] []).readTiles 0 ones ones 2 2).toOption.map
    (fun r => (stepWord r.1 r.2.1 r.2.2.1 3 31 31 0x3F800000 0x3F800000 0x41800000)) = some 0x41C00000 := by decide +kernel

/-- A copy of one row of 64 bytes inside the vault, from 0 to 0x1000, against token 1. -/
def copyRegs : Tab DWord := [(8, 2 ^ 63), (9, 2 ^ 63 + 1 * 2 ^ 60 + 0x1000), (10, 0), (11, 63 * 2 ^ 44)]

/-- The command that these registers hold. -/
def aCopy : CCmd :=
  { id := 0, team := 0, ctx := .group 0 0 0, k8 := 2 ^ 63, k9 := 2 ^ 63 + 1 * 2 ^ 60 + 0x1000, k10 := 0, k11 := 63 * 2 ^ 44, started := [],
    done := [], sentChunks := [], failed := none, stop := none, follow := none, faults := [] }

theorem witness_CopiesSequencersAndLaunches_copy :
    let s := groupState 0xF [] copyRegs []
    s.kind ≠ .host ∧ s.ready ([104, 105, 106, 107].map fun r => { reg := r, role := .src, words := 2, set := .k }) = .ok () ∧ s.fresh = aCopy.id ∧
    aCopy.fieldsBad (Spec.teamOf s).clusterSize = false ∧ aCopy.follows = false ∧ s.copyAligned aCopy = .ok () ∧ s.copyInside aCopy = .ok () ∧
    (s.core (s.ctxCore s.cur)).cq.length < 16 ∧ (tabGet Token.zero aCopy.token (s.ctxRegs s.cur).tok).count ≠ 255 ∧ 0 < aCopy.part.2 ∧
    { aCopy with k11 := 63 * 2 ^ 44 + 1 * 2 ^ 36 }.part.2 = 0 := by
  and_intros <;> decide +kernel

/-- Limits that are equal; sixteen registers copied to a new sequencer, with the core free and taken; the end of every access. -/
theorem witness_CopiesSequencersAndLaunches_control :
    (let s := groupState 0xF [] [] []
     s.kind = .group ∧ (7 : BitVec 5).toNat ≤ (7 : BitVec 5).toNat ∧
     s.ready ((List.range 16).map fun j => { reg := BitVec.ofNat 7 (96 + j), role := .src, words := 2, set := .k }) = .ok () ∧
     (s.core (s.ctxCore s.cur)).seqOwner = none ∧ ((s.modCore 0 fun c => { c with seqOwner := some 64 }).core 0).seqOwner ≠ none) ∧
    (seqState [] []).cur = .seq 0 ∧ ((seqState [] []).seqr 0).regs.outs = [] := by
  and_intros <;> decide +kernel

/-- R218: `rdv` sends on each split that waits in `join`. -/
theorem test_rdv_releases : ((after .rdv ((seqState [] []).modSplit 0 0 0 fun p => { p with wait := .join })).split 0 0 0).pc = 0x1004 ∧
    ((after .rdv ((seqState [] []).modSplit 0 0 0 fun p => { p with wait := .join })).split 0 0 0).wait = .none := by decide +kernel

/-- The operands of `launch k2`. -/
def launchOpds : List Opd := { reg := 98, role := .both, words := 2, set := .u } ::
  [104, 105, 106, 107, 108, 109, 110, 111].map fun r => { reg := r, role := .src, words := 2, set := .k }

/-- A group whose `k2` holds a value, which `launch k2` reads. -/
def launching (x : DWord) : State := groupState 0xF [] [(2, x)] []

/-- Column 127 and the own column, and the first values above each that are illegal. -/
theorem witness_CopiesSequencersAndLaunches_launch :
    (∀ s ∈ [launching 127, launching 128, launching 129, launching 256],
      s.ready launchOpds = .ok () ∧ (s.ctxRegs s.cur).outs = []) ∧
    [launching 127, launching 128, launching 129, launching 256].map (fun s => (nthLanes (s.readAll launchOpds).1 0 0).toNat)
      = [127, 128, 129, 256] := by decide +kernel

/-- A queue of two entries of blocks of 512 bytes, on, with some slots taken. -/
def aQueue (slots : Tab NvSlot) : NvQueue :=
  { ctl := 2 ^ 63 + 1 * 2 ^ 32, sqb := 0x40000, cqb := 0x50000, sqdb := 0x60000, cqdb := 0x60004, qid := 1, pab := 0, slots := slots,
    sqtail := 0, sqhead := 0, cqhead := 0, phase := true }

/-- A slot of a group's command. -/
def aSlot (r : Option DWord) : NvSlot :=
  { ctx := .group 0 0 0, orphan := false, op := 0, pichk := false, va := 0, buf := [], blocks := 1, result := r, waiter := none }

/-- Queue 1 in a group whose `k2` holds a queue number or ticket, and `k8` to `k11` a FLUSH. -/
def storing (x : DWord) (slots : Tab NvSlot) : State :=
  { groupState 0xF [] [(2, x)] [] with nvqs := [(1, aQueue slots)] }

/-- The operands of `nvsub k3, k2, k8`. -/
def nvsubOpds : List Opd := [srcU 98] ++ ((List.range 4).map fun i =>
  ({ reg := 104 + BitVec.ofNat 7 i, role := .src, words := 2, set := .k } : Opd)) ++ [dstU 99]

/-- Queue 63 is the last and 64 is none; a free slot and a full queue. -/
theorem witness_StorageCommandsAreSubmittedAndCompleted_submit :
    (∀ s ∈ [storing 63 [], storing 64 []], s.ready nvsubOpds = .ok () ∧ (s.ctxRegs s.cur).outs = []) ∧
    [storing 63 [], storing 64 []].map (fun s => (nthLanes (s.readAll nvsubOpds).1 0 0).toNat) = [63, 64] ∧
    ((storing 63 []).nvsubmit 63 (nvCmd 0 0 0 0)).isOk = true ∧
    ((storing 1 []).nvq 1).denies (nvCmd 0 0 0 0) ((storing 1 []).ctxJob (.group 0 0 0)) = false ∧ (nvCmd 0 0 0 0).opc = 0 ∧
    ((storing 1 []).nvq 1).freeSlot = some 0 ∧ { aQueue [] with sqhead := 1 }.freeSlot = none ∧ ((storing 63 []).nvq 63).on = false := by
  and_intros <;> decide +kernel

/-- A ticket that is complete and one that is not; an entry of the completion queue in the queue's phase. -/
theorem witness_StorageCommandsAreSubmittedAndCompleted_wait :
    (∀ s ∈ [storing 0x100 [(0, aSlot none)], storing 0x100 [(0, aSlot (some 7))]], s.ready [srcU 98, dstU 99] = .ok () ∧
      (nthLanes (s.readAll [srcU 98, dstU 99]).1 0 0).toNat = 0x100 ∧ (s.nvq 1).job = s.ctxJob s.cur) ∧
    tabFind 0 ((storing 0x100 [(0, aSlot none)]).nvq 1).slots = some (aSlot none) ∧
    tabFind 0 ((storing 0x100 [(0, aSlot (some 7))]).nvq 1).slots = some (aSlot (some 7)) ∧
    (let s := (storing 0x100 [(0, aSlot none)]).physWrite 0x5000C [0, 0, 1, 0]
     (s.nvq 1).cqb ≠ 0 ∧ (ofBytes ((s.physRead ((s.nvq 1).cqb.toNat + 16 * (s.nvq 1).cqhead) 16).drop 12)).testBit 16 = (s.nvq 1).phase ∧
     ofBytes ((s.physRead ((s.nvq 1).cqb.toNat + 16 * (s.nvq 1).cqhead) 16).drop 12) % 2 ^ 16 = 0) := by
  and_intros <;> decide +kernel

/-! ### Host control, steps and splits -/

/-- A host core at machine level, with a cached translation of each page size, whose `k2` and `k3` hold operands. -/
def invalidating (a b : DWord) : State :=
  { hostState [] [(2, a), (3, b)] with
    tlb := [{ unit := .core 0, asid := 0, page := 1, entry := 0x200F2, level := 0 }, { unit := .core 0, asid := 1, page := 1, entry := 0x200F2, level := 0 },
      { unit := .core 0, asid := 0, page := 33, entry := 2 ^ 56 + 0x200F2, level := 0 }, { unit := .core 0, asid := 0, page := 4096, entry := 0xF3, level := 1 }] }

/-- R240: `tlbi` of one address and ASID removes the one entry. -/
theorem test_tlbi_of_a_page : ((after (.tlbi 98 99 3) (invalidating 0x10000 0)).tlb.map fun e => (e.asid, e.page)) = [(1, 1), (0, 33), (0, 4096)] ∧
    ((after (.tlbi 98 0 2) (invalidating 0x3F0000 0)).tlb.map fun e => (e.asid, e.page)) = [(0, 1), (1, 1), (0, 4096)] := by decide +kernel

/-- Kind 3 is the last. -/
theorem witness_HostCoresWaitStopAndInvalidate : ∃ s : State, s.cur = .host 0 ∧ 1 ≤ (s.host 0).pl.toNat ∧ (s.host 0).pl = 3 ∧
    (3 : BitVec 4).toNat < 4 ∧ (s.host 0).pending = none ∧ s.ready [srcU 98, srcU 99] = .ok () ∧ s.teams = [] ∧ s.sharers = [] ∧
    s.nvqs = [] ∧ ∀ v ∈ s.invals, v.out = false :=
  ⟨invalidating 0x10000 0, by decide +kernel⟩

/-- A host core beside one team with a save record or none, held or not, whose `k2` holds a target. -/
def preempting (x : DWord) (recPa : Nat) (held : Bool) (st : TeamState) : State :=
  { hostState [] [(2, x)] with teams := [(0, { aTeam (aGroup 1 [] [] []) none with recPa := recPa, held := held, state := st })] }

/-- R241: a team that is not there, one that cannot be saved, one that is held, and one that runs; a pre-emption all of whose teams
have halted. -/
theorem witness_PreemptionHoldsAndResumptionReleases :
    (∀ s ∈ [preempting 1 0 false .resident, preempting 0 0 false .resident, preempting 0 0x40000 true .resident,
        preempting 0 0x40000 false .resident, preempting 0 0x40000 true .saved],
      s.cur = .host 0 ∧ 1 ≤ (s.host 0).pl.toNat ∧ s.ready [dstU 99, srcU 98] = .ok () ∧ (s.host 0).pending = none ∧
      (s.clusterTeams 0) = [0]) ∧
    Spec.teamTarget (preempting 1 0 false .resident) 1 = none ∧ Spec.teamTarget (preempting 0 0 false .resident) 0 = some 0 ∧
    ((preempting 0 0 false .resident).team 0).recPa = 0 ∧ ((preempting 0 0x40000 false .resident).team 0).recPa ≠ 0 ∧
    ((preempting 0 0x40000 true .resident).team 0).held = true ∧ ((preempting 0 0x40000 true .resident).team 0).state ≠ .saved ∧
    ((preempting 0 0x40000 false .resident).team 0).held = false ∧
    (let s := (preempting 0 0x40000 true .saved).modHost 0 fun h => { h with pending := some (.halt none [0] 1) }
     (s.host 0).pending = some (.halt none [0] 1) ∧ ∀ t ∈ [0], (s.team t).state = .saving ∨ (s.team t).state = .saved) := by
  unfold Spec.teamTarget
  and_intros <;> decide +kernel

/-- The last granule of HBM, and a range that ends above it. -/
theorem witness_GranulesAreFreedAndReused :
    (∀ s ∈ [hostState [] [(2, 0xFFFFFF0000), (3, 65536)], hostState [] [(2, 0xFFFFFF0000), (3, 131072)]],
      s.cur = .host 0 ∧ 1 ≤ (s.host 0).pl.toNat ∧ s.ready [srcU 98, srcU 99] = .ok () ∧
      (nthLanes (s.readAll [srcU 98, srcU 99]).1 0 0).toNat = 2 ^ 40 - 65536 ∧ ∀ k, k < 16 → (s.stack k).range31gone = false) ∧
    (nthLanes ((hostState [] [(2, 0xFFFFFF0000), (3, 65536)]).readAll [srcU 98, srcU 99]).1 1 0).toNat = 65536 ∧
    2 ^ 40 < 2 ^ 40 - 65536 + (nthLanes ((hostState [] [(2, 0xFFFFFF0000), (3, 131072)]).readAll [srcU 98, srcU 99]).1 1 0).toNat := by
  and_intros <;> decide +kernel

/-- A team at 0x10000, whose word is stored where that page leads. -/
def fetching (c : Ctx) (w : Nat) : State :=
  let g := { aGroup 0xF [] [] [] with splits := [{ Split.none with valid := true, pc := 0x10000, mask := 0xF }, Split.none, Split.none, Split.none] }
  let tm := aTeam g (some { Seqr.none with pc := 0x10000 })
  ({ State.reset with
    cur := c, tlb := [{ unit := .core 0, asid := 0, page := 1, entry := 0x200F2, level := 0 }], teams := [(0, { tm with code := memPut [] 0x20000 (toBytes 4 w) })] })

/-- `movi` of 5 to `k2`: in a host core after reset, in a sequencer and in a group. -/
theorem witness_StepRunsTheDecodedInstruction :
    let w := 0x2B880005
    decode (BitVec.ofNat 32 w) = .ok (.movi 98 5) ∧ (Instr.movi 98 5).fieldReason = none ∧
    (let s := State.reset.withFetchWord 32 w
     s.agenda = [] ∧ s.cur = .host 0 ∧ (s.fetch.toOption.map (·.1)) = some (BitVec.ofNat 32 w) ∧
     (s.job (s.ctxJob s.cur)).ctl.getLsbD 63 = false ∧ s.place ((s.host 0).pc.toNat % 2 ^ 52) = .hbm ∧
     (s.host 0).pc.toNat % 4 = 0 ∧ tabFind 0 (s.host 0).icache = none ∧
     tabFind 0 ((s.modHost 0 fun h => { h with icache := [(0, toBytes 128 w)] }).host 0).icache = some (toBytes 128 w) ∧
     okAnd (s.access (s.requester s.cur) .fetch 0) (fun r => s.cacheable r.1)) ∧
    (let s := fetching (.seq 0) w
     s.agenda = [] ∧ (s.team 0).seq ≠ none ∧ (s.seqr 0).wait.passive = false ∧
     ((Spec.seqIssue s 0).fetch.toOption.map (·.1)) = some (BitVec.ofNat 32 w)) ∧
    (let s := fetching (.group 0 0 0) w
     let u := s.boundary (s.team 0).core (s.group 0 0).quarter
     s.agenda = [] ∧ (tabFind 0 s.teams).isSome ∧ u.chosenGroup (s.team 0).core (s.group 0 0).quarter = some (0, 0) ∧
     (u.group 0 0).posts = [] ∧ (u.group 0 0).overwrite = none ∧
     ((Spec.groupIssue u (0, 0)).fetch.toOption.map (·.1)) = some (BitVec.ofNat 32 w)) := by
  unfold Spec.groupIssue Spec.seqIssue
  and_intros <;> decide +kernel

/-- The issuing contexts of the last witness may issue. -/
theorem witness_contexts_run : Spec.hostIssues (State.reset.withFetchWord 32 0x2B880005) 0 ∧ Spec.runs (fetching (.seq 0) 0x2B880005) 0 ∧
    Spec.runs (fetching (.group 0 0 0) 0x2B880005) 0 := by
  refine ⟨?_, ⟨_, rfl, rfl, rfl, ?_⟩, ⟨_, rfl, rfl, rfl, ?_⟩⟩
  · unfold Spec.hostIssues
    and_intros <;> decide +kernel
  · decide +kernel
  · decide +kernel

/-- A step from reset runs the word that stands at the pc; and an event at the head of the agenda. -/
theorem test_steps :
    (match step (State.reset.withFetchWord 32 0x2B880005) with
     | .next t => decide (t.getK (.host 0) 2 = 5 ∧ (t.host 0).pc = 4)
     | _ => false) = true ∧
    (match step { State.reset with agenda := [.event (.thcapWrite 3 5)] } with
     | .next t => decide ((t.col 3).gov.thcap = 5 ∧ t.agenda = [])
     | _ => false) = true := by decide +kernel

/-- Two splits that agree, and two that differ in their window base. -/
def twoSplits (w : BitVec 5) : Group :=
  { Group.none with
    splits := [{ Split.none with valid := true, pc := 0x1000, mask := 0xF }, Split.none,
      { Split.none with valid := true, pc := 0x1000, mask := 0xF0, wbi := w }, Split.none] }

theorem witness_SplitsThatMeetMerge : 0 < 2 ∧ 2 < (twoSplits 0).splits.length ∧
    Spec.meet ((twoSplits 0).splits.getD 0 Split.none) ((twoSplits 0).splits.getD 2 Split.none) ∧
    ¬ Spec.meet ((twoSplits 1).splits.getD 0 Split.none) ((twoSplits 1).splits.getD 2 Split.none) ∧ (twoSplits 0).deferred = [] ∧
    (let s := fetching (.group 0 0 0) 0x2B880005
     s.chosenGroup 0 0 = some (0, 0) ∧ s.chosenGroup 0 1 = none ∧ (s.group 0 0).lastIssued = 3 ∧ s.splitReady 0 0 ((3 + 1) % 4) = true ∧
     s.splitReady 0 0 ((3 + 4) % 4) = false) := by
  unfold Spec.meet
  and_intros <;> decide +kernel

/-- R31: the lower entry takes the lanes of both. -/
theorem test_confluence : (((twoSplits 0).confluence).splits.getD 0 Split.none).mask = 0xFF ∧
    (((twoSplits 0).confluence).splits.getD 2 Split.none).valid = false := by decide +kernel

/-- A state that keeps the canonical form and the levels, from which a step goes on: `movi` after reset. -/
theorem witness_StepsKeepMemoryCanonical :
    Memory.wf (State.reset.withFetchWord 32 0x2B880005).mem = true ∧ isNext (step (State.reset.withFetchWord 32 0x2B880005)) = true := by
  decide +kernel

theorem witness_StepsKeepHostLevelsLegal : Spec.modesLegal State.reset ∧ isNext (step State.reset) = true := by
  refine ⟨fun c => ?_, by decide +kernel⟩
  have h : (State.reset.host c).pl = 3 ∧ (State.reset.host c).ppl = 3 := ⟨rfl, rfl⟩
  rw [h.1, h.2]
  decide

/-! ### Accesses and lines -/

/-- An access with two lanes of four bytes at the start of the page of `reaching`. -/
def twoLanes (k : AccKind) (op : BitVec 4) : Access :=
  { anAccess k 0 with
    mask := 3, op := op, dst := if k = .load ∨ k = .atomic then .v 2 1 else .none
    lanes := [{ LaneAcc.at 0 0x10000 (.phys 0x20000) with data := 7 }, { LaneAcc.at 1 0x10004 (.phys 0x20080) with data := 9 }] }

/-- Nothing is in an empty list. -/
theorem nothing {α : Type} {p : α → Prop} : ∀ x ∈ ([] : List α), p x := fun _ h => absurd h List.not_mem_nil

theorem onCore_reaching (as : List Access) : Spec.onCore (reaching as) (.group 0 0 0) := ⟨⟨_, rfl, rfl, by show 0 < 1024; decide⟩, Nat.zero_lt_one⟩

theorem due_alone {s : State} {c : Ctx} {n : Nat} {a : Access} (h : (s.ctxRegs c).outs = [a]) (hn : a.id = n) (hf : a.fault = none)
    (hp : ∀ t g p, c = .group t g p → (s.group t g).posts = []) : Spec.due s c n a :=
  ⟨⟨[], [], h, hn, nothing⟩, hf, fun t g p hc x hx => by rw [hp t g p hc] at hx; cases hx⟩

/-- The second lane of a load or an atomic meets poison, or no lane does. -/
theorem witness_AccessesAreDoneAndLinesMove_performed : ∀ k ∈ [AccKind.load, .store, .maint, .atomic],
    Spec.onCore (reaching [twoLanes k 0]) (.group 0 0 0) ∧ Spec.due (reaching [twoLanes k 0]) (.group 0 0 0) 0 (twoLanes k 0) ∧
    (twoLanes k 0).kind = k ∧ (twoLanes k 0).peer = false ∧ (twoLanes k 0).reissue = false ∧ (twoLanes k 0).typed = false ∧
    (twoLanes k 0).ro = false ∧ (reaching [twoLanes k 0]).ctxCore (.group 0 0 0) < 1024 ∧
    (∀ l ∈ (twoLanes k 0).lanes, (reaching []).poisonIn ((reaching []).locPa l.loc) 4 = none) := by
  intro k hk
  refine ⟨onCore_reaching _, due_alone rfl rfl rfl (fun t g p h => by cases h; rfl), rfl, rfl, rfl, rfl, rfl, ?_⟩
  simp only [List.mem_cons, List.not_mem_nil, or_false] at hk
  rcases hk with rfl | rfl | rfl | rfl <;> decide +kernel

theorem witness_AccessesAreDoneAndLinesMove_poison : ∃ (s : State) (a l k : _), s = { reaching [twoLanes .load 0] with poison := [0x20080 / 128] } ∧
    a = twoLanes .load 0 ∧ a.lanes = [k] ++ l :: [] ∧ s.poisonIn (s.locPa k.loc) a.size = none ∧
    s.poisonIn (s.locPa l.loc) a.size = some 0x20080 :=
  ⟨_, _, _, _, rfl, rfl, rfl, by decide +kernel⟩

/-- A store of the same lane and bytes holds a load back. -/
theorem witness_AccessesAreDoneAndLinesMove_held :
    let s := reaching [twoLanes .store 0, { twoLanes .load 0 with id := 1 }]
    (s.ctxRegs (.group 0 0 0)).outs = [twoLanes .store 0] ++ { twoLanes .load 0 with id := 1 } :: [] ∧
    (∀ x ∈ [twoLanes .store 0], x.id ≠ 1) ∧ Spec.after s 0 (twoLanes .store 0) { twoLanes .load 0 with id := 1 } := by
  unfold Spec.after
  and_intros <;> decide +kernel

/-- A poison trap and an overwrite trap are due. -/
theorem witness_AccessesAreDoneAndLinesMove_traps :
    let x : PostTrap := { cause := 8, pc := 0xFF0, mask := 1, split := 0, info := 0, accessId := 0 }
    let s := (reaching []).modGroup 0 0 fun g => { g with posts := [x], overwrite := some 5 }
    Spec.runs s 0 ∧ 0 < (s.team 0).groups.length ∧ (s.group 0 0).posts = x :: [] ∧ (s.split 0 0 x.split).valid = true ∧
    (s.group 0 0).regs.trap.tcause.getLsbD 31 = false ∧ lrTvec (s.team 0).launch ≠ 0 ∧ (s.group 0 0).overwrite = some 5 ∧
    (s.group 0 0).nextSplit = some 0 := by
  refine ⟨⟨_, rfl, rfl, rfl, ?_⟩, ?_⟩
  · decide +kernel
  · and_intros <;> decide +kernel

/-- A line that column 0 has made its own: its region entry names slice 0. -/
def homed : State :=
  let l := fun (n : Nat) => { twoLanes .store n with lanes := (twoLanes .store n).lanes.map fun x => { x with ro := true } }
  let tm := fun (c : Nat) =>
    { aTeam ({ aGroup 3 [] [] [] with regs := { Regs.zero with outs := [l 0] } }) none with core := c }
  ({ groupState 0xF [] [] [] with teams := [(0, tm 0), (1, tm 1)] }).physWrite (State.reset.regionEntry 0 0x20000) [0, 0, 0, 0x80]

theorem onCore_homed : Spec.onCore homed (.group 0 0 0) := ⟨⟨_, rfl, rfl, by decide⟩, Nat.zero_lt_one⟩

/-- R249: a write by core 1 takes the line from core 0. -/
theorem test_write_takes_the_line :
    let s := (after (.homeRequest 1 (0x20000 / 128) true) (after (.homeRequest 0 (0x20000 / 128) false) homed))
    tabFind (0x20000 / 128) (s.core 1).l1 = some .m ∧ tabFind (0x20000 / 128) (s.core 0).l1 = none := by decide +kernel

theorem witness_AccessesAreDoneAndLinesMove_wanted : Spec.onCore homed (.group 0 0 0) ∧ homed.ctxCore (.group 0 0 0) = 0 ∧
    ∃ a l, a ∈ (homed.ctxRegs (.group 0 0 0)).outs ∧ a.kind = .store ∧ l ∈ a.lanes ∧ l.ro = true ∧
      homed.locPa l.loc / 128 = 0x20000 / 128 ∧ (homed.core 0).l1.length < 2048 :=
  ⟨onCore_homed, rfl, _, _, List.mem_cons_self, rfl, List.mem_cons_self, rfl, by decide +kernel⟩

theorem witness_AccessesAreDoneAndLinesMove_lines : homed.place (128 * (0x20000 / 128)) = .hbm ∧
    homed.homeSlice 0 (128 * (0x20000 / 128)) = some 0 ∧ 7 ∉ (homed.snoopOf 0 (0x20000 / 128)).holders ∧
    (let s := homed.modCol 0 fun c => { c with coh := { c.coh with lines := [(5, .m)] } }
     tabFind 5 (s.col 0).coh.lines = some .m ∧ (s.snoopOf 0 5).owner = none) := by
  and_intros <;> decide +kernel

/-! ### Messages -/

/-- A group of a job that is valid and has a key, with barriers, armed `v8` to `v11`. -/
def receiving : State :=
  let s := groupState 0xF [(8, all 1)] [] []
  let s := s.modJob 0 fun j => { j with ctl := 2 ^ 63, key0 := 0x0123456789ABCDEF, key1 := 5 }
  s.modGroup 0 0 fun g => { g with states := [(8, .armedEmpty true), (9, .armedEmpty true), (10, .armedFull false)] }

/-- A message of a class through a capability minted in that state, of type `ty` for register or barrier `base`. -/
def aMsg (cls : MsgClass) (ty base : Nat) : Msg :=
  { receiving.capMsg receiving.cur cls (receiving.mint (BitVec.ofNat 128 (ty * 2 ^ 124 + base * 2 ^ 68 + 3 * 2 ^ 63 + 2 ^ 54))) with
    id := 4, lanes := List.replicate 32 0x77, mask := 3 }

/-- The message stands at the interface. -/
def withMsg (m : Msg) : State := { receiving with inbound := [m] }

theorem takenNow_withMsg {m : Msg} (hw : m.writeoff = false) (hq : m.seqNo = 0) (hf : m.fault = none) : Spec.takenNow (withMsg m) m := by
  refine ⟨⟨hw, [], [], rfl, nothing⟩, nothing, hf, fun _ k hk => ?_⟩
  have e : (withMsg m).undecided = [] := rfl
  rw [hq, e] at hk
  simp [tabGet, tabFind] at hk

/-- Any such message is taken now. -/
theorem takenNow_aMsg (cls : MsgClass) (ty base : Nat) : Spec.takenNow (withMsg (aMsg cls ty base)) (aMsg cls ty base) :=
  takenNow_withMsg rfl rfl rfl

/-- A put, an arrival and a message through capabilities of their types name the team. -/
theorem witness_MessagesAreTakenAtTheirDestination_put : Spec.names (withMsg (aMsg .rput 1 8)) (aMsg .rput 1 8) 0 := by
  unfold Spec.names
  decide +kernel

theorem witness_MessagesAreTakenAtTheirDestination_arrival : Spec.names (withMsg (aMsg .barRarv 3 3)) (aMsg .barRarv 3 3) 0 := by
  unfold Spec.names
  decide +kernel

theorem witness_MessagesAreTakenAtTheirDestination_message : Spec.names (withMsg (aMsg .msgs 6 0)) (aMsg .msgs 6 0) 0 := by
  unfold Spec.names
  decide +kernel

/-- Register 9 is the last armed-empty one, 10 is full, 11 is not armed; a queue with 31 messages has room. -/
theorem witness_MessagesAreTakenAtTheirDestination_states :
    Spec.putState (aMsg .rput 1 8) (receiving.group 0 0) 9 = .armedEmpty true ∧
    Spec.putState (aMsg .rput 1 8) (receiving.group 0 0) 10 = .armedFull false ∧
    Spec.putState (aMsg .rput 1 8) (receiving.group 0 0) 11 = .plain ∧ Spec.bits (aMsg .rput 1 8).cap 58 5 < (receiving.team 0).groups.length ∧
    (receiving.team 0).q4.length < 32 := by
  unfold Spec.putState
  and_intros <;> decide +kernel

/-- R27, R174: the put fills `v8` in its lanes and leaves it armed full. -/
theorem test_put_fills : let t := after (.putArrival 4) (withMsg (aMsg .rput 1 8))
    vLane t 8 1 = 0x77 ∧ vLane t 8 2 = 1 ∧ tabGet .plain 8 (t.group 0 0).states = .armedFull true ∧ t.inbound = [] := by decide +kernel

/-- A job that is off, a tag with a bit changed, a handle of no team. -/
theorem witness_MessagesAreTakenAtTheirDestination_refused :
    (let m := aMsg .rput 1 8
     let s := (withMsg m).modJob 0 fun j => { j with ctl := 0 }
     (s.job m.job.toNat).ctl.getLsbD 63 = false) ∧
    (let m := { aMsg .rput 1 8 with cap := (aMsg .rput 1 8).cap ^^^ 1 }
     (receiving.job m.job.toNat).ctl.getLsbD 63 = true ∧ (receiving.job m.job.toNat).ctl.toNat / 2 ^ 32 % 2 ^ 16 = 0 ∧
     m.cap.toNat % 2 ^ 32 ≠ capTag ((receiving.job 0).key0.toNat + 2 ^ 64 * (receiving.job 0).key1.toNat) (m.cap.toNat / 2 ^ 32)) ∧
    ({ receiving with teams := [] }).findTeam (Spec.bits (aMsg .rput 1 8).cap 94 10) (Spec.bits (aMsg .rput 1 8).cap 78 16) = none := by
  and_intros <;> decide +kernel

/-- A remote request for an address of the page of ASID 0. -/
def aRequest (cls : MsgClass) : Msg :=
  { receiving.newMsg receiving.cur cls with id := 4, addr := 0x10008, bytes := [1, 2, 3, 4], size := 4, lanes := [0x10008, 4] }

/-- The page at 0x10000 in the last-level TLB of tower 0. -/
def diePage (e : DWord) : List TlbEntry := [{ unit := .die 0, asid := 0, page := 1, entry := e, level := 0 }]

/-- The request is admitted with the page that permits everything, and refused with one that permits nothing. -/
def requestOk (cls : MsgClass) (ty : AccType) : Prop :=
  let m := aRequest cls
  let s := { withMsg m with tlb := diePage 0x200F2 }
  (s.job m.job.toNat).ctl.getLsbD 63 = true ∧ (s.job m.job.toNat).fwctl.getLsbD 0 = false ∧ m.phys = false ∧ m.lanes = [0x10008, 4] ∧
  m.bytes.length = (4 : DWord).toNat ∧ (s.access (engineFor m.job.toNat (dieVia m.dtwr.toNat)) ty m.addr).toOption.map (·.1) = some { pa := 0x20008, entry := 0x200F2 } ∧
  s.isPoisoned 0x20008 = false ∧
  (({ s with tlb := diePage 0x20002 }).access (engineFor m.job.toNat (dieVia m.dtwr.toNat)) ty m.addr).toOption = none

theorem witness_MessagesAreTakenAtTheirDestination_requests :
    requestOk .stp .write ∧ requestOk .atomp .atomic ∧ requestOk .ldp .read ∧ requestOk .chunk .write := by
  unfold requestOk
  and_intros <;> decide +kernel

/-- The same message twice, the second with the next number. -/
theorem witness_MessagesAreTakenAtTheirDestination_again (m n : Msg) (hm : m.writeoff = false) (hq : m.seqNo = 0)
    (hn : n = { m with id := m.id + 1, seqNo := m.seqNo + 1 }) :
    Spec.arrived? { receiving with inbound := [m], outcomes := [{ stream := recvStream m, seqNo := m.seqNo, status := some 0, away := none }] } m ∧
    Spec.arrived? { receiving with inbound := [n, m] } n ∧ Spec.undecided { receiving with inbound := [n, m] } n ∧
    ¬ Spec.inTurn { receiving with inbound := [n, m] } n := by
  subst hn
  refine ⟨⟨hm, [], [], rfl, nothing⟩, ⟨hm, [], [m], rfl, nothing⟩, nothing, fun h => ?_⟩
  have h1 := h.2 (by show (m.seqNo + 1 - 0).toNat < 65536; rw [hq]; decide) 0 (by show 0 < (m.seqNo + 1 - 0).toNat; rw [hq]; decide)
  rcases h1 with ⟨o, ho, -⟩ | ⟨e, he, -, -, ht, hs⟩
  · cases ho
  · have he : e ∈ [_, m] := he
    simp only [List.mem_cons, List.not_mem_nil, or_false] at he
    rcases he with rfl | rfl
    · have hs : m.seqNo + 1 = 0 + 0 := hs
      rw [hq] at hs
      exact absurd hs (by decide)
    · exact ht rfl

/-- A chunk lies in one page; a first request of its line goes before no other. -/
theorem witness_MessagesAreTakenAtTheirDestination_chunk : (0x1FFFC : DWord).toNat % 65536 + (4 : DWord).toNat ≤ 65536 ∧
    (∃ x ∈ ([{ stream := 0, seqNo := 0, status := none, away := some (.redirect 1 true 0) }] : List Outcome), x.away ≠ none) := by
  decide

/-! ### At the sender -/

/-- A message waits to be acknowledged, for a token of the group, since `first`; and it has an answer. -/
def waiting (first : Nat) (now : Nat) (comp : Completion) (answers : List AckKind) : State :=
  { sending 0 0 1 with
    now := now, sent := [{ msg := { aRequest .stp with id := 9 }, port := none, comp := comp, first := first, resent := false, writeoffs := 0, lastWriteoff := 0 }],
    acks := answers.map fun k => { id := 9, kind := k, xlate := none } }

/-- The message of `waiting`. -/
def theSent (comp : Completion) (first : Nat) : SentMsg :=
  { msg := { aRequest .stp with id := 9 }, port := none, comp := comp, first := first, resent := false, writeoffs := 0, lastWriteoff := 0 }

theorem onCore_waiting (f n : Nat) (comp : Completion) (ks : List AckKind) : Spec.onCore (waiting f n comp ks) (.group 0 0 0) :=
  ⟨⟨_, rfl, rfl, by decide⟩, Nat.zero_lt_one⟩

/-- Any answer stands first for the message, for a token or an access of the group. -/
theorem witness_MessagesEndOnceAtTheirSender_answers (k : AckKind) (comp : Completion)
    (hc : (waiting 0 100 comp [k]).compHeld comp = false) :
    Spec.answered (waiting 0 100 comp [k]) 9 (theSent comp 0) { id := 9, kind := k, xlate := none } :=
  ⟨⟨[], [], rfl, rfl, nothing⟩, ⟨[], [], rfl, rfl, nothing⟩, hc⟩

theorem witness_MessagesEndOnceAtTheirSender_held :
    (waiting 0 100 (.token (.group 0 0 0) 1) [.accepted]).compHeld (.token (.group 0 0 0) 1) = false ∧
    (waiting 0 100 (.access (.group 0 0 0) 0 1) [.accepted]).compHeld (.access (.group 0 0 0) 0 1) = false ∧
    (theSent (.token (.group 0 0 0) 1) 0).msg.redirects < 4 ∧ (theSent (.token (.group 0 0 0) 1) 0).msg.cls = .stp := by decide +kernel

/-- The times of R309: 50, 100 and 1000 µs to the nanosecond. -/
theorem witness_MessagesEndOnceAtTheirSender_times (now : Nat) (h : now ∈ [50000, 100000, 1000000]) (comp : Completion) :
    Spec.waits (waiting 0 now comp []) 9 (theSent comp 0) ∧ (theSent comp 0).resent = false ∧ (theSent comp 0).first + 50000 ≤ now ∧
    (theSent comp 0).writeoffs = 0 := by
  refine ⟨⟨[], [], rfl, rfl, nothing⟩, rfl, ?_, rfl⟩
  show 0 + 50000 ≤ now
  simp only [List.mem_cons, List.not_mem_nil, or_false] at h
  omega

/-- R309, R33: a decided message completes its token. -/
theorem test_ack_completes : let t := after (.messageAck 9) (waiting 0 100 (.token (.group 0 0 0) 1) [.decided 3 0 false 0])
    tabGet Token.zero 1 (t.ctxRegs (.group 0 0 0)).tok = { count := 0, status := 3, info := 0 } ∧ t.sent = [] := by decide +kernel

/-- A WRITEOFF of a message that is undecided, and of one whose outcome is kept. -/
theorem witness_MessagesEndOnceAtTheirSender_writeoff :
    let w := { aRequest .stp with writeoff := true }
    let o : Outcome := { stream := recvStream w, seqNo := w.seqNo, status := some 0, away := none }
    { receiving with inbound := [w] }.inbound = [] ++ w :: [] ∧ w.writeoff = true ∧ Spec.undecided { receiving with inbound := [w] } w ∧
    { receiving with inbound := [w], outcomes := [o] }.outcomes = [] ++ o :: [] ∧ o.status = some 0 :=
  ⟨rfl, rfl, nothing, rfl, rfl⟩

/-- The one message of `waiting` is the first for its line. -/
theorem witness_MessagesEndOnceAtTheirSender_first (now : Nat) (comp : Completion) (k : AckKind) :
    Spec.firstOut (waiting 0 now comp [k]) (theSent comp 0) := by
  intro pre y post h _ hy
  have hm : y ∈ [theSent comp 0] := by
    have : [theSent comp 0] = pre ++ y :: post := h
    rw [this]
    exact List.mem_append_right _ List.mem_cons_self
  simp only [List.mem_singleton] at hm
  exact absurd (congrArg (fun z => z.msg.id) hm) hy

/-- A kept translation of page 1 of node 9, and a request that went by it. -/
def xlated (kept : Bool) : State :=
  { waiting 0 0 (.token (.group 0 0 0) 1) [] with
    sent := [{ msg := { aRequest .stp with id := 9, onode := 2, ova := 0x10008, kept := kept }, port := none, comp := .token (.group 0 0 0) 1,
               first := 0, resent := false, writeoffs := 0, lastWriteoff := 0 }] }

theorem witness_MessagesEndOnceAtTheirSender_invalidations :
    let v : Inval := { out := false, node := 1, target := 2, job := 0, page := some 1, flood := false, acked := false }
    let s := { xlated true with invals := [v] }
    s.invals[0]? = some v ∧ Spec.wentThrough s v ∧ ¬ Spec.wentThrough { xlated false with invals := [v] } v := by
  intro v s
  refine ⟨rfl, ⟨_, List.mem_cons_self, rfl, ?_, .inl ⟨?_, .inr ?_⟩⟩, ?_⟩
  · decide +kernel
  · decide +kernel
  · decide +kernel
  · rintro ⟨x, hx, hk, -⟩
    have hx : x ∈ (xlated false).sent := hx
    simp only [xlated, List.mem_singleton] at hx
    subst hx
    cases hk

/-- A packet of router `16 t + 15` with a credit, old enough to be urgent. -/
theorem witness_MessagesEndOnceAtTheirSender_packets : ∃ (s : State) (p : Packet),
    ((headPackets (s.output 3).packets []).filter fun q => 0 < tabGet 0 q.buffer (s.output 3).credits) ≠ [] ∧
    p ∈ headPackets (s.output 3).packets [] ∧ p.ageAt s.now = 255 ∧ p.dst < 128 ∧ p.dst / 16 ≠ 7 ∧ p.chan ≠ .mgmt := by
  let p : Packet := { id := 1, chan := .msg, cls := 3, dst := 17, exit := none, via := none, nonmin := false, input := 0, age := 255,
                      arrived := 0, headAt := 0 }
  exact ⟨{ State.reset with egress := [(3, { packets := [p], lastServed := [], credits := [(p.buffer, 1)] })] }, p, by decide +kernel⟩

/-- R299, R300: a message of column 2 of tower 0 to column 9 of tower 5 takes the UCIe port of its die first. -/
theorem test_route_row_first :
    let p : Packet := { id := 1, chan := .msg, cls := 3, dst := 16 * 5 + 9, exit := none, via := none, nonmin := false, input := 0, age := 0,
                        arrived := 0, headAt := 0 }
    p.hop 15 = 16 * 4 + 15 ∧ p.hop (16 * 4 + 15) = 16 * 5 + 15 := by decide

/-! ### Waves and gauges -/

/-- Job 0 with a wave: `ctl` is WVCTL, two children, the snapshots of the towers (all zero but tower 0's) and the replies that have come. -/
def waving (ctl : DWord) (kids : DWord) (running : Bool) (pass : DWord) (own : DWord × DWord × DWord)
    (replies : List (BitVec 20 × DWord × DWord × DWord × Bool)) : State :=
  let snaps := (List.range 8).map fun v => (v, if v = 0 then (own.1, own.2.1, own.2.2, false) else (0, 0, 0, false))
  (seqState [] []).modJob 0 fun j => { j with
    wvctl := ctl, wvkids := kids, wvkid := [(0, 11), (1, 12)],
    wave := { j.wave with running := running, pass := pass, snaps := snaps, replies := replies } }

/-- A pass starts at the root, with no pass before and after 8 units of time. -/
theorem witness_WavesDecideAndGaugesAct_start : ∀ s ∈ [waving 0xC000000000000000 0 false 0 (0, 0, 0) [],
      { waving 0xC000000000000000 2 false 3 (0, 0, 0) [] with now := 2000 }],
    let w := (s.job 0).wave
    (s.job 0).wvctl.getLsbD 63 = true ∧ (s.job 0).wvctl.getLsbD 62 = true ∧ w.running = false ∧
    (w.pass = 0 ∨ w.started + 250 * (if (s.job 0).wvctl.toNat % 2 ^ 16 = 0 then 8 else (s.job 0).wvctl.toNat % 2 ^ 16) ≤ s.now) ∧
    s.teams.length = 1 ∧ (s.team 0).state = .resident ∧ s.budgetLeft 0 2 = true := by decide +kernel

/-- The one team is neither saved nor restored. -/
theorem jobStill_waving (c k : DWord) (r : Bool) (p : DWord) (o : DWord × DWord × DWord)
    (l : List (BitVec 20 × DWord × DWord × DWord × Bool)) : Spec.jobStill (waving c k r p o l) 0 := by
  rintro e he -
  rw [List.mem_singleton.1 he]
  exact ⟨nofun, nofun⟩

/-- A WAVE of a later pass, one of the same, and one for a job whose wave is off. -/
theorem witness_WavesDecideAndGaugesAct_wave :
    let s := { waving 0x8000000300000000 2 false 3 (0, 0, 0) [] with waves := [.wave 0 4, .wave 0 3] }
    let o := { waving 0 2 false 3 (0, 0, 0) [] with waves := [.wave 0 4] }
    s.waves[0]? = some (.wave 0 4) ∧ s.waves[1]? = some (.wave 0 3) ∧ (s.job 0).wvctl.getLsbD 62 = false ∧
    (s.job 0).wvctl.getLsbD 63 = true ∧ (s.job 0).wave.pass.toNat < (4 : DWord).toNat ∧
    (3 : DWord).toNat ≤ (s.job 0).wave.pass.toNat ∧ (o.job 0).wvctl.getLsbD 63 = false := by
  refine ⟨rfl, rfl, ?_⟩
  decide +kernel

/-- Tower 5 has still to be reached by the pass, and by no later one. -/
theorem witness_WavesDecideAndGaugesAct_snapshot :
    let s := (waving 0xC000000000000000 2 true 4 (0, 0, 0) []).modJob 0 fun j => { j with wave := { j.wave with snaps := [(0, 1, 1, 0, false)] } }
    (s.job 0).wave.running = true ∧ tabFind 5 (s.job 0).wave.snaps = none ∧ s.teams.length = 1 ∧ (s.team 0).state = .resident := by
  decide +kernel

/-- R314: the snapshot of a tower is that of its own counters. -/
theorem test_tower_snapshot :
    let s := ((waving 0xC000000000000000 2 true 4 (0, 0, 0) []).modJob 0 fun j => { j with wave := { j.wave with snaps := [] } }).modTowerJob 5 0
      fun x => { x with inj := 9 }
    tabFind 5 ((s.towerSnapshot 0 5).job 0).wave.snaps = some (9, 0, 0, false) ∧ tabFind 4 ((s.towerSnapshot 0 5).job 0).wave.snaps = none := by
  decide +kernel

/-- A reply that is not the last, the last at an inner node, and the last at the root, of sums 7 = 5 + 2. -/
theorem witness_WavesDecideAndGaugesAct_reply :
    (∀ s ∈ [waving 0x8000000300000000 2 true 4 (1, 1, 0) [], waving 0x8000000300000000 2 true 4 (1, 1, 0) [(12, 2, 1, 1, false)],
        waving 0xC000000000000000 2 true 4 (1, 1, 0) [(12, 2, 1, 1, false)]],
      (s.job 0).wvctl.getLsbD 63 = true ∧ (s.job 0).wave.running = true ∧ (s.job 0).wave.pass = 4 ∧
      ((s.job 0).wave.replies = [] ∨ (s.job 0).wave.replies = [(12, 2, 1, 1, false)]) ∧ 11 ∈ Spec.kids s 0 ∧
        (s.job 0).wave.snaps.length = 8) ∧
    ((waving 0x8000000300000000 2 true 4 (1, 1, 0) []).job 0).wave.replies = [] ∧
    ((waving 0x8000000300000000 2 true 4 (1, 1, 0) []).job 0).wvctl.getLsbD 62 = false ∧
    ((waving 0xC000000000000000 2 true 4 (1, 1, 0) []).job 0).wvctl.getLsbD 62 = true := by
  unfold Spec.kids
  and_intros <;> decide +kernel

/-- R315: a pass whose sums are those of the pass before, 7 = 5 + 2, is quiet; R177: the token of the wait reads it. -/
def quietRoot : State :=
  let s := { waving 0xC000000000000000 1 true 4 (3, 2, 1) [] with waves := [.reply 0 4 11 4 3 1 false] }
  s.modJob 0 fun j => { j with wave := { j.wave with prev := some (7, 5, 2) } }

theorem test_quiet_decision : ((after (.reply 0) quietRoot).towerJob 5 0).qpass = 4 ∧
    ((after (.reply 0) quietRoot).job 0).wave.prev = some (7, 5, 2) := by decide +kernel

/-- A QUIET of pass 4 ends a `waitq` of pass 2 at `k2`. -/
theorem witness_WavesDecideAndGaugesAct_quiet :
    let s := { (waving 0x8000000300000000 2 false 4 (0, 0, 0) []).modSeq 0 fun q => { q with wait := .waitq 98 2 0 } with
      waves := [.quiet 0 4 1 false] }
    s.waves[0]? = some (.quiet 0 4 1 false) ∧ (s.job 0).wvctl.getLsbD 63 = true ∧ (s.towerJob 0 0).qpass.toNat < (4 : DWord).toNat ∧
    Spec.jobStill s 0 ∧ (s.teams.map (·.1)).Nodup ∧ Spec.onCore s (.seq 0) ∧ lrJob (s.team 0).launch = 0 ∧
    (s.seqr 0).wait = .waitq 98 2 0 ∧ (2 : DWord).toNat + 1 < (4 : DWord).toNat := by
  refine ⟨rfl, ?_, ?_, ?_, ?_, ⟨⟨_, rfl, rfl, by show 0 < 1024; decide⟩, rfl⟩, ?_⟩
  · decide +kernel
  · decide +kernel
  · unfold Spec.jobStill; decide +kernel
  · decide +kernel
  · and_intros <;> decide +kernel

/-- R177: the status is 8 where messages were lost since the `waitq`. -/
theorem test_waitq_ends :
    let s := { (waving 0x8000000300000000 2 false 4 (0, 0, 0) []).modSeq 0 fun q => { q with wait := .waitq 98 2 0 } with
      waves := [.quiet 0 4 1 false] }
    (after (.quiet 0) s).getK (.seq 0) 2 = 0x400000008 ∧ ((after (.quiet 0) s).seqr 0).pc = 0x2004 := by decide +kernel

theorem witness_WavesDecideAndGaugesAct_resend :
    let s := { waving 0xC000000000000000 2 true 4 (1, 1, 0) [(12, 2, 1, 1, false)] with waveOut := [(11, .wave 0 4)], now := 20000 }
    s.waveOut[0]? = some (11, .wave 0 4) ∧ (s.job 0).wave.running = true ∧ (s.job 0).wave.pass = 4 ∧
    (∀ r ∈ (s.job 0).wave.replies, r.1 ≠ 11) ∧ tabGet 0 11 (s.job 0).wave.sentAt + 20000 ≤ s.now ∧ s.budgetLeft 0 2 = true := by
  refine ⟨rfl, rfl, rfl, fun r hr => ?_, by decide +kernel⟩
  rw [List.mem_singleton.1 hr]
  decide

/-- A parameter block with a barrier capability and a line capability of job 0. -/
def block : List Byte :=
  List.replicate 16 0 ++ toBytes 16 (3 * 2 ^ 124 + 2 ^ 54) ++ toBytes 16 (5 * 2 ^ 124 + 2 ^ 54) ++ List.replicate 80 0

/-- A memory gauge whose writes have still to be counted, with every action flagged or none. -/
def counting (action : BitVec 4) (bytes : List Nat) : State :=
  { State.reset with
    mgauges := [(0, aGauge 4096 0 6 action block)], counts := bytes.map fun b => .mem 0 0 b }

/-- R183's example: TOTAL 4096; 3072 bytes and 2048 more leave COUNT 1024 and GEN 7. -/
theorem test_gauge_counts : ((after (.gaugeCount 0) (after (.gaugeCount 0) (counting 0 [3072, 2048]))).mgauges.map fun e =>
    (e.2.count, e.2.gen)) = [(1024, 7)] := by decide +kernel

theorem witness_WavesDecideAndGaugesAct_count :
    (counting 0 [3072]).counts[0]? = some (.mem 0 0 3072) ∧
    (∃ g, tabFind (256 * 0 + 0) (counting 14 [4096]).mgauges = some g ∧ g.total ≠ 0 ∧ (g.count.toNat + 4096) / g.total.toNat = 1 ∧
      firingErr g.job.toNat g.action.toNat (some g.params) = 0 ∧ g.action.getLsbD 3 = true ∧ g.action.getLsbD 1 = true) ∧
    firingErr 0 0 (some block) = 0 ∧ (3072 + 0) / 4096 = 0 := by
  refine ⟨rfl, ⟨_, rfl, ?_⟩, ?_⟩ <;> decide +kernel

theorem witness_WavesDecideAndGaugesAct_vault :
    let s := { (seqState [] []).physWrite ((seqState [] []).vaultPa 0 0) [16, 0, 0, 0] with counts := [.vault 0 0 40] }
    s.counts[0]? = some (.vault 0 0 40) ∧ (∃ x, tabFind 0 s.teams = some x ∧ x.state = .resident) ∧ s.vaultNat 0 0 4 ≠ 0 :=
  ⟨rfl, ⟨_, rfl, rfl⟩, by decide +kernel⟩

/-- A store of a gauge's firing. -/
def aStore (va : Nat) (cap : BitVec 128) : GaugeStore :=
  { col := 0, job := 0, pri := 0, va := va, gen := 7, cap := cap, launch := launch, record := 0, due := 0, late := 0, id := 0, fault := none }

/-- The page of `onePage` in the TLB of column 0. -/
def colPage : List TlbEntry := [{ unit := .column 0, asid := 0, page := 1, entry := 0x200F2, level := 0 }]

theorem witness_WavesDecideAndGaugesAct_notify : ∀ va ∈ [0x10004, 0x10006],
    let s := { State.reset with tlb := colPage, notifies := [aStore va 0] }
    s.notifies[0]? = some (aStore va 0) ∧ (aStore va 0).fault = none ∧ ¬ Spec.storeBefore (aStore va 0) (s.notifies.take 0) ∧
    (aStore va 0).late = 0 ∧ (State.access { State.reset with tlb := colPage } (engineFor 0 (colVia 0)) .write 0x10004).isOk = true ∧
    (State.reset.host 0).q6.length < 64 := by
  intro va _
  refine ⟨rfl, rfl, ?_, rfl, ?_⟩
  · rintro ⟨p, hp, _⟩
    cases hp
  · decide +kernel

theorem witness_WavesDecideAndGaugesAct_launch :
    let c := receiving.mint (BitVec.ofNat 128 (5 * 2 ^ 124))
    let s := { receiving with glaunches := [aStore 0 c] }
    s.glaunches[0]? = some (aStore 0 c) ∧ (aStore 0 c).due ≤ s.now ∧ ¬ Spec.storeBefore (aStore 0 c) (s.glaunches.take 0) ∧
    Spec.bits c 104 20 = s.node.toNat ∧ (s.job (Spec.bits c 43 8)).ctl.getLsbD 63 = true ∧ s.tagGood (Spec.bits c 43 8) c = true := by
  refine ⟨rfl, Nat.le_refl _, ?_, ?_⟩
  · rintro ⟨p, hp, _⟩
    cases hp
  · decide +kernel

/-! ### Launches and teams -/

/-- A launch for `k2` of a team's sequencer at column 0, with job 0 valid. -/
def requesting (r : BitVec 512) (f : Column → Column) : State :=
  let s := (seqState [] []).modJob 0 fun j => { j with ctl := 2 ^ 63 }
  let s := s.modCol 0 f
  { s with launches := [{ who := some (.seq 0), cap := none, reg := 98, col := 0, launch := r, user := true, job := 0, pri := 0 }] }

/-- A line that is full. -/
def aLine (r : BitVec 512) : Line := { launch := r, handle := 1, user := true, code := [] }

/-- R224, R225: a record that is fine, with a free line, a full one, a draining column and a retired one; and a record with a
reserved bit, another job's, one above the launcher's priority and one with a misaligned entry. -/
theorem witness_LaunchesBecomeTeams_store :
    (∀ s ∈ [requesting launch id, requesting launch fun c => { c with lines := [(0, aLine launch)] }],
      s.recordDenied launch true 0 0 = false ∧ (s.col 0).svc.retired = false ∧ (s.col 0).svc.failed = false ∧ (s.col 0).svc.drain = false) ∧
    tabFind (lrPri launch) ((requesting launch id).col 0).lines = none ∧
    (tabFind (lrPri launch) ((requesting launch fun c => { c with lines := [(0, aLine launch)] }).col 0).lines).isSome = true ∧
    ((requesting launch fun c => { c with svc := { c.svc with retired := true } }).col 0).svc.retired = true ∧
    ((requesting launch fun c => { c with svc := { c.svc with drain := true } }).col 0).svc.drain = true ∧
    Spec.refusedRecord (requesting (launch + 2) id) (launch + 2) true 0 0 ∧
    Spec.refusedRecord (requesting launch id) (launch + BitVec.ofNat 512 (2 ^ 448)) true 0 0 ∧
    Spec.refusedRecord (requesting launch id) (launch + BitVec.ofNat 512 (2 ^ (256 + 56))) true 0 0 ∧
    Spec.refusedRecord (requesting launch id) (launch + BitVec.ofNat 512 (2 ^ (256 + 53))) true 0 0 := by
  unfold Spec.refusedRecord
  and_intros <;> decide +kernel

theorem witness_LaunchesBecomeTeams_issuer : Spec.onCore (requesting launch id) (.seq 0) ∧ ((requesting launch id).launches[0]?).isSome = true :=
  ⟨⟨⟨_, rfl, rfl, by show 0 < 1024; decide⟩, rfl⟩, rfl⟩

/-- R225: the first handle of column 0 is 0, and GSEQ goes on. -/
theorem test_launch_answers : ((after (.launchLineStore 0) (requesting launch id)).getK (.seq 0) 2) = 0 ∧
    ((after (.launchLineStore 0) (requesting launch id)).col 0).gseq = 1 ∧
    ((after (.launchLineStore 0) (requesting launch fun c => { c with lines := [(0, aLine launch)] })).getK (.seq 0) 2) = 6 := by
  decide +kernel

/-- The launch with an aggregation key. -/
def keyed : BitVec 512 := launch + BitVec.ofNat 512 (5 * 2 ^ (192 + 48))

/-- A batch of `n` records, opened at 0. -/
def aBatch (n : Nat) : Batch := { opened := 0, records := List.replicate n (1, keyed), code := [], closed := false, fault := none }

/-- A column with a full line of a record, with grids and batches. -/
def lined (r : BitVec 512) (grids : Nat) (batches : Tab Batch) (now : Nat) : State :=
  { (State.reset).modCol 0 fun c => { c with
      lines := [(0, aLine r)], batches := batches, aggbase := [(0, 0x10000)],
      grids := List.replicate grids { parts := [Spec.newPart 1 launch 0], slot := none, code := [], poolFull := false } } with
    now := now, tlb := colPage }

/-- Thirty-one grids leave room and thirty-two do not; a batch of 63 takes the last record. -/
theorem witness_LaunchesBecomeTeams_take :
    (∀ s ∈ [lined launch 31 [] 0, lined launch 32 [] 0], (tabFind 0 (s.col 0).lines).map (·.launch) = some launch) ∧ lrAggkey launch = 0 ∧
    ((lined launch 31 [] 0).col 0).grids.length = 31 ∧ ((lined launch 32 [] 0).col 0).grids.length = 32 ∧
    lrAggkey keyed = 5 ∧ lrDep keyed = false ∧ ((lined keyed 0 [(0, aBatch 63)] 1999).col 0).aggOf 0 ≠ 0 ∧
    (aBatch 63).takes 1999 keyed = true := by
  and_intros <;> decide +kernel

/-- A batch of one record after 2000 ns, and one of 64 at once. -/
theorem witness_LaunchesBecomeTeams_close :
    (∀ s ∈ [lined launch 0 [(0, aBatch 1)] 2000, lined launch 0 [(0, aBatch 64)] 0],
      (s.access (engineFor 0 (colVia 0)) .write ((((s.col 0).aggOf 0).toNat + 4096 * 0) % 2 ^ 57)).isOk = true) ∧
    tabFind 0 ((lined launch 0 [(0, aBatch 1)] 2000).col 0).batches = some (aBatch 1) ∧
    tabFind 0 ((lined launch 0 [(0, aBatch 64)] 0).col 0).batches = some (aBatch 64) :=
  ⟨by decide +kernel, rfl, rfl⟩

/-- R276: the record stands in the table, and the batch is closed. -/
theorem test_batch_closes : ofBytes ((after (.aggregationBatchClose 0 0) (lined launch 0 [(0, aBatch 1)] 2000)).physRead 0x20000 64) = keyed.toNat := by
  decide +kernel

theorem witness_LaunchesBecomeTeams_notice :
    let q : Notice := { col := 0, job := 0, va := 0x10008, value := 7, grid := 1, fault := none }
    let s := { State.reset with tlb := colPage, notices := [q] }
    s.notices[0]? = some q ∧ q.fault = none ∧ (State.access { State.reset with tlb := colPage } (engineFor 0 (colVia 0)) .write 0x10008).isOk = true :=
  ⟨rfl, rfl, by decide +kernel⟩

/-- A grid of one team, with nothing on the package, and a package whose first tower is without power. -/
def placing (powered : Bool) (now : Nat) : State :=
  let s := { lined launch 1 [] now with tlb := [] }
  let s := s.modJob 0 fun j => { j with ctl := 2 ^ 63 }
  let s := s.modCol 0 fun c => { c with lines := [], heads := [(0, false, 1, 0)] }
  if powered then s else (upto 8).foldl (fun s k => s.modTower k fun w => { w with powered := false }) s

/-- Where the one team goes. -/
def aChoice : List PlaceChoice := [{ voff := 0, slot := 0, save := 0, banks := [] }]

theorem witness_LaunchesBecomeTeams_place :
    let s := placing true 0
    let s' := ((s.noteHeads 0).cands 0).foldl (fun s c => s.notePool 0 c) (s.noteHeads 0)
    (s.col 0).svc.retired = false ∧ (s.col 0).svc.failed = false ∧ (s.tower 0).powered = true ∧
    s'.nextCand 0 = some (.grid 0 0) ∧ ((s'.col 0).partAt 0 0).isSome = true ∧
    (s'.placeCand 0 (.grid 0 0) false aChoice).map (·.1) = some [0] := by
  and_intros <;> decide +kernel

/-- R275, R280: the team starts at the entry of its record. -/
theorem test_place :
    let t := after (.clusterPlace 0 aChoice) (placing true 0)
    (t.team 0).state = .resident ∧ (t.split 0 0 0).mask = 0xFFFFFFFF ∧ (t.team 0).grid = 1 := by decide +kernel

/-- After 64 µs at the head. -/
theorem witness_LaunchesBecomeTeams_wait :
    let s := placing false 64000
    let s' := s.noteHeads 0
    s'.headOf 0 0 = some (.grid 0 0) ∧ tabFind 0 (s'.col 0).heads = some (false, 1, 0) ∧ 0 + s'.pwait 0 ≤ s.now ∧
    s'.candFits 0 (.grid 0 0) = false := by
  and_intros <;> decide +kernel

/-- A group that may issue and has been passed over `n` times; and one with no work left. -/
theorem witness_TeamsEndAndAreSaved_groups :
    let s := fun n => (groupState 0xF [] [] []).modGroup 0 0 fun g => { g with waitingIssue := n }
    let e := (seqState [] []).modGroup 0 0 fun g => { g with splits := [] }
    Spec.runs (s 48) 0 ∧ (∀ t ∈ [s 48, s 47], 0 < (t.team 0).groups.length ∧ (t.group 0 0).ready = true) ∧
    ((s 48).group 0 0).waitingIssue = 48 ∧ ((s 47).group 0 0).waitingIssue = 47 ∧
    Spec.onCore e (.group 0 0 0) ∧ (e.group 0 0).retired = false ∧ (e.group 0 0).splits = [] ∧ (e.group 0 0).deferred = [] ∧
    (e.group 0 0).regs.outs = [] ∧ (e.group 0 0).posts = [] ∧ (e.group 0 0).regs.tok = [] ∧
    (∃ p ∈ ((s 48).group 0 0).splits, p.valid = true) := by
  refine ⟨⟨_, rfl, rfl, rfl, ?_⟩, ?_, rfl, rfl, ⟨⟨_, rfl, rfl, by show 0 < 1024; decide⟩, Nat.zero_lt_one⟩, rfl, rfl, rfl, rfl, rfl, rfl, ?_⟩
  · decide +kernel
  · decide +kernel
  · decide +kernel

/-- A team that is done, and one that is not. -/
theorem witness_TeamsEndAndAreSaved_team :
    let s := (groupState 0xF [] [] []).modGroup 0 0 fun g => { g with retired := true }
    (∃ x, tabFind 0 s.teams = some x ∧ x.state = .resident ∧ (∀ g ∈ x.groups, g.retired = true) ∧ x.seq = none) ∧
    (∃ x, tabFind 0 (groupState 0xF [] [] []).teams = some x ∧ x.state = .resident ∧ ∃ g ∈ x.groups, g.retired = false) := by
  refine ⟨⟨_, rfl, rfl, ?_, rfl⟩, ⟨_, rfl, rfl, ?_⟩⟩ <;> decide +kernel

/-- A team with a save record, in a state, at a time, with a limit for its job and a swap threshold reached or not. -/
def savable (st : TeamState) (now : Nat) (wdog : DWord) (f : Team → Team) : State :=
  let s := (groupState 0xF [] [] []).modTeam 0 fun t => f { t with recPa := 0x40000, state := st }
  { s.modJob 0 fun j => { j with wdog := wdog } with now := now }

/-- A limit of 100 µs, at it and 1 ns before. -/
theorem witness_TeamsEndAndAreSaved_watchdog :
    (∀ s ∈ [savable .resident 100000 100 id, savable .resident 99999 100 id, savable .resident 100000 0 id],
      ∃ x ∈ s.teams, tabFind 0 s.teams = some x.2 ∧ x.2.state = .resident ∧ x.2.halted = false ∧ x.2.fatal = 0 ∧ x.2.recPa ≠ 0 ∧ x.2.rank < 16) ∧
    [savable .resident 100000 100 id, savable .resident 99999 100 id].map (fun s =>
      (((s.team 0).residentNs + (s.now - (s.team 0).residentSince)) / 1000, (s.job 0).wdog.toNat)) = [(100, 100), (99, 100)] := by
  refine ⟨fun s hs => ?_, by decide +kernel⟩
  simp only [List.mem_cons, List.not_mem_nil, or_false] at hs
  rcases hs with rfl | rfl | rfl <;> exact ⟨_, List.mem_singleton.2 rfl, rfl, rfl, rfl, rfl, by decide, by decide⟩

/-- R236: the cause stands in the trap registers. -/
theorem test_watchdog : ((after (.watchdog 0) (savable .resident 100000 100 id)).group 0 0).regs.trap.tcause = 0xC000000F := by decide +kernel

/-- A group that has waited in a barrier for more than 16 µs. -/
def swappable : State :=
  (savable .resident 16001 0 id).modSplit 0 0 0 fun p => { p with wait := .barrier 1 false }

theorem witness_TeamsEndAndAreSaved_swap :
    (tabFind 0 swappable.teams).isSome = true ∧ swappable.swapHolds (swappable.team 0).cluster = true ∧
    (∀ u ∈ swappable.clusterTeams (swappable.team 0).cluster, (swappable.team u).halted = false) ∧
    ((swappable.col (swappable.wakeCol (swappable.team 0).cluster)).wakes.filter fun w => w.swap).length < 256 := by
  and_intros <;> decide +kernel

/-- A halted team stands; it is saved, and it is read back. -/
theorem witness_TeamsEndAndAreSaved_save :
    (let s := savable .resident 0 0 fun t => { t with halted := true, reason := 2 }
     (tabFind 0 s.teams).isSome = true ∧ (s.team 0).reason ≠ 1 ∧
     ∀ u ∈ s.clusterTeams (s.team 0).cluster, (s.team u).recPa ≠ 0 ∧ s.stands u = true) ∧
    (let s := savable .saving 0 0 fun t => { t with halted := true, reason := 2 }
     (tabFind 0 s.teams).isSome = true ∧ (s.team 0).state = .saving ∧ (s.team 0).rank < 16 ∧ (s.team 0).recPa ≠ 0) ∧
    (∀ s ∈ [savable .restoring 0 0 id, { savable .restoring 0 0 id with poison := [0x40000 / 128] }],
      (tabFind 0 s.teams).isSome = true ∧ (s.team 0).state = .restoring ∧ (s.team 0).tableHeld = false ∧ (s.team 0).capFail = none ∧
      (s.core 0).mq = [] ∧ (s.core 0).cq = [] ∧ (s.core 0).chains = [] ∧ (s.core 0).followOn = none ∧
      (s.core 0).released = []) ∧
    (savable .restoring 0 0 id).recordBad ((savable .restoring 0 0 id).team 0) = false ∧
    { savable .restoring 0 0 id with poison := [0x40000 / 128] }.recordBad ((savable .restoring 0 0 id).team 0) = true := by
  and_intros <;> decide +kernel

theorem witness_TeamsEndAndAreSaved_nothing_saved (n : Nat) (w : DWord) : ((savable .restoring n w id).team 0).saved = SavedWork.none := rfl

/-- R297: the restored team is resident. -/
theorem test_restore : ((after (.restoreComplete 0) (savable .restoring 0 0 id)).team 0).state = .resident := by decide +kernel

/-! ### Engines, the host core and fault records -/

/-- A chain with a record to write, and the job's ring: where it is, and how many records it holds. -/
def auditing (base : DWord) (head : Word) : State :=
  let s := (engine [] (some 7) [] []).modCore 0 fun c => { c with chains := [{ aChain with audits := [5] }] }
  { s.modJob 0 fun j => { j with trbase := base, trhead := head } with tlb := colPage }

/-- A ring of 16 records, full, not there, and with room for the last. -/
theorem witness_EnginesFinishAndFaultsAreResolved_audit :
    (∀ s ∈ [auditing 0x10000 16, auditing 0 0, auditing 0x10000 15],
      ((s.core 0).chains.find? fun c => c.id = 7).map (fun c => (c.audits, c.auditFault)) = some ([5], none) ∧ s.budgetLeft (colOfCore 0) 3 = true ∧
      (s.team 0).state = .resident ∧ (s.job 0).trsize.toNat = 4) ∧
    ((auditing 0x10000 16).job 0).trhead = 16 ∧ ((auditing 0 0).job 0).trbase = 0 ∧ ((auditing 0x10000 15).job 0).trhead = 15 ∧
    ((auditing 0x10000 15).access (engineFor 0 (coreVia 0)) .write (0x10000 + 32 * (15 % 16))).isOk = true := by
  and_intros <;> decide +kernel

theorem chains_auditing (b : DWord) (h : Word) : Spec.chainsResident (auditing b h) 0 := by
  rintro ch hc
  rw [List.mem_singleton.1 hc]
  exact ⟨rfl, rfl⟩

/-- An `acfr` of bank 5 at the head of the queue. -/
def freeing : State := engine [5] none [{ aMul with id := 3, kind := .acfr [5] }] []

theorem witness_EnginesFinishAndFaultsAreResolved_free : (freeing.core 0).mq = { aMul with id := 3, kind := .acfr [5] } :: [] ∧
    freeing.engineRuns 0 = true ∧ Spec.chainsResident freeing 0 ∧ (freeing.core 0).phys = [5] :=
  ⟨rfl, by decide +kernel, nothing, rfl⟩

/-- Chunk 0 of `aCopy`, started and not done. -/
def copying : State :=
  (groupState 0xF [] [] []).modCore 0 fun c => { c with cq := [{ aCopy with started := [0] }] }

theorem witness_EnginesFinishAndFaultsAreResolved_copy :
    let c := { aCopy with started := [0] }
    (copying.core 0).cq.find? (fun q => q.id = 0) = some c ∧ c.mode = 0 ∧ c.svlt = true ∧ c.dvlt = true ∧ c.mcast = 0 ∧ c.gen = false ∧
    c.rem = false ∧ c.stop = none ∧ c.follow = none ∧ c.faults = [] ∧ c.done = [] ∧ c.sentChunks = [] ∧ (copying.team c.team).state = .resident ∧
    (copying.team (ctxTeam c.ctx)).state = .resident ∧ 0 < chunkCount c.evenRows ∧ chunkPiecesOf c.evenRows 0 = [(0, 0, 64)] ∧ c.srcAt 0 0 < 2 ^ 25 ∧ c.dstAt 0 0 < 2 ^ 25 ∧
    copying.vaultLoc 0 (c.srcAt 0 0) 64 = some (0, 0) ∧ copying.vaultLoc 0 (c.dstAt 0 0) 64 = some (0, 0x1000) ∧
    copying.poisonIn (copying.vaultPa 0 0) 64 = none := by
  refine ⟨rfl, ?_⟩
  and_intros <;> decide +kernel

/-- Thirty-two chunks have been measured. -/
theorem witness_EnginesFinishAndFaultsAreResolved_depth :
    let s := (groupState 0xF [] [] []).modTeam 0 fun t => { t with latencies := List.replicate 32 256, pipeMin := 1, pipeMax := 16 }
    (s.team 0).state = .resident ∧ 32 ≤ (s.team 0).latencies.length ∧ (s.team 0).pipeMin ≤ (s.team 0).pipeMax := by decide +kernel

/-- R216: 32 chunks of 256 ns give a depth of 2. -/
theorem test_depth :
    let s := (groupState 0xF [] [] []).modTeam 0 fun t => { t with latencies := List.replicate 32 256, pipeMin := 1, pipeMax := 16 }
    ((after (.pipeDepthAdjust 0) s).team 0).depth = 2 := by decide +kernel

/-- A fill of sixteen bytes under way. -/
def filling : State :=
  ((reaching []).modSplit 0 0 0 fun p => { p with wait := .answer }).modCore 0 fun c =>
    { c with table := { c.table with holder := some 0, fill := some (.group 0 0 0, 0x10000, 16), fillPc := 0x1000 } }

theorem witness_EnginesFinishAndFaultsAreResolved_fill : (filling.core 0).table.fill = some (.group 0 0 0, 0x10000, 16) ∧
    (filling.team 0).state = .resident ∧ filling.fillWait (.group 0 0 0) (filling.core 0).table.fillPc = some .answer ∧
    filling.storesBefore (.group 0 0 0) 0x10000 16 = false ∧
    ((filling.fillBytes (filling.requester (.group 0 0 0)) 0x10000 (16 / 8)).1.bytes.length, 
      (filling.fillBytes (filling.requester (.group 0 0 0)) 0x10000 (16 / 8)).1.stop.isNone) = (16, true) := by
  refine ⟨rfl, ?_⟩
  and_intros <;> decide +kernel

/-- A host core with an event in `q6`, with the timer at its time, or with neither, and interrupts enabled. -/
def interruptible (event : Bool) (cmp : DWord) (ie : Bool) : State :=
  (hostState [] []).modHost 0 fun h => { h with
    q6 := if event then [5] else [], htcmp := cmp, hie := 0xF, ie := ie, pl := 3, hdeleg := 0, mtrap := { h.mtrap with vec := 0x8000 } }

theorem witness_EnginesFinishAndFaultsAreResolved_interrupts :
    (∀ s ∈ [interruptible true (-1) true, interruptible true 0 true], (s.host 0).stopped = false ∧ (s.host 0).wait = .none ∧
      (s.host 0).pending = none) ∧
    Spec.interrupts (interruptible true (-1) true) 0 0 ∧ (∀ m, m < 4 → 0 < m → ¬ Spec.interrupts (interruptible true (-1) true) 0 m) ∧
    Spec.interrupts (interruptible true 0 true) 0 3 ∧ (∀ m, m < 4 → ¬ Spec.interrupts (interruptible true 0 false) 0 m) ∧
    ((interruptible true 0 true).host 0).htcmp.toNat ≤ ((interruptible true 0 true).cyc 0).toNat ∧
    ((interruptible true (-1) true).cyc 0).toNat < ((interruptible true (-1) true).host 0).htcmp.toNat := by
  unfold Spec.interrupts Spec.interruptLevel
  and_intros <;> decide +kernel

/-- R239: the timer's interrupt enters the machine vector with cause 2^63 + 3. -/
theorem test_interrupt :
    ((after (.interruptTaken 0) (interruptible true 0 true)).host 0).pc = 0x8000 ∧
    ((after (.interruptTaken 0) (interruptible true 0 true)).host 0).mtrap.cause = 0x8000000000000003 ∧
    ((after (.interruptTaken 0) (interruptible true 0 true)).host 0).mtrap.epc = 0x3000 := by decide +kernel

/-- A fault record. -/
def aFault (n : Nat) : FaultRec :=
  { id := n, va := 0x10000, asid := 0, job := 0, kind := 0, agent := 0, core := 0, waiters := 1, entry := 0, malf := false, level := 0, eaddr := 0 }

/-- A sequencer that is parked at the instruction of `fetching`, and a split of a group that is. -/
def parkedSeq : State :=
  ((fetching (.seq 0) 0x2B880005).modSeq 0 fun q => { q with wait := .parked 0 5 0x30000 }).modCol 0 fun c => { c with faults := [aFault 5] }

theorem witness_EnginesFinishAndFaultsAreResolved_retry :
    (∃ f ∈ (parkedSeq.col 0).faults, f.id = 5) ∧ (∀ f ∈ (parkedSeq.col 0).faults, f.id ≠ 6) ∧ (parkedSeq.col 0).unfiled = [] ∧
    (let s := (groupState 0xF [] [] []).modSplit 0 0 0 fun p => { p with wait := .parked 0 5 0x30000 }
     (s.team 0).state = .resident ∧ 0 < (s.team 0).groups.length ∧ 0 < (s.group 0 0).splits.length ∧ (s.split 0 0 0).valid = true ∧
     (s.split 0 0 0).wait = .parked 0 5 0x30000) ∧ (parkedSeq.seqr 0).wait = .parked 0 5 0x30000 := by
  refine ⟨⟨aFault 5, List.mem_singleton.2 rfl, rfl⟩, fun f hf => ?_, rfl, by decide +kernel, rfl⟩
  rw [List.mem_singleton.1 hf]
  decide

theorem witness_EnginesFinishAndFaultsAreResolved_unservable : Spec.onCore parkedSeq (.seq 0) ∧
    parkedSeq.parkedOn 0 5 = [(.seq 0, 0x30000)] ∧ Spec.nothingElseWaits parkedSeq 0 ∧
    (State.fetch { parkedSeq.dropRecord 0 5 with cur := .seq 0 }).toOption.map (·.1) = some 0x2B880005 ∧
    (parkedSeq.seqr 0).regs.trap.tcause.getLsbD 31 = false ∧ lrTvec (parkedSeq.team 0).launch ≠ 0 := by
  refine ⟨⟨⟨_, rfl, rfl, by show 0 < 1024; decide⟩, rfl⟩, by decide +kernel, ?_, ?_⟩
  · unfold Spec.nothingElseWaits
    and_intros <;> decide +kernel
  · and_intros <;> decide +kernel

theorem witness_EnginesFinishAndFaultsAreResolved_word : instrOf 0x2B880005 = .ok (.movi 98 5) := by decide

/-! ### Power -/

/-- A host core that asks island `n` of column 0, which stands at point 2 and has no FLOOR step under way. -/
def islanded (n : Nat) (level : BitVec 2) (f : Island → Island) : State :=
  let s := (hostState [] [(2, 0x80FB)]).modHost 0 fun h => { h with isel := BitVec.ofNat 64 n }
  let s := s.modCol 0 fun c => { c with gov := { c.gov with level := level } }
  s.modIsland n fun i => f { i with point := 2, target := 2 }

theorem witness_IslandRequestsAreDecided : (islanded 0 0 id).cur = .host 0 ∧ (islanded 0 0 id).ready [srcU 98] = .ok () ∧
    1 ≤ ((islanded 0 0 id).host 0).pl.toNat := by decide +kernel

/-- R331's example: at point 2, REL with VAL 0xFB (down by 5) answers FLOOR, and the island stays. -/
theorem test_island_floor : ((after (.isreq 0 0x80FB) (islanded 0 0 id)).island 0).status = 5 ∧
    ((after (.isreq 0 0x80FB) (islanded 0 0 id)).island 0).target = 2 ∧
    (after (.sysr 100 0x202) (after (.sysw 98 0x201) (islanded 0 0 id))).getK (.host 0) 4 = 0x20205 := by decide +kernel

/-- R330: at THROTTLE a matrix island is capped at THCAP 9, a memory island is not. -/
theorem test_island_cap : ((after (.isreq 0 12) (islanded 0 2 id)).island 0).target = 9 ∧
    ((after (.isreq 0 12) (islanded 0 2 id)).island 0).capped = true ∧ ((after (.isreq 0 12) (islanded 2 2 id)).island 2).target = 12 := by
  decide +kernel

/-- Each phase of a change of point at the end of its time. -/
def changing (phase now : Nat) : State :=
  { (State.reset).modIsland 0 fun i => { i with phase := phase, since := 0, step := phase ≠ 0, point := 2, target := 5 } with now := now }

theorem witness_PowerFollowsTimeAndTemperature_phases :
    [(1, 2000), (2, 2100), (3, 100), (4, 1100), (0, 0)].map (fun e => ((changing e.1 e.2).island 0).phase) = [1, 2, 3, 4, 0] ∧
    [(1, 2000), (2, 2100), (3, 100), (4, 1100), (0, 0)].map (fun e => (changing e.1 e.2).now - ((changing e.1 e.2).island 0).since)
      = [2000, 2100, 100, 1100, 0] := by decide +kernel

/-- R332: raised 2 µs and 100 ns after the request. -/
theorem test_island_raised : ((after (.islandClockRestart 0) (changing 2 2100)).island 0).point = 5 ∧
    ((after (.islandClockRestart 0) (changing 2 2099)).island 0).point = 2 := by decide +kernel

/-- At THROTTLE and below, both islands steady; and an EMERGENCY drop that is due. -/
theorem witness_PowerFollowsTimeAndTemperature_thcap :
    ((islanded 0 2 id).col 0).gov.level = 2 ∧ (∀ n, n < 2 → ((islanded 0 2 id).island (4 * 0 + n)).step = false) ∧
    ((islanded 0 1 id).col 0).gov.level ≠ 2 ∧
    (let s := (State.reset).modCol 0 fun c => { c with gov := { c.gov with dropPending := true } }
     (s.col 0).gov.dropPending = true ∧ (s.teamsOn fun c => colOfCore c = 0) = [] ∧ ∀ n, n < 4 → (s.island (4 * 0 + n)).step = false) := by
  and_intros <;> decide +kernel

/-- A window of 10,000 cycles ends. -/
theorem witness_PowerFollowsTimeAndTemperature_window :
    let s := { State.reset with now := 10000 }
    (s.cyc 0).toNat % 10000 = 0 ∧
    ∀ m ∈ [({ cycles := 100, busy := 50, stall := 50 } : Activity), { cycles := 1, busy := 0, stall := 0 },
      { cycles := 7, busy := 7, stall := 0 }, { cycles := 2, busy := 1, stall := 0 }], 0 < m.cycles ∧ m.busy + m.stall ≤ m.cycles := by
  and_intros <;> decide +kernel

/-- Ten sensors, the last the hottest: 94.999 °C is 759 eighths and NORMAL, 95 °C is WARM, 105 °C EMERGENCY. -/
def readings (x : Nat) : List Nat := List.replicate 9 0 ++ [x]

theorem witness_PowerFollowsTimeAndTemperature_sample :
    (∀ x ∈ [94999, 95000, 105000], (readings x).length = 10 ∧ (∀ y ∈ readings x, y / 125 ≤ x / 125) ∧ ∃ y ∈ readings x, y / 125 = x / 125) ∧
    [94999, 95000, 105000].map (fun x => Spec.level 0 (x / 125) 0) = [0, 1, 3] ∧ (State.reset.cyc 0).toNat % 10000 = 0 ∧
    (State.reset.teamsOn fun c => colOfCore c = 0) = [] ∧ (State.reset.host 0).q6.length < 64 := by
  and_intros <;> decide +kernel

/-- R335: the governor's levels at those readings. -/
theorem test_governor : ((after (.governorSample 0 (readings 95000)) State.reset).col 0).gov.level = 1 ∧
    ((after (.governorSample 0 (readings 94999)) State.reset).col 0).gov.level = 0 ∧
    ((after (.governorSample 0 (readings 105000)) State.reset).col 0).gov.level = 3 := by decide +kernel

/-- An idle core after 2 µs, one that sleeps with a team, and a column whose first core is to be gated. -/
theorem witness_PowerFollowsTimeAndTemperature_cores :
    (let s := { State.reset with now := 2000 }
     (s.core 0).asleep = false ∧ (s.core 0).powered = true ∧ s.coreIdle 0 = true ∧ (s.core 0).idleSince + 2000 ≤ s.now) ∧
    (let s := (groupState 0xF [] [] []).modCore 0 fun c => { c with asleep := true }
     (s.core 0).asleep = true ∧ s.coreIdle 0 = false) ∧
    (∀ on ∈ [true, false],
      let s := ((State.reset).modCol 0 fun c => { c with pgate := 1 }).modCore 0 fun c => { c with gating := on }
      s.gateBit 0 = true ∧ (s.core 0).powered = true ∧ (s.core 0).gating = on ∧ (s.teamsOn fun c => c = 0) = []) ∧
    (let s := (State.reset).modCore 0 fun c => { c with powered := false }
     s.gateBit 0 = false ∧ (s.core 0).powered = false) := by
  and_intros <;> decide +kernel

/-- Twenty-four slots of job 0 beside seven and a sequencer of job 1, on column 0. -/
def metered : State :=
  let gs := fun n => List.replicate n (aGroup 1 [] [] [])
  { State.reset with teams := [(0, { aTeam (aGroup 1 [] [] []) none with groups := gs 24 }),
    (1, { aTeam (aGroup 1 [] [] []) (some Seqr.none) with groups := gs 7, launch := launch + BitVec.ofNat 512 (2 ^ (256 + 56)) })] }

/-- R341: of 4,000,000 nJ, 3,000,000 and 1,000,000. -/
theorem test_energy : ((after (.energyInterval 0 4000000) { metered with now := 200000 }).col 0).energy.ej = [(0, 3000000), (1, 1000000)] := by decide +kernel

/-- A tower that is cool, and a trip at 115 °C. -/
theorem witness_PowerFollowsTimeAndTemperature_trip : 115000 ≤ 115000 ∧ 114999 < 115000 ∧
    (State.reset.teamsOn fun c => towerOfCore c = 0) = [] ∧ tabFind 1 (State.reset.col 0).budgets ≠ none := by
  and_intros <;> decide +kernel

/-- R338: the tower has no power after the trip. -/
theorem test_trip : ((after (.thermalTrip 3 115000) State.reset).tower 3).powered = false ∧
    ((after (.thermalTrip 3 115000) State.reset).hertor.malrt = true) := by decide +kernel

/-! ### Errors and service -/

/-- A team on core 0 with a bank, and a column. -/
theorem witness_ErrorsAreLoggedAndPartsServiced_scrubs :
    (let s := engine [5] none [] []
     (tabFind 0 s.teams).isSome = true ∧ (s.team 0).state = .resident ∧ 0 < (s.team 0).groups.length ∧ (s.group 0 0).retired = false ∧
     63 < lrRegs (s.team 0).launch ∧ tabFind 5 (s.team 0).acc = some (aBank 5 5)) ∧
    (let s := State.reset
     s.place (128 * 1024) = .hbm ∧ s.isFreed (128 * 1024) = false ∧
     (s.stack (128 * 1024 / 2 ^ 36)).scrubNow + 128 ≤ 1024 * (tabGet Budget.zero 1 (s.col 0).budgets).limit.toNat ∧
     s.place (128 * (segmentBase / 128)) = .vault) ∧
    tabFind 5 ((State.reset.modCol 0 fun c => { c with coh := { c.coh with lines := [(5, .m)] } }).col 0).coh.lines = some .m := by
  and_intros <;> decide +kernel

/-- R344, R350: an uncorrectable word of a register file is logged as unit 0, class 1, at its row. -/
theorem test_scrub : (((after (.rfScrub 0 0 7 [(3, .uncorrectable 9)]) (engine [] none [] [])).col 0).errs.map fun r => (r.w0, r.w2)) =
    [(0x0400000000000007, 9)] := by decide +kernel

/-- A second has passed with 6 errors, above the threshold 5 and at the threshold 6. -/
theorem witness_ErrorsAreLoggedAndPartsServiced_rate : ∀ thr ∈ [5, 6],
    let s := { (State.reset).modCol 0 fun c => { c with errRecent := 6, errThr := thr } with now := 1000000000 }
    (s.col 0).errSince + 1000000000 ≤ s.now ∧ (s.col 0).errThr = thr ∧ (s.col 0).errThr ≠ 0 ∧ (s.col 0).errRecent = 6 ∧ (s.host 0).q6.length < 64 := by
  intro thr h
  simp only [List.mem_cons, List.not_mem_nil, or_false] at h
  rcases h with rfl | rfl <;> decide +kernel

theorem witness_ErrorsAreLoggedAndPartsServiced_lines : State.reset.teams = [] ∧
    State.reset.place ((128 * 9 : DWord).toNat / 2 ^ 7 % 2 ^ 45 * 128) = .hbm ∧ State.reset.place (segmentBase / 2 ^ 7 % 2 ^ 45 * 128) = .vault := by
  and_intros <;> decide +kernel

/-- R348: `ERPCLR` clears a line that was poisoned. -/
theorem test_clear : (after (.erpclr (128 * 9)) { State.reset with poison := [9, 10] }).poison = [10] := by decide +kernel

/-- A team that was saved after a fatal cause and one that still runs, of generation 0. -/
theorem witness_ErrorsAreLoggedAndPartsServiced_saverel :
    (tabFind 0 (savable .saved 0 0 fun t => { t with reason := 5 }).teams).map (fun x => (x.state, x.reason, x.gen)) = some (.saved, 5, 0) ∧
    (tabFind 0 (savable .resident 0 0 id).teams).map (fun x => (x.state, x.gen)) = some (.resident, 0) := by decide +kernel

/-- A stack that moves a channel already, a free one, and one whose last range is mapped. -/
theorem witness_ErrorsAreLoggedAndPartsServiced_channels :
    (let s := State.reset
     (s.stack 3).retired = 0 ∧ (s.stack 3).moving = none ∧ State.topMapped { s with hbmLast := 3 } 3 = false) ∧
    ((State.reset.modStack 3 fun x => { x with moving := some 4 }).stack 3).moving = some 4 ∧
    (let s := (State.reset.modJob 0 fun j => { j with ctl := 2 ^ 63, root := 0x30000 }).physWrite 0x30000 (toBytes 8 0x34001)
     let s := (s.physWrite 0x34000 (toBytes 8 0x38001)).physWrite 0x38000 (toBytes 8 (2 ^ 36 * 3 + 2 ^ 31 * 31 + 0xF3))
     s.topMapped 3 = true) := by
  and_intros <;> decide +kernel

/-- A column that serves another: a drained one with nothing on it, one that is not drained, one retired; and images. -/
theorem witness_ErrorsAreLoggedAndPartsServiced_columns :
    (let s := (State.reset).modCol 1 fun c => { c with svc := { c.svc with drain := true, staged := some (2, 5) } }
     0 ≠ 1 ∧ (s.col 1).svc.drain = true ∧ (s.teamsOn fun c => colOfCore c = 1) = [] ∧ (s.col 1).svc.retired = false ∧
     (s.col 1).svc.failed = false ∧ s.teams = [] ∧ (s.col 1).svc.staged = some (2, 5)) ∧
    (State.reset.col 1).svc.drain = false ∧
    (let v := (State.reset.col 1).svc
     let bs := State.reset.physRead v.image.toNat (0x4400 + ofBytes (State.reset.physRead (v.image.toNat + 0xC) 4))
     imageType bs ≠ 2 ∧ imageType bs ≠ 3) := by
  and_intros <;> decide +kernel

/-- R355: the staged image runs after the reset, with its security version. -/
theorem test_column_reset :
    let s := (State.reset).modCol 1 fun c => { c with svc := { c.svc with drain := true, staged := some (2, 5) } }
    tabFind 2 ((after (.colsvcReset 0 1) s).col 1).svc.running = some 5 ∧ ((after (.colsvcReset 1 1) s).col 1).svc.status = 10 := by
  decide +kernel

/-! ### Keys, links and bring-up -/

/-- Jobs that are on and off; ring sizes 4, 20, 3 and 21. -/
theorem witness_KeysLinksAndBringUp_jobs :
    (let s := (State.reset).modJob 0 fun j => { j with ctl := 2 ^ 63, towers := [(0, TowerJob.zero)] }
     (s.job 0).ctl.getLsbD 63 = true ∧ tabFind 0 (s.job 0).towers = some TowerJob.zero ∧ s.teams = []) ∧
    (State.reset.job 0).ctl.getLsbD 63 = false ∧ (State.reset.job 0).wvctl.getLsbD 63 = false ∧
    [4, 20, 3, 21].map (fun v => (BitVec.ofNat 64 v).toNat % 32) = [4, 20, 3, 21] := by
  and_intros <;> decide +kernel

/-- A queue that is on and one that is off; a pod key changed 1 ms ago and 1 ns less; a plane that is busy and one that is not. -/
theorem witness_KeysLinksAndBringUp_rings :
    ((storing 0 []).nvq 1).ctl.getLsbD 63 = true ∧ ((storing 0 []).nvq 2).ctl.getLsbD 63 = false ∧
    (tabGet ShlKey.reset 1 ({ State.reset with now := 1000000 }).shlkeys).changed + 1000000 ≤ 1000000 ∧
    999999 < (tabGet ShlKey.reset 1 State.reset.shlkeys).changed + 1000000 ∧
    (∀ b ∈ [true, false], tabFind 0 ({ State.reset with planes := [(0, { Plane.reset with busy := b })] }).planes =
      some { Plane.reset with busy := b }) := by
  and_intros <;> decide +kernel

/-- A datagram of a message, and one of an answer, with tags that hold under the key, under the last one, and not at all. -/
def aDatagram (kind : Nat) (now old : Bool) : Datagram :=
  { header := BitVec.ofNat 256 (2 ^ 252 + kind * 2 ^ 248), payload := [], tagCurrent := now, tagPrevious := old, ecn := false }

theorem witness_KeysLinksAndBringUp_datagrams :
    (let s := { State.reset with shlkeys := [(0, { ShlKey.reset with old := some 5 })], now := 999999 }
     Spec.tagHolds s (aDatagram 0 true false) ∧ Spec.tagHolds s (aDatagram 0 false true) ∧ ¬ Spec.tagHolds s (aDatagram 0 false false) ∧
     ¬ Spec.tagHolds { s with now := 1000000 } (aDatagram 0 false true)) ∧
    Spec.datagramFor State.reset (aDatagram 0 true false) ∧ Spec.datagramFor State.reset (aDatagram 1 true false) ∧
    (aDatagram 0 true false).header.toNat / 2 ^ 248 % 16 ≠ 1 ∧ (aDatagram 1 true false).header.toNat / 2 ^ 248 % 16 = 1 ∧
    State.reset.answeredBy (aDatagram 1 true false).header.toNat = none := by
  unfold Spec.tagHolds Spec.datagramFor
  and_intros <;> decide +kernel

/-- A port that is up and one in reset, at the ends of the ranges. -/
theorem witness_KeysLinksAndBringUp_pcie :
    (tabGet PciePort.reset 1 State.reset.pcie).inReset = false ∧ State.reset.hertor.aux = true ∧
    (tabGet PciePort.reset 1 ({ State.reset with pcie := [(1, { PciePort.reset with inReset := true })] }).pcie).inReset = true ∧
    0xFFC + 4 ≤ 0x1000 ∧ 2 ^ 40 - 4 + 4 ≤ 2 ^ 40 := by
  and_intros <;> decide +kernel

/-- R352: a write through BAR 2 is read back there. -/
theorem test_pcie : (tabGet PciePort.reset 0 (after (.pcieInboundRequest 0 (.read 2 0x20001 2))
    (after (.pcieInboundRequest 0 (.write 2 0x20000 [1, 2, 3])) State.reset)).pcie).answers = [[2, 3]] := by decide +kernel

/-- The secure controller answers; an accepted image can be measured; power and reset. -/
theorem witness_KeysLinksAndBringUp_power :
    State.reset.hertor.aux = true ∧ State.reset.hertor.mrstnLow = false ∧ State.reset.hertor.main = true ∧
    (∃ c, tabFind 4 ({ Hertor.reset with accepted := [(4, { bytes := [] })] }).accepted = some c) ∧
    (∃ h : Hertor, h.aux = true ∧ h.hrdy = true ∧ h.main = false ∧ h.mrstnLow = false) ∧
    (∃ h : Hertor, h.aux = false ∧ h.mrstnLow = true ∧ tabGet [] 1 h.flash = []) :=
  ⟨rfl, rfl, rfl, ⟨_, rfl⟩, ⟨{ Hertor.reset with main := false }, rfl, rfl, rfl, rfl⟩,
    ⟨{ Hertor.reset with aux := false, mrstnLow := true }, rfl, rfl, rfl⟩⟩

/-- R359: without its firmware the package stops at step 1 of bring-up with alert 4. -/
theorem test_bring_up : (after .auxPowerOn { State.reset with hertor := { Hertor.reset with aux := false } }).hertor.failure = 4 := by
  decide +kernel

/-- A core that has not begun to wake, one that idles asleep, one whose sweep runs and one whose sweep is over; marks not passed and
passed; an HBM reading after 1 ms. -/
theorem witness_PowerFollowsTimeAndTemperature_marks :
    (let s := (groupState 0xF [] [] []).modCore 0 fun c => { c with asleep := true }
     (s.core 0).sweep = [] ∧ s.coreIdle 0 = false ∧ s.quarterRows 0 0 = 64) ∧
    (let s := (State.reset).modCore 0 fun c => { c with asleep := true }
     (s.core 0).asleep = true ∧ (s.core 0).sweep = [] ∧ s.coreIdle 0 = true) ∧
    (let s := (groupState 0xF [] [] []).modCore 0 fun c => { c with asleep := true, sweep := [(4, 1000), (0, 1004)] }
     (s.core 0).sweep ≠ []) ∧
    tabGet 0 0 (State.reset.col 0).marks ≠ State.reset.now + 1 ∧ tabGet 0 1 (State.reset.col 0).marks ≠ State.reset.now + 1 ∧
    State.pastMark { State.reset with now := 100000 } 0 2 100000 = true ∧ State.pastMark { State.reset with now := 9999 } 0 3 10000 = false ∧
    State.pastMark { State.reset with now := 10000 } 0 3 10000 = true ∧ State.reset.waveWait = [] ∧
    (State.reset.stack 3).readAt + 1000000 ≤ ({ State.reset with now := 1000000 }).now ∧
    (let s := ((groupState 0xF [] [] []).modTeam 0 fun t => { t with recPa := 0x40000 }).modCol 0 fun c => { c with pgate := 1 }
     s.gateBit 0 = true ∧ (s.core 0).powered = true ∧ s.teamsOn (fun c => c = 0) = [0] ∧ (s.team 0).recPa ≠ 0 ∧
     (s.team 0).halted = false) := by
  and_intros <;> decide +kernel

/-- R41, R336: a waking core issues nothing before 1 µs and its quarter's sweep, 64 rows at 4 rows a cycle of 0.25 ns. -/
theorem test_wake : ((after (.coreWake 0) ((groupState 0xF [] [] []).modCore 0 fun c => { c with asleep := true })).core 0).sweep =
    [(4, 1000), (0, 1004)] := by decide +kernel

/-- A plane whose flits all carry the new key's number, and one that has an old flit; the datagram types; a line of a window. -/
theorem witness_KeysLinksAndBringUp_more :
    (∀ f ∈ [((7 : Nat), (1 : BitVec 2))], f.2 = 1) ∧ (∃ f ∈ [((7 : Nat), (0 : BitVec 2))], f.2 ≠ (1 : BitVec 2)) ∧
    (classOf 7).isSome = true ∧ (aDatagram 5 true false).header.toNat / 2 ^ 248 % 16 = 5 ∧
    Spec.datagramFor State.reset (aDatagram 8 true false) ∧
    (let s := { State.reset with claims := [(2 ^ 51 - 128, 256)] }
     s.place (2 ^ 51 - 128) = .window ∧ s.portOf (2 ^ 51 - 128) = 0 ∧ s.place (2 ^ 51) = .window ∧ s.portOf (2 ^ 51) = 1) := by
  unfold Spec.datagramFor
  and_intros <;> decide +kernel

/-! ### The slot -/

/-- Two groups of teams with the priorities 2 and 5 in one quarter. -/
def competing (urgent : Bool) : State :=
  let tm := fun (p : Nat) (u : Bool) =>
    { aTeam { aGroup 0xF [] [] [] with urgent := u } none with launch := launch + BitVec.ofNat 512 (p * 2 ^ (256 + 53)) }
  { groupState 0xF [] [] [] with teams := [(0, tm 2 urgent), (1, { tm 5 false with cluster := 1 })] }

/-- R285: the higher PRI gets the slot, an urgent group before it. -/
theorem test_slot : (competing false).chosenGroup 0 0 = some (1, 0) ∧ (competing true).chosenGroup 0 0 = some (0, 0) := by decide +kernel

/-- R286: after the entry that issued last, 3 at launch, the first ready one. -/
theorem witness_SplitsThatMeetMerge_slot : (competing false).splitReady 0 0 0 = true ∧
    (∃ e, e ∈ (competing false).quarterGroups 0 0 ∧ (competing false).slotReady e.1 e.2 = true) := by
  refine ⟨by decide +kernel, (0, 0), by decide +kernel⟩

/-! ### Clauses that the second review asked for -/

/-- With nothing outstanding the remote forms may issue; the reach of one atomic lane, and `cas` that compares equal and not. -/
theorem witness_AtomicsIssueAndCompute_remote :
    (let os := Spec.atomicOpds 12 8 1 4 10 true
     let u := ((reaching []).readAll os).2
     Spec.live (reaching []) ∧ (reaching []).ready os = .ok () ∧ Spec.mayAccess true u ∧ Spec.mayAccess false u ∧ Spec.mayWrite u ∧
     Spec.peersFree u (fun l => (nthLanes ((reaching []).readAll os).1 0 l).toNat) 0 4 u.lanes) ∧
    Spec.atomicResult 32 9 5 7 5 = some 7 ∧ Spec.atomicResult 32 9 6 7 5 = none ∧ Spec.atomicResult 32 0 (2 ^ 32 - 1) 1 0 = some 0 := by
  refine ⟨⟨live_reaching [], ?_⟩, by unfold Spec.atomicResult; decide +kernel⟩
  have h : (((reaching []).readAll (Spec.atomicOpds 12 8 1 4 10 true)).2.ctxRegs ((reaching []).readAll (Spec.atomicOpds 12 8 1 4 10 true)).2.cur).outs = []
      ∧ ((reaching []).readAll (Spec.atomicOpds 12 8 1 4 10 true)).2.sent = [] := by decide +kernel
  refine ⟨by decide +kernel, by unfold Spec.mayAccess; decide +kernel, by unfold Spec.mayAccess; decide +kernel,
    by unfold Spec.mayWrite; decide +kernel, fun x _ _ _ e he => ?_, fun l _ q hq => ?_⟩
  · rw [h.1] at he; cases he
  · rw [h.2] at hq; cases hq

/-- A group whose team has windows, and whose `k2` asks for banks. -/
def windowed (x : DWord) : State :=
  (engine [] none [] [(2, x)]).modTeam 0 fun t => { t with launch := BitVec.ofNat 512 (launch.toNat + 2 ^ 270) }

/-- Eight groups share 128 banks by windows of 16; shapes of no row, of too many banks and with a bit above 16; and WIN in a team
without windows. -/
theorem witness_AccumulatorBanksAndRows_windows :
    (windowed 0x11008).ready [srcU 98, dstU 99] = .ok () ∧ lrWindow ((windowed 0x11008).team 0).launch = true ∧
    (windowed 0x11008).cur = .group 0 0 0 ∧
    (nthLanes ((windowed 0x11008).readAll [srcU 98, dstU 99]).1 0 0).toNat = 0x11008 ∧
    (∀ s ∈ [engine [] none [] [(2, 0)], engine [] none [] [(2, 0x20101)], engine [] none [] [(2, 0x181)], engine [] none [] [(2, 0x11008)]],
      s.ready [srcU 98, dstU 99] = .ok ()) ∧
    lrWindow ((engine [] none [] []).team 0).launch = false := by
  and_intros <;> decide +kernel

/-- A count of 0 for a barrier. -/
theorem witness_BarriersAndTokenWaits_zero : (pair 0 0 0).cur = .group 0 0 0 ∧
    Spec.namedBarrier (pair 0 0 0) 0 (3 : BitVec 8).toNat = some (0, 3) ∧
    (pair 0 0 0).ready [{ reg := 1, role := .src, words := 1, set := .vu }] = .ok () ∧
    (nthLanes ((pair 0 0 0).readAll [{ reg := 1, role := .src, words := 1, set := .vu }]).1 0 0).setWidth 16 = 0#16 := by
  unfold Spec.namedBarrier; and_intros <;> decide +kernel

/-- What a k-step reads of the vault, and of a register tile that takes the vault operand's format. -/
theorem witness_MatrixCommandsAreQueuedAndPerformed_tiles :
    Spec.engineClass 2 = some 0 ∧ Spec.engineClass 7 = some 3 ∧ (∃ x, Spec.localTile (engine [5] (some 7) [] []) 0 (.desc aDesc) 2 x) ∧
    (∃ y, Spec.localTile (engine [5] (some 7) [] []) 0 ones 2 y) ∧ (15 : BitVec 4) = 15 ∧ ∃ bs cs, ones = .tile bs cs := by
  refine ⟨rfl, rfl, ⟨_, by decide, fun i => (0, 64 * i), fun _ => (0, 0), ?_, nofun, rfl⟩, ⟨_, rfl⟩, rfl, ⟨_, _, rfl⟩⟩
  unfold Spec.bits
  decide +kernel

/-- An `mma` of which k-steps are done. -/
def mulDone (done : BitVec 4) : MCmd := { aMul with kind := .mma 5 0 7 (.desc aDesc) ones 2 2 0x40000000 0x3F800000 done }

/-- The last k-step of an `mma`, with nothing behind it in the queue. -/
theorem witness_MatrixCommandsAreQueuedAndPerformed_last :
    (let c := (engine [5] (some 7) [mulDone 7] []).core 0
     c.mq.find? (fun m => m.id = 3) = some (mulDone 7) ∧ c.chains.find? (fun m => m.id = 7) = some aChain ∧ c.chainHeld aChain = false ∧
     (mulDone 7).heldBy (cmdsBefore 3 c.mq) = false ∧ ∀ e ∈ c.mq, e.team = 0 → e.chain = none → e.banks = []) ∧
    (7 : BitVec 4).getLsbD 3 = false ∧ ((7 : BitVec 4) ||| ((1 : BitVec 4) <<< 3)) = 15 ∧
    (engine [5] (some 7) [mulDone 7] []).engineRuns 0 = true ∧
    ((engine [5] (some 7) [mulDone 7] []).readTiles 0 (.desc aDesc) ones 2 2).isOk = true ∧
    (tabFind 5 ((engine [5] (some 7) [mulDone 7] []).team 0).acc) = some (aBank 5 5) ∧ (aBank 5 5).bad = [] := by
  and_intros <;> decide +kernel

/-- R62, R63: a sum of 2.0 of BF16 ones, scaled by 2, makes a zero word 4.0. -/
theorem test_kstep_scales :
    (tabFind 5 ((after (.kstep 0 3 0) ((engine [5] (some 7) [mulDone 6] []).physWrite segmentBase [0x80, 0x3F, 0x80, 0x3F])).team 0).acc).map
      (fun b => (b.steps, tabGet 0 0 b.words, tabGet 0 32 b.words)) = some (1, 0x40800000, 0) := by decide +kernel

/-- A `tcopy` behind an acquire load of its lanes, and behind a load that a `fence.rel` orders. -/
theorem witness_CopiesSequencersAndLaunches_ordered :
    (let s := (groupState 0xF [] copyRegs []).modRegs (.group 0 0 0) fun r => { r with outs := [{ anAccess .load 1 with acq := true }] }
     ¬ Spec.mayRead s) ∧
    (let s := (groupState 0xF [] copyRegs []).modRegs (.group 0 0 0) fun r => { r with outs := [{ anAccess .load 1 with fenced := 1 }] }
     Spec.mayRead s ∧ ¬ Spec.mayWrite s) ∧ Spec.mayRead (groupState 0xF [] copyRegs []) ∧ Spec.mayWrite (groupState 0xF [] copyRegs []) := by
  unfold Spec.mayRead Spec.mayWrite
  and_intros <;> decide +kernel

/-- Queue 1 of 16 entries with its fifth the next, of a group whose `k8` to `k11` hold a READ of a block to page 1. -/
def reading (q : NvQueue) : State :=
  { groupState 0xF [] [(2, 1), (8, 0x10200), (9, 9), (10, 2 * 2 ^ 40), (11, 0)] [] with nvqs := [(1, q)], tlb := onePage }

/-- The queue of `reading`. -/
def longQueue (slots : Tab NvSlot) : NvQueue := { aQueue slots with ctl := 2 ^ 63 + 15 * 2 ^ 32, sqtail := 5, sqhead := 3 }

/-- A free slot and a full ring; a READ of a page that may be read, and one that is refused; a queue of another job. -/
theorem witness_StorageCommandsAreSubmittedAndCompleted_placed :
    ¬ Spec.refusedCommand (longQueue []) (nvCmd 0x10200 9 (2 * 2 ^ 40) 0) 0 ∧ ¬ Spec.refusedCommand (longQueue []) (nvCmd 0 0 0 0) 0 ∧
    Spec.refusedCommand (longQueue []) (nvCmd 0 0 0 0) 1 ∧ Spec.firstFree (longQueue []) 0 ∧
    Spec.firstFree (longQueue [(0, aSlot none)]) 1 ∧ Spec.ringFull { longQueue [] with sqhead := 6 } ∧
    (nvCmd 0x10200 9 (2 * 2 ^ 40) 0).opc = 2 ∧ (nvCmd 0x10200 9 (2 * 2 ^ 40) 0).pichk = false ∧
    0x10200 % 65536 + (0 + 1) * (longQueue []).lba ≤ 65536 ∧ (reading (longQueue [])).ready nvsubOpds = .ok () ∧
    okAnd ((reading (longQueue [])).access ((reading (longQueue [])).requester (.group 0 0 0)) .write 0x10200) (fun r => r.1.pa = 0x20200) = true ∧
    (match (({ reading (longQueue []) with tlb := [{ unit := .core 0, asid := 0, page := 1, entry := 0x200B2, level := 0 }] } : State).access
        ((reading (longQueue [])).requester (.group 0 0 0)) .write 0x10200) with
      | .error (.perm _) => true
      | _ => false) = true := by
  unfold Spec.refusedCommand Spec.firstFree Spec.ringFull Spec.field64
  and_intros <;> decide +kernel

/-- R227, R326: the entry of a READ of block 9 to 0x20200: operation, identifier, address, length, block; and the doorbell. -/
theorem test_nvsub_writes_the_entry :
    let t := after (.nvsub 99 98 104 false) (reading (longQueue []))
    (ofBytes (t.physRead 0x40140 4), ofBytes (t.physRead 0x40158 8), ofBytes (t.physRead 0x40160 4), ofBytes (t.physRead 0x40168 8)) =
      (0x4002, 0x20200, 512, 9) ∧ ofBytes (t.physRead 0x60000 4) = 6 ∧ t.getK (.group 0 0 0) 3 = 0x100 := by decide +kernel

/-- Another group waits for the ticket in slot 0; its completion is at the head of the ring, with a media error. -/
def completing (k : NvSlot) : State :=
  let s := ({ groupState 0xF [] [(2, 0x100)] [] with nvqs := [(1, aQueue [(0, k)])] } : State).physWrite 0x5000C [0, 0, 1, 5]
  { s with teams := s.teams ++ [(64, { aTeam { aGroup 0xF [] [] [] with splits := [{ Split.none with
      valid := true, pc := 0x1000, mask := 0xF, wait := .nvwait 99 0x100 }, Split.none, Split.none, Split.none] } none with core := 1 })] }

theorem witness_StorageCommandsAreSubmittedAndCompleted_waiter :
    (completing { aSlot none with waiter := some (.group 64 0 0, 99) }).ready [srcU 98, dstU 99] = .ok () ∧
    Spec.waitsFor (completing { aSlot none with waiter := some (.group 64 0 0, 99) }) (.group 64 0 0) 1 0 ∧
    ¬ Spec.waitsFor (completing { aSlot none with waiter := some (.group 0 0 0, 99) }) (.group 0 0 0) 1 0 ∧
    Spec.onCore (completing (aSlot none)) (.group 64 0 0) ∧
    ((completing (aSlot none)).nvq 1).on = true ∧
    (ofBytes (((completing (aSlot none)).physRead 0x50000 16).drop 12)).testBit 16 = ((completing (aSlot none)).nvq 1).phase ∧
    ofBytes (((completing (aSlot none)).physRead 0x50000 16).drop 12) % 2 ^ 16 = 0 ∧
    Spec.driveStatus (ofBytes (((completing (aSlot none)).physRead 0x50000 16).drop 12) / 2 ^ 17) = 4 := by
  refine ⟨by decide +kernel, ⟨99, 0x100, ?_⟩, fun ⟨d, x, h, _⟩ => ?_, ?_⟩
  · unfold Spec.field64; decide +kernel
  · have hw : (completing { aSlot none with waiter := some (.group 0 0 0, 99) }).ctxWait (.group 0 0 0) = .none := by decide +kernel
    rw [hw] at h; cases h
  · unfold Spec.onCore
    and_intros <;> decide +kernel

/-- R229: the completion of a ticket that another group waits for is delivered to it, and the ticket is DENIED to this one. -/
theorem test_completion_goes_to_its_waiter :
    let s := completing { aSlot none with waiter := some (.group 64 0 0, 99) }
    ((after (.nvwait 99 98 false) s).getK (.group 0 0 0) 3 = 10) ∧
    (let t := after (.nvmeCompletion 1) s
     t.getK (.group 64 0 0) 3 = 0x28000000004 ∧ (t.nvq 1).slots = [] ∧ t.ctxWait (.group 64 0 0) = .none) := by decide +kernel

/-- The launch record of a grid of three teams. -/
def threeTeams : BitVec 512 := BitVec.ofNat 512 (launch.toNat + 2 * 2 ^ 192)

/-- A host core beside a grid of three teams of which one has been placed, on core 0, with a save record or none; `k2` holds a
target. -/
def preemptingGrid (x : DWord) (recPa : Nat) (held : Bool) (back : List DWord) : State :=
  let s := { hostState [] [(2, x)] with
    teams := [(0, { aTeam (aGroup 1 [] [] []) none with
      recPa := recPa, held := held, grid := 2 ^ 32, heldCores := if held then [0] else [] })] }
  let s := s.modCol 0 fun k => { k with
    heldGrids := back, grids := [{ parts := [{ Spec.newPart (2 ^ 32) threeTeams 0 with next := 1 }], slot := none, code := [], poolFull := false }] }
  let s := s.modCore 0 fun c => { c with heldPlacement := held }
  s.modJob 0 fun b => { b with savelen := 1 }

/-- The grid and core kinds: of a grid that is not there, one that cannot be saved, one that is held, one that runs; and held ones. -/
theorem witness_PreemptionHoldsAndResumptionReleases_kinds :
    (∀ s ∈ [preemptingGrid (2 ^ 32) 0x40000 false [], preemptingGrid 0 0 false [], preemptingGrid (2 ^ 62 + 2 ^ 32) 0x40000 true [2 ^ 32],
        preemptingGrid (2 ^ 62 + 2 ^ 32) 0x40000 false [2 ^ 32], preemptingGrid (2 ^ 63) 0x40000 true []],
      s.cur = .host 0 ∧ 1 ≤ (s.host 0).pl.toNat ∧ s.ready [dstU 99, srcU 98] = .ok () ∧ (s.host 0).pending = none ∧
      s.gridOf (2 ^ 32) = some (threeTeams, 2) ∧ s.gridOf 1 = none ∧ s.clusterTeams 0 = [0] ∧ (s.job 0).savelen ≠ 0 ∧
      (s.team 0).state = .resident) ∧
    Spec.reached (preemptingGrid (2 ^ 32) 0x40000 false []) (fun e => e.2.grid = 2 ^ 32) 0 ∧
    Spec.reached (preemptingGrid 0 0x40000 false []) (fun e => e.2.core = 0 ∧ e.2.state ≠ .saved) 0 ∧
    ((preemptingGrid 0 0x40000 true []).team 0).heldCores = [0] ∧ ((preemptingGrid 0 0x40000 true []).team 0).held = true ∧
    ((preemptingGrid 0 0x40000 true []).core 0).heldPlacement = true := by
  unfold Spec.reached
  and_intros <;> decide +kernel

/-- R241: `preempt` of the grid and of the core halts the team and holds back what is not placed; `resume` frees both. -/
theorem test_preempt_of_a_grid_and_a_core :
    (let t := after (.preempt 99 98 1) (preemptingGrid (2 ^ 32) 0x40000 false [])
     (t.team 0).halted = true ∧ (t.team 0).held = true ∧ (t.col 0).heldGrids = [2 ^ 32]) ∧
    (let t := after (.preempt 99 98 2) (preemptingGrid 0 0x40000 false [])
     (t.team 0).halted = true ∧ (t.team 0).heldCores = [0] ∧ (t.core 0).heldPlacement = true) ∧
    (let t := after (.resume 99 98) (preemptingGrid (2 ^ 62 + 2 ^ 32) 0x40000 true [2 ^ 32])
     (t.team 0).held = false ∧ (t.col 0).heldGrids = [] ∧ t.getK (.host 0) 3 = 3 * 2 ^ 32) ∧
    (let t := after (.resume 99 98) (preemptingGrid (2 ^ 63) 0x40000 true [])
     (t.team 0).held = false ∧ (t.core 0).heldPlacement = false ∧ t.getK (.host 0) 3 = 2 ^ 32) := by decide +kernel

/-- A copy chunk over two pages, whose second piece meets a forwarding. -/
def dividing : State :=
  let s := waiting 0 100 (.chunk 0 0 0) [.redirect 3 false 0x50000]
  { s with
    sent := s.sent.map fun x => { x with msg := { x.msg with cls := .chunk, lanes := [0x1FFFC, 4, 0x40000, 2], bytes := [1, 2, 3, 4, 5, 6] } }
    acks := s.acks.map fun a => { a with va := 0x40000 } }

/-- What waits and what answers it in `dividing`. -/
theorem witness_MessagesEndOnceAtTheirSender_divided : ∃ x ∈ dividing.sent, ∃ a ∈ dividing.acks,
    Spec.answered dividing 9 x a ∧ a.kind = .redirect 3 false 0x50000 ∧ a.xlate = none ∧ x.msg.redirects < 4 ∧ x.msg.cls = .chunk ∧
    x.msg.lanes = [0x1FFFC, 4, 0x40000, 2] ∧ x.msg.bytes.length = (4 : DWord).toNat + (2 : DWord).toNat ∧ a.va = (0x40000 : DWord).toNat :=
  ⟨_, List.mem_cons_self, _, List.mem_cons_self, ⟨⟨[], [], rfl, rfl, nothing⟩, ⟨[], [], rfl, rfl, nothing⟩, by decide +kernel⟩,
    by decide +kernel, by decide +kernel, by decide +kernel, by decide +kernel, by decide +kernel, by decide +kernel, by decide +kernel⟩

/-- R212: only the piece in the forwarded page goes to the new place. -/
theorem test_chunk_is_divided : (after (.redirect 9) dividing).sent.map (fun x => (x.msg.dnode, x.msg.lanes, x.msg.bytes, x.msg.part)) =
    [(3, [0x50000, 2], [5, 6], false), (dividing.node, [0x1FFFC, 4], [1, 2, 3, 4], true)] := by decide +kernel

/-- A vault gauge at offset 0 of TOTAL 16 with every action flagged and its block at 0x80, which 40 bytes make fire twice. -/
def countingVault (b : List Byte) (action : Nat) : State :=
  let s := seqState [] []
  let s := (s.physWrite (s.vaultPa 0 0) (toBytes 4 16 ++ toBytes 4 0 ++ toBytes 4 6 ++ toBytes 4 action)).physWrite (s.vaultPa 0 128) b
  { s with counts := [.vault 0 0 40] }

/-- Gauges that fire twice with every action, one whose block fails, and one whose block lies outside the allocation. -/
theorem witness_WavesDecideAndGaugesAct_fired :
    (counting 15 [8192]).counts[0]? = some (.mem 0 0 8192) ∧ (8192 + 0) / 4096 = 2 ∧
    (countingVault block 0xF0004000).counts[0]? = some (.vault 0 0 40) ∧ (countingVault block 0xF0004000).vaultNat 0 0 4 = 16 ∧
    ((countingVault block 0xF0004000).team 0).state = .resident ∧ (0 + 40) / 16 = 2 ∧
    128 * ((countingVault block 0xF0100000).vaultNat 0 12 4 / 2 ^ 14 % 2 ^ 14) + 128 > lrVault ((countingVault block 0xF0100000).team 0).launch ∧
    Spec.firingError 0 15 none = 1 ∧ Spec.gensAfter 6 2 = [7, 8] := by
  and_intros <;> decide +kernel

/-- R184, R185: each of two firings pushes a record with its generation; of a failed block the record has ERR and ERRC 1. -/
theorem test_gauge_fires_twice :
    (let t := after (.gaugeCount 0) (counting 15 [8192])
     (t.host 0).q6.map (fun r => r.toNat / 2 ^ 16 % 2 ^ 48) = [7 * 2 ^ 16 + 2, 8 * 2 ^ 16 + 2] ∧ t.sent.length = 2 ∧
     t.notifies.map (·.gen) = [7, 8] ∧ t.glaunches.length = 2) ∧
    (let t := after (.gaugeCount 0) (countingVault block 0xF0100000)
     (t.host 0).q6.map (fun r => r.toNat / 2 ^ 16 % 2 ^ 48) = [7 * 2 ^ 16 + 17, 8 * 2 ^ 16 + 17] ∧ t.sent = [] ∧ t.notifies = []) := by
  decide +kernel

/-- A team with a sequencer and a group whose registers, splits and rows hold something, as it is saved. -/
def richTeam : State :=
  (savable .saving 0 0 fun t => { t with
    halted := true, reason := 2, sseq := 3, gen := 9, seq := some { Seqr.none with s := [(3, 0x1122334455667788)], pc := 0x2000 } }).modGroup 0 0
    fun g => { g with rows := [(2, all 5), (5, all 9)], k := { vals := [(4, 0xCAFE)], states := [] } }

/-- A record that names its shape and its trap vector, of a team with a sequencer. -/
def recorded : State :=
  let s := savable .restoring 0 0 id
  ((s.physWrite 0x40008 (toBytes 8 (launch.toNat / 2 ^ 256 % 2 ^ 64))).physWrite 0x40028 (toBytes 8 (launch.toNat / 2 ^ 128 % 2 ^ 64))).physWrite
    0x40040 (toBytes 8 32)

/-- A team of which the record's contents are stated: two rows of 64, a sequencer, one group; and one that is read back. -/
theorem witness_TeamsEndAndAreSaved_contents :
    (richTeam.team 0).state = .saving ∧ (richTeam.team 0).rank < 16 ∧ (richTeam.team 0).recPa ≠ 0 ∧ Memory.wf richTeam.mem = true ∧
    (richTeam.team 0).seq.isSome = true ∧ (richTeam.team 0).groups.length = 1 ∧
    (∀ p ∈ (richTeam.group 0 0).splits, p.loops.length ≤ 3) ∧ ((richTeam.group 0 0).rows.map (·.1)).Nodup ∧
    (∀ e ∈ (richTeam.group 0 0).rows, e.1 < lrRegs (richTeam.team 0).launch) ∧
    (recorded.team 0).state = .restoring ∧ (recorded.team 0).tableHeld = false ∧ (recorded.team 0).capFail = none ∧
    (recorded.core 0).mq = [] ∧ (recorded.core 0).cq = [] ∧ (recorded.core 0).chains = [] ∧ (recorded.core 0).followOn = none ∧
    (recorded.core 0).released = [] ∧ recorded.recordBad (recorded.team 0) = false ∧
    memNat recorded.mem ((recorded.team 0).recPa + 0x08) 8 = (recorded.team 0).launch.toNat / 2 ^ 256 % 2 ^ 64 ∧
    memNat recorded.mem ((recorded.team 0).recPa + 0x28) 8 = (recorded.team 0).launch.toNat / 2 ^ 128 % 2 ^ 64 ∧
    (memNat recorded.mem ((recorded.team 0).recPa + 0x40) 8).testBit 5 = true := by
  and_intros <;> decide +kernel

theorem witness_TeamsEndAndAreSaved_contents_kept : (recorded.team 0).saved = SavedWork.none := rfl

/-- The page 1 at 0x20000 with a format code, and page 2 at 0x30000 with code 0, as the core and its column have them. -/
def codedPages (code : Nat) : List TlbEntry :=
  [.core 0, .column 0].flatMap fun u =>
    [{ unit := u, asid := 0, page := 1, entry := 0x200F2 + code * 2 ^ 60, level := 0 }, { unit := u, asid := 0, page := 2, entry := 0x300F2, level := 0 }]

/-- A command of one row of `n` bytes with its first chunk started. -/
def oneRow (k8 k9 mcast n : Nat) : CCmd :=
  { aCopy with k8 := BitVec.ofNat 64 k8, k9 := BitVec.ofNat 64 k9, k10 := BitVec.ofNat 64 mcast,
               k11 := BitVec.ofNat 64 ((n - 1) * 2 ^ 44), started := [0] }

/-- A team with that command in the queue of its core. -/
def copyingBy (c : CCmd) (code : Nat) : State :=
  { (groupState 0xF [] [] []).modCore 0 fun k => { k with cq := [c] } with tlb := codedPages code }

/-- A global copy, one to the vaults of ranks 0 and 1, a DECODE of FP16 and a CONVERT to BF16, each of one row. -/
def theCopies : List CCmd :=
  [oneRow 0x10000 0x20040 0 16, oneRow (2 ^ 63 + 0x100) (2 ^ 63 + 0x1000) 3 16, oneRow (2 ^ 59 + 0x10000) (2 ^ 63 + 0x1000) 0 16,
    oneRow (2 ^ 60 + 2 ^ 63) 0x10040 0 32]

/-- The states of the four: pages of code 0, 0, 3 and 2; the second in a cluster of two teams. -/
def copyStates : List State :=
  let both := copyingBy (oneRow (2 ^ 63 + 0x100) (2 ^ 63 + 0x1000) 3 16) 0
  let x := both.team 0
  [copyingBy (oneRow 0x10000 0x20040 0 16) 0,
    { both with teams := [(0, { x with clusterSize := 2 }), (64, { x with rank := 1, clusterSize := 2, core := 1 })] },
    copyingBy (oneRow (2 ^ 59 + 0x10000) (2 ^ 63 + 0x1000) 0 16) 3, copyingBy (oneRow (2 ^ 60 + 2 ^ 63) 0x10040 0 32) 2]

/-- What the four clauses ask of a command beside its chunk's being due, and the chunk's one piece. -/
theorem witness_EnginesFinishAndFaultsAreResolved_kinds :
    theCopies.map (fun c => (c.mode, c.svlt, c.dvlt, c.mcast)) =
      [(0, false, false, 0), (0, true, true, 3), (1, false, true, 0), (2, true, false, 0)] ∧
    theCopies.map (fun c => chunkPiecesOf c.evenRows 0) = [[(0, 0, 16)], [(0, 0, 16)], [(0, 0, 16)], [(0, 0, 32)]] ∧
    (∀ c ∈ theCopies, c.part.2 = 1) ∧
    (List.zip copyStates theCopies).all (fun e => decide ((e.1.core 0).cq.find? (fun q => q.id = 0) = some e.2 ∧ e.2.stop = none ∧
      0 < e.2.started.length ∧ e.2.done = [] ∧ e.2.sentChunks = [] ∧ e.2.faults = [] ∧ e.2.follow = none ∧
      (e.1.team e.2.team).state = .resident ∧ (e.1.team (ctxTeam e.2.ctx)).state = .resident ∧ e.2.gen = false ∧ e.2.rem = false)) = true := by
  and_intros <;> decide +kernel

/-- The pages and places that the four find. -/
theorem witness_EnginesFinishAndFaultsAreResolved_places :
    (let s := copyingBy (oneRow 0x10000 0x20040 0 16) 0
     okAnd (s.access (s.teamEngine 0) .read 0x10000) (fun r =>
       let w := r.2.agentRead r.1.pa 16
       decide (w.poisonIn r.1.pa 16 = none) && (w.access (w.teamEngine 0) .write 0x20040).isOk) = true) ∧
    (let s := copyStates.getD 1 State.reset
     s.vaultLoc 0 0x100 16 = some (0, 0x100) ∧ s.rankLoc 0 0 0x1000 16 = some (0, 0x1000) ∧ s.rankLoc 0 1 0x1000 16 = some (64, 0x1000) ∧
     s.vaultPa 0 0x1000 + 16 ≤ s.vaultPa 64 0x1000) ∧
    (let s := copyingBy (oneRow (2 ^ 59 + 0x10000) (2 ^ 63 + 0x1000) 0 16) 3
     okAnd (s.decodeRun (s.teamEngine 0) 0x10000 false 0 16 16) (fun r =>
       r.1.1.length == 16 && !r.1.2 && (r.2.vaultLoc 0 0x1000 16).isSome) = true ∧
     okAnd (s.access (s.teamEngine 0) .read 0x10000) (fun r => !formatBad r.1.entry r.1.pa && decide (leafFmt r.1.entry = 3)) = true) ∧
    (let s := copyingBy (oneRow (2 ^ 60 + 2 ^ 63) 0x10040 0 32) 2
     okAnd (s.access (s.teamEngine 0) .write 0x10040) (fun r => encodable (leafFmt r.1.entry) && decide (leafGeom r.1.entry = 0)) = true ∧
     s.vaultLoc 0 0 32 = some (0, 0) ∧ (Spec.encodedBytes 2 (List.replicate 8 0x3F800000)).length = 16) := by
  unfold Spec.encodedBytes
  and_intros <;> decide +kernel

/-- R209: 1.0 and 2.0 of FP16 decode to FP32 in the vault, and -1.5 of FP32 converts to BF16. -/
theorem test_decode_and_convert :
    (let s := (copyingBy (oneRow (2 ^ 59 + 0x10000) (2 ^ 63 + 0x1000) 0 16) 3).physWrite 0x20000 [0, 0x3C, 0, 0x40]
     (after (.copyChunkComplete 0 0 0) s).vaultNat 0 0x1000 8 = 0x400000003F800000) ∧
    (let s := (copyingBy (oneRow (2 ^ 60 + 2 ^ 63) 0x10040 0 32) 2).physWrite (segmentBase + 4) [0, 0, 0xC0, 0xBF]
     ofBytes ((after (.copyChunkComplete 0 0 0) s).physRead 0x20040 4) = 0xBFC00000) := by decide +kernel

/-- A group's split that is parked on a fault record, at the instruction of `fetching`. -/
def parkedGroup : State :=
  ((fetching (.group 0 0 0) 0x2B880005).modSplit 0 0 0 fun p => { p with wait := .parked 0 5 0x30000 }).modCol 0 fun c => { c with faults := [aFault 5] }

theorem witness_EnginesFinishAndFaultsAreResolved_group : Spec.onCore parkedGroup (.group 0 0 0) ∧
    (∃ f ∈ (parkedGroup.col 0).faults, f.id = 5) ∧ parkedGroup.parkedOn 0 5 = [(.group 0 0 0, 0x30000)] ∧ Spec.nothingElseWaits parkedGroup 0 ∧
    (State.fetch { parkedGroup.dropRecord 0 5 with cur := .group 0 0 0 }).toOption.map (·.1) = some 0x2B880005 ∧
    (parkedGroup.group 0 0).regs.trap.tcause.getLsbD 31 = false ∧ lrTvec (parkedGroup.team 0).launch ≠ 0 := by
  unfold Spec.onCore Spec.nothingElseWaits
  refine ⟨⟨⟨_, rfl, rfl, by decide⟩, by decide +kernel⟩, ⟨aFault 5, List.mem_singleton.2 rfl, rfl⟩, ?_⟩
  and_intros <;> decide +kernel

/-- A ring with as many records as its size, one with fewer, and one with its tail ahead of its head. -/
theorem witness_EnginesFinishAndFaultsAreResolved_rings :
    [auditing 0x10000 16, auditing 0x10000 15, auditing 0x10000 (-1)].map (fun s =>
      decide (((s.job 0).trhead - (s.job 0).trtail).toNat = 2 ^ ((s.job 0).trsize.toNat % 64))) = [true, false, false] := by decide +kernel

/-- A core to be gated whose team has a record, and one whose team has none. -/
theorem witness_PowerFollowsTimeAndTemperature_gated : ∀ r ∈ [0x40000, 0],
    let s := ((groupState 0xF [] [] []).modTeam 0 fun t => { t with recPa := r }).modCol 0 fun c => { c with pgate := 1 }
    s.gateBit 0 = true ∧ (s.core 0).powered = true ∧ s.teamsOn (fun c => c = 0) = [0] ∧ (s.team 0).state = .resident ∧
    s.mgmtWait = [] ∧ s.waveWait = [] := by
  intro r h
  simp only [List.mem_cons, List.not_mem_nil, or_false] at h
  rcases h with rfl | rfl <;> decide +kernel

/-- R336: a core whose team cannot be saved takes no other team, and stays powered. -/
theorem test_gating : ∀ r ∈ [0x40000, 0],
    let s := ((groupState 0xF [] [] []).modTeam 0 fun t => { t with recPa := r }).modCol 0 fun c => { c with pgate := 1 }
    ((after (.pgateGate 0) s).core 0).gating = decide (r = 0) ∧ (((after (.pgateGate 0) s).team 0).reason = 3 ↔ r ≠ 0) := by
  intro r h
  simp only [List.mem_cons, List.not_mem_nil, or_false] at h
  rcases h with rfl | rfl <;> decide +kernel

/-- A stack whose move has a line left, and one whose move has none. -/
theorem witness_ErrorsAreLoggedAndPartsServiced_moving :
    ((State.reset.modStack 3 fun x => { x with moving := some 4, toMove := 1 }).stack 3).toMove = 1 ∧
    ((State.reset.modStack 3 fun x => { x with moving := some 4, toMove := 0 }).stack 3).toMove = 0 := by decide +kernel

/-- A message that an acknowledgement of stream number 101 covers, and one that it does not. -/
theorem witness_KeysLinksAndBringUp_acknowledged :
    (waiting 0 100 (.chunk 0 0 0) []).sent.map (fun x => (Spec.covered (2 ^ 172 * x.msg.dnode.toNat + 2 ^ 231 * x.msg.dtwr.toNat +
      2 ^ 228 * x.msg.stwr.toNat + 2 ^ 96 * (x.msg.seqNo.toNat + 1)) x).resent) = [true] ∧
    (waiting 0 100 (.chunk 0 0 0) []).sent.map (fun x => (Spec.covered (2 ^ 172 * x.msg.dnode.toNat + 2 ^ 231 * x.msg.dtwr.toNat +
      2 ^ 228 * x.msg.stwr.toNat + 2 ^ 96 * x.msg.seqNo.toNat) x).resent) = [false] := by decide +kernel

/-- R317: a plane that is to drain has drained when its replay buffer is empty. -/
theorem test_drained : [[], [((7 : Nat), (0 : BitVec 2))]].map (fun r =>
    ({ State.reset with planes := [(3, { Plane.reset with replay := r })], lnkdrain := 8 } : State).linkDrained 3) = [true, false] := by
  decide +kernel

end Sys2Proof.Tests
end

section
/-! SUPPORT. Packed forms (R58, R128): a form of two elements is the floating-point form that computes each half on its own. -/

namespace Sys2Proof.Machine

/-! ### Floating-point forms whose operands are ready (R121) -/

/-- The operands a floating-point form waits for: its sources, and its destination unless it is one of them (R122). -/
def fpOperands (src : List Opd) (d : RegNum) (dw : Nat) : List Opd :=
  if src.any fun o => o.role = .both then src else src ++ [dstAny d dw]

/-- A form that computes the result `v l` with the flags `fl l` in lane `l` writes those results and accumulates their flags. -/
theorem conclude_fpForm_of_ready {s : State} {src : List Opd} {d : RegNum} {dw : Nat} {g : (Nat → Nat) → Nat × Word}
    {v : Nat → Nat} {fl : Nat → Word} (ready : s.ready (fpOperands src d dw) = .ok ())
    (computes : ∀ l, g (fun n => (nthLanes (s.readAll (fpOperands src d dw)).1 n l).toNat) = (v l, fl l)) :
    let t := (s.readAll (fpOperands src d dw)).2
    conclude s (fpForm src d dw g s) =
      .next (((t.raiseFlags (orFlags (t.computing d) fl)).writeOpd (dstAny d dw) fun l => BitVec.ofNat 128 (v l)).advance) := by
  have reads : fpForm src d dw g s = (do
      let (xs, t) ← s.operands (fpOperands src d dw)
      let r := fun l => g fun n => (nthLanes xs n l).toNat
      .ok ((t.raiseFlags (orFlags (t.computing d) fun l => (r l).2)).writeOpd (dstAny d dw) fun l =>
        BitVec.ofNat 128 (r l).1).advance) := rfl
  rw [reads, State.operands_of_ready s _ ready]
  simp only [bind, Except.bind, computes, conclude_ok]

/-! ### The elements of packed operands (R58) -/

/-- The low element of an operand is in the low 16 bits of its 32. -/
theorem halfOf_zero (x : Nat) : halfOf x 0 = x % 2 ^ 32 % 2 ^ 16 := by
  simp only [halfOf, bitsOf, Nat.shiftRight_eq_div_pow]; omega

/-- The high element of an operand is in the high 16 bits of its 32. -/
theorem halfOf_one (x : Nat) : halfOf x 1 = x % 2 ^ 32 / 2 ^ 16 := by
  simp only [halfOf, bitsOf, Nat.shiftRight_eq_div_pow]; omega

/-- An operation `e` of three elements, made on both elements of packed operands. -/
def packedBy (e : Nat → Nat → Nat → Nat × Word) (x : Nat → Nat) : Nat × Word :=
  halves fun j => e (halfOf (x 0) j) (halfOf (x 1) j) (halfOf (x 2) j)

/-- R58: results side by side, flags combined. -/
theorem packedBy_eq (e : Nat → Nat → Nat → Nat × Word) (x : Nat → Nat) :
    let lo := e (x 0 % 2 ^ 32 % 2 ^ 16) (x 1 % 2 ^ 32 % 2 ^ 16) (x 2 % 2 ^ 32 % 2 ^ 16)
    let hi := e (x 0 % 2 ^ 32 / 2 ^ 16) (x 1 % 2 ^ 32 / 2 ^ 16) (x 2 % 2 ^ 32 / 2 ^ 16)
    packedBy e x = (lo.1 + 2 ^ 16 * hi.1, lo.2 ||| hi.2) := by
  simp only [packedBy, halves, halfOf_zero, halfOf_one]

/-! ### Packed forms (R128) -/

/-- The packed forms are floating-point forms, and each makes its element operation on both elements. -/
theorem exec_packedForm {i : Instr} {s : State} {os : List Opd} {o : Opd} {k : Bool}
    {f : Fmt → Nat → Nat → Nat → Nat × Word} (hform : Spec.registerForm s i = some (os, o))
    (hpacked : Spec.packedForm i = some (k, f)) :
    ∃ src d, os = fpOperands src d 1 ∧ o = dstAny d 1 ∧
      exec i s = conclude s (fpForm src d 1 (packedBy (f (packFmt k))) s) := by
  unfold Spec.packedForm at hpacked
  split at hpacked
  case h_1 d a b _ _ _ => cases hform; cases hpacked; exact ⟨[srcAny a 1, srcAny b 1], d, rfl, rfl, rfl⟩
  case h_2 d a b _ _ _ => cases hform; cases hpacked; exact ⟨[srcAny a 1, srcAny b 1], d, rfl, rfl, rfl⟩
  case h_3 d a b _ _ _ => cases hform; cases hpacked; exact ⟨[srcAny a 1, srcAny b 1, bothAny d 1], d, rfl, rfl, rfl⟩
  case h_4 => cases hpacked

/-- Settles O11: a packed form is the floating-point form that makes its element operation on both halves. -/
theorem packedElementsAreIndependent : Obligations.PackedElementsAreIndependent := by
  intro i s os o k f hform hpacked ready
  obtain ⟨src, d, rfl, rfl, hexec⟩ := exec_packedForm hform hpacked
  rw [hexec]
  exact conclude_fpForm_of_ready ready fun l => packedBy_eq (f (packFmt k)) _

end Sys2Proof.Machine
end

section
/-! SUPPORT. Major opcodes (R74, R75): what the decoder makes of a word, by its bits 31 to 25. -/

namespace Sys2Proof

/-! ### The major opcode of a word -/

/-- Bits 31 to 25 of a word are what is left of it above bit 24. -/
theorem toNat_fld_major (w : Word) : (fld w 25 7).toNat = w.toNat / 2 ^ 25 := by
  have bound := w.isLt
  simp only [fld, BitVec.extractLsb'_toNat, Nat.shiftRight_eq_div_pow]
  omega

/-- The major opcodes of the opcode table (R74). -/
def assignedMajors : List Nat := [
  0x01, 0x02, 0x03, 0x04, 0x05, 0x06, 0x07, 0x08, 0x09, 0x0A, 0x0B, 0x0C, 0x0D, 0x0E, 0x0F,
  0x10, 0x11, 0x12, 0x13, 0x14, 0x15, 0x16, 0x18, 0x19, 0x1A, 0x1B, 0x1C, 0x1D, 0x1E,
  0x20, 0x21, 0x22, 0x23, 0x24, 0x25, 0x26, 0x27, 0x28, 0x29, 0x2A, 0x2B,
  0x30, 0x31, 0x32, 0x33, 0x34, 0x35, 0x36, 0x37, 0x38, 0x39, 0x3A, 0x3B, 0x3C, 0x3D, 0x3E,
  0x40, 0x41, 0x42, 0x43, 0x44, 0x45, 0x46, 0x47, 0x48, 0x49, 0x4A, 0x4B, 0x4C,
  0x50, 0x51, 0x52, 0x53, 0x58, 0x59, 0x5A, 0x5B, 0x5C, 0x5D, 0x5E, 0x5F,
  0x60, 0x61, 0x62, 0x63, 0x64, 0x65, 0x66, 0x68, 0x69, 0x6A, 0x6B, 0x6C, 0x6D,
  0x70, 0x71, 0x72, 0x73, 0x74, 0x75, 0x76, 0x78, 0x79, 0x7A, 0x7B, 0x7C, 0x7D, 0x7E, 0x7F]

/-- The opcode table and the list of R75 part the 7-bit opcodes between them. -/
theorem unassignedMajor_iff_not_mem_assignedMajors :
    ∀ op < 2 ^ 7, Spec.unassignedMajor op = true ↔ op ∉ assignedMajors := by decide +kernel

/-! ### What an assigned major opcode makes of its word -/

/-- The answers of the decoder to a word of an assigned major opcode. -/
inductive AnswerOfAssigned (w : Word) : Except Reject Instr → Prop where
  /-- The word is read as an instruction whose reserved bits are those of `m`. -/
  | form (m : Word) (i : Instr) : AnswerOfAssigned w (keep w m i)
  /-- The `fn` value is unassigned for the opcode. -/
  | unassignedFn : AnswerOfAssigned w (.error (.illegal 1))
  /-- The word is a `launch` whose `b` is not `k8`. -/
  | launchRejected : AnswerOfAssigned w (launchOperand w)

/-- R77: reason 0 is kept for unassigned major opcodes. -/
theorem AnswerOfAssigned.ne_reasonZero {w : Word} {r : Except Reject Instr} (h : AnswerOfAssigned w r) :
    r ≠ .error (.illegal 0) := by
  cases h with
  | form m i => unfold keep; split_ifs <;> simp
  | unassignedFn => simp
  | launchRejected => unfold launchOperand; split_ifs <;> simp

/-- The decoder has an arm for each major opcode of the table, and answers reason 0 to every other. -/
theorem decode_by_major (w : Word) :
    ((fld w 25 7).toNat ∉ assignedMajors ∧ decode w = .error (.illegal 0)) ∨
    ((fld w 25 7).toNat ∈ assignedMajors ∧ AnswerOfAssigned w (decode w)) := by
  unfold decode
  split
  case h_110 => -- The catch-all arm: the opcode differs from that of every other arm.
    refine .inl ⟨?_, rfl⟩
    simp only [imp_false] at *
    simp only [assignedMajors, List.mem_cons, List.not_mem_nil, or_self, not_false_eq_true, *]
  all_goals
    next major =>
    refine .inr ⟨by rw [major]; decide, ?_⟩
    repeat' split
    all_goals constructor

/-- Settles O3: the decoder's arms are those of the opcode table, no arm answers reason 0, and R75 lists the other opcodes. -/
theorem unassignedMajorOpcodesAreReasonZero : Obligations.UnassignedMajorOpcodesAreReasonZero := by
  intro w
  rw [← toNat_fld_major, unassignedMajor_iff_not_mem_assignedMajors _ (fld w 25 7).isLt]
  obtain ⟨unlisted, reasonZero⟩ | ⟨listed, answer⟩ := decode_by_major w
  · exact iff_of_true reasonZero unlisted
  · exact iff_of_false answer.ne_reasonZero (not_not_intro listed)

end Sys2Proof
end

section
/-! SUPPORT. What reading operands, writing a result and going on leave of the issuing context: that it exists, its active
lanes, and its flags and trap registers (R15 to R28, R38, R236). -/

namespace Sys2Proof.Machine

/-! ### The issuing context exists -/

theorem State.live_group {s : State} {t g p : Nat} (live : Spec.live s) (issues : s.cur = .group t g p) :
    s.known t ∧ g < (s.team t).groups.length ∧ p < (s.group t g).splits.length := by
  unfold Spec.live at live; rw [issues] at live; exact live

theorem State.live_seq {s : State} {t : Nat} (live : Spec.live s) (issues : s.cur = .seq t) :
    s.known t ∧ (s.team t).seq.isSome := by
  unfold Spec.live at live; rw [issues] at live; exact live

theorem State.live_host {s : State} {c : Nat} (issues : s.cur = .host c) : Spec.live s := by
  simp only [Spec.live, issues]

theorem State.cur_of_kind_host {s : State} (kind : s.kind = .host) : ∃ c, s.cur = .host c := by
  unfold State.kind at kind
  cases issues : s.cur with
  | host c => exact ⟨c, rfl⟩
  | group t g p => rw [issues] at kind; cases kind
  | seq t => rw [issues] at kind; cases kind

/-- A running sequencer reads as it was changed. -/
theorem State.seqr_modSeq (s : State) (t : Nat) (f : Seqr → Seqr) (known : s.known t) (runs : (s.team t).seq.isSome) :
    (s.modSeq t f).seqr t = f (s.seqr t) := by
  obtain ⟨q, hq⟩ := Option.isSome_iff_exists.1 runs
  simp [State.modSeq, State.seqr, State.team_modTeam s t _ known, hq]

/-! ### What a team's contexts are -/

/-- Of a group: its flags, trap registers, tokens and outstanding accesses, and the lane masks of its splits. -/
def Group.status (x : Group) : Regs × List Word := (x.regs, x.splits.map (·.mask))

/-- Of a team: the status of its groups, and the same registers of its sequencer. -/
def Team.status (x : Team) : List (Regs × List Word) × Option Regs := (x.groups.map Group.status, x.seq.map (·.regs))

/-- The same context issues, the same teams exist, and every team has the same status. -/
def State.SameStatus (s t : State) : Prop :=
  t.cur = s.cur ∧ ∀ u, (tabFind u t.teams).map Team.status = (tabFind u s.teams).map Team.status

namespace State.SameStatus

variable {s t u : State}

theorem refl (s : State) : s.SameStatus s := ⟨rfl, fun _ => rfl⟩

theorem trans (h : s.SameStatus t) (k : t.SameStatus u) : s.SameStatus u :=
  ⟨k.1.trans h.1, fun n => (k.2 n).trans (h.2 n)⟩

theorem of_teams (cur : t.cur = s.cur) (teams : t.teams = s.teams) : s.SameStatus t :=
  ⟨cur, fun _ => by rw [teams]⟩

theorem cur (h : s.SameStatus t) : t.cur = s.cur := h.1

theorem kind (h : s.SameStatus t) : t.kind = s.kind := congrArg kindOf h.1

theorem known (h : s.SameStatus t) (n : Nat) : t.known n ↔ s.known n := by
  have found := congrArg Option.isSome (h.2 n)
  simp only [Option.isSome_map] at found
  simp only [State.known, found]

theorem team (h : s.SameStatus t) (n : Nat) : (t.team n).status = (s.team n).status := by
  have status := congrArg (·.getD Team.none.status) (h.2 n)
  simpa only [State.team, tabGet, Option.getD_map] using status

theorem length_groups (h : s.SameStatus t) (n : Nat) : (t.team n).groups.length = (s.team n).groups.length := by
  simpa [Team.status] using congrArg (fun x => x.1.length) (h.team n)

theorem group (h : s.SameStatus t) (n g : Nat) : (t.group n g).status = (s.group n g).status := by
  have status := congrArg (fun x => x.1.getD g Group.none.status) (h.team n)
  simpa only [State.group, Team.status, List.getD_map] using status

theorem masks (h : s.SameStatus t) (n g : Nat) :
    (t.group n g).splits.map (·.mask) = (s.group n g).splits.map (·.mask) :=
  congrArg Prod.snd (h.group n g)

theorem seq (h : s.SameStatus t) (n : Nat) : (t.team n).seq.map (·.regs) = (s.team n).seq.map (·.regs) :=
  congrArg Prod.snd (h.team n)

theorem seqr_regs (h : s.SameStatus t) (n : Nat) : (t.seqr n).regs = (s.seqr n).regs := by
  have status := congrArg (·.getD Seqr.none.regs) (h.seq n)
  simpa only [State.seqr, Option.getD_map] using status

/-- The issuing context still exists. -/
theorem live (h : s.SameStatus t) (hs : Spec.live s) : Spec.live t := by
  unfold Spec.live at *
  rw [h.cur]
  split at hs
  case h_1 n g p _ =>
    have splits := congrArg List.length (h.masks n g)
    simp only [List.length_map] at splits
    rw [h.length_groups, splits]
    exact ⟨(h.known n).2 hs.1, hs.2⟩
  case h_2 n _ =>
    have runs := congrArg Option.isSome (h.seq n)
    simp only [Option.isSome_map] at runs
    rw [runs]
    exact ⟨(h.known n).2 hs.1, hs.2⟩
  case h_3 => trivial

/-- A group or sequencer keeps its flags and trap registers. -/
theorem ctxRegs (h : s.SameStatus t) (kind : s.kind ≠ .host) : t.ctxRegs s.cur = s.ctxRegs s.cur := by
  cases c : s.cur with
  | group n g p => exact congrArg Prod.fst (h.group n g)
  | seq n => exact h.seqr_regs n
  | host n => exact absurd (congrArg kindOf c) kind

/-- The same lanes are active. -/
theorem ctxMask (h : s.SameStatus t) (c : Ctx) : t.ctxMask c = s.ctxMask c := by
  cases c with
  | group n g p =>
    have mask := congrArg (·.getD p Split.none.mask) (h.masks n g)
    simpa only [State.ctxMask, State.split, List.getD_map] using mask
  | seq n => rfl
  | host n => rfl

/-- The same lanes compute a result (R86). -/
theorem computing (h : s.SameStatus t) (d : RegNum) : t.computing d = s.computing d := by
  have result : t.oneResult d = s.oneResult d := by unfold State.oneResult; rw [h.kind]
  unfold State.computing State.low State.lanes
  rw [result, h.cur, h.ctxMask]

end State.SameStatus

/-! ### Updates that keep it -/

theorem State.modTeam_sameStatus (s : State) (n : Nat) (f : Team → Team) (keeps : ∀ x, (f x).status = x.status) :
    s.SameStatus (s.modTeam n f) := by
  refine ⟨State.modTeam_cur s n f, fun u => ?_⟩
  unfold State.modTeam
  cases found : tabFind n s.teams with
  | none => rfl
  | some x =>
    by_cases same : u = n
    · subst same; simp [tabFind_tabSet_same, found, keeps]
    · simp [tabFind_tabSet_other _ _ same]

/-- A change of one element that `g` does not see. -/
theorem map_modAt {α β : Type} {f : α → α} {g : α → β} (keeps : ∀ x, g (f x) = g x) (i : Nat) (l : List α) :
    (modAt i f l).map g = l.map g := by
  induction l generalizing i with
  | nil => rfl
  | cons x l ih => cases i <;> simp [modAt, keeps, ih]

theorem State.modGroup_sameStatus (s : State) (n g : Nat) (f : Group → Group) (keeps : ∀ x, (f x).status = x.status) :
    s.SameStatus (s.modGroup n g f) :=
  s.modTeam_sameStatus n _ fun x => congrArg (·, x.seq.map (·.regs)) (map_modAt keeps g x.groups)

theorem State.modMyGroup_sameStatus (s : State) (f : Group → Group) (keeps : ∀ x, (f x).status = x.status) :
    s.SameStatus (s.modMyGroup f) := by
  unfold State.modMyGroup
  split
  · exact s.modGroup_sameStatus _ _ f keeps
  · exact .refl s

theorem State.modSplit_sameStatus (s : State) (n g p : Nat) (f : Split → Split) (keeps : ∀ x, (f x).mask = x.mask) :
    s.SameStatus (s.modSplit n g p f) :=
  s.modGroup_sameStatus n g _ fun x => congrArg (x.regs, ·) (map_modAt keeps p x.splits)

theorem State.modSeq_sameStatus (s : State) (n : Nat) (f : Seqr → Seqr) (keeps : ∀ x, (f x).regs = x.regs) :
    s.SameStatus (s.modSeq n f) :=
  s.modTeam_sameStatus n _ fun x => by cases h : x.seq <;> simp [Team.status, h, keeps]

theorem State.modHost_sameStatus (s : State) (c : Nat) (f : HostCore → HostCore) : s.SameStatus (s.modHost c f) :=
  .of_teams rfl rfl

theorem State.modK_sameStatus (s : State) (c : Ctx) (f : KFile → KFile) : s.SameStatus (s.modK c f) := by
  cases c with
  | group n g p => exact s.modGroup_sameStatus n g _ fun _ => rfl
  | seq n => exact s.modSeq_sameStatus n _ fun _ => rfl
  | host c => exact s.modHost_sameStatus c _

theorem State.setK_sameStatus (s : State) (c : Ctx) (n : Nat) (x : DWord) : s.SameStatus (s.setK c n x) :=
  s.modK_sameStatus c _

theorem State.setS_sameStatus (s : State) (c : Ctx) (n : Nat) (x : DWord) : s.SameStatus (s.setS c n x) := by
  cases c with
  | group n g p => exact .refl s
  | seq n => exact s.modSeq_sameStatus n _ fun _ => rfl
  | host c => exact s.modHost_sameStatus c _

theorem State.setPred_sameStatus (s : State) (n : Nat) (f : Nat → Bool) : s.SameStatus (s.setPred n f) := by
  unfold State.setPred
  split
  · exact .refl s
  · split
    · exact s.modGroup_sameStatus _ _ _ fun _ => rfl
    · exact s.modSeq_sameStatus _ _ fun _ => rfl
    · exact s.modHost_sameStatus _ _

theorem State.advance_sameStatus (s : State) : s.SameStatus s.advance := by
  unfold State.advance
  cases s.cur with
  | group n g p => exact s.modSplit_sameStatus n g p _ fun _ => rfl
  | seq n => exact s.modSeq_sameStatus n _ fun _ => rfl
  | host c => exact s.modHost_sameStatus c _

theorem State.foldl_sameStatus {α : Type} {f : State → α → State} (keeps : ∀ (s : State) x, s.SameStatus (f s x))
    (l : List α) (s : State) : s.SameStatus (l.foldl f s) := by
  induction l generalizing s with
  | nil => exact .refl s
  | cons x l ih => exact (keeps s x).trans (ih _)

/-! ### Reading operands -/

theorem State.markRead_sameStatus (s : State) (o : Opd) : s.SameStatus (s.markRead o) := by
  refine State.foldl_sameStatus (fun s r => ?_) _ s
  split
  · split
    · exact s.modK_sameStatus _ _
    · exact s.modMyGroup_sameStatus _ fun _ => rfl
  · exact .refl s

/-- A pop of a group or sequencer takes an entry of its latch, or of a queue of its team, group or sequencer. -/
theorem State.popPort_sameStatus (s : State) (n : Nat) (kind : s.kind ≠ .host) : s.SameStatus (s.popPort n).2 := by
  unfold State.popPort
  cases c : s.cur with
  | group t g p =>
    dsimp only
    split
    · exact s.modGroup_sameStatus _ _ _ fun _ => rfl
    · split_ifs
      · exact s.modTeam_sameStatus _ _ fun _ => rfl
      · split
        · exact .refl s
        · exact .refl s
        · refine .trans ?_ (State.modGroup_sameStatus _ _ _ _ fun _ => rfl)
          exact s.modTeam_sameStatus _ _ fun _ => rfl
      · exact s.modTeam_sameStatus _ _ fun _ => rfl
      · exact s.modGroup_sameStatus _ _ _ fun _ => rfl
      · exact s.modTeam_sameStatus _ _ fun _ => rfl
  | seq t =>
    dsimp only
    split_ifs
    · exact s.modTeam_sameStatus _ _ fun _ => rfl
    · exact s.modSeq_sameStatus _ _ fun _ => rfl
  | host t => exact absurd (congrArg kindOf c) kind

theorem State.readOpd_sameStatus (s : State) (o : Opd) (kind : s.kind ≠ .host) : s.SameStatus (s.readOpd o).2 := by
  unfold State.readOpd
  split
  · exact s.markRead_sameStatus o
  · exact s.markRead_sameStatus o
  · exact .refl s
  · exact s.popPort_sameStatus _ kind
  all_goals exact .refl s

/-- Reading the operands of an instruction of a group or sequencer. -/
theorem State.readAll_sameStatus (s : State) (os : List Opd) (kind : s.kind ≠ .host) : s.SameStatus (s.readAll os).2 := by
  induction os generalizing s with
  | nil => exact .refl s
  | cons o os ih =>
    unfold State.readAll
    split
    · exact ih s kind
    · have first := s.readOpd_sameStatus o kind
      exact first.trans (ih _ (first.kind ▸ kind))

/-! ### A host core reads operands -/

theorem State.modView_cur (s : State) (t : Nat) (event : Bool) (f : Team → Team) : (s.modView t event f).cur = s.cur := by
  unfold State.modView
  dsimp only
  split
  · exact State.modTeam_cur s t _
  · exact State.modTeam_cur s t f

theorem State.popMailbox_cur (s : State) (c : Nat) : (s.popMailbox c).2.cur = s.cur := by
  unfold State.popMailbox
  split
  · rfl
  · exact State.modView_cur _ _ _ _

theorem State.readOpd_cur_of_host {s : State} {c : Nat} (host : s.cur = .host c) (o : Opd) : (s.readOpd o).2.cur = s.cur := by
  unfold State.readOpd
  split
  case h_4 n _ =>
    simp only [State.popPort, host]
    split_ifs
    · exact host
    · exact (s.popMailbox_cur c).trans host
  case h_1 | h_2 => exact (s.markRead_sameStatus o).cur
  all_goals rfl

theorem State.readAll_cur_of_host {s : State} {c : Nat} (host : s.cur = .host c) (os : List Opd) :
    (s.readAll os).2.cur = s.cur := by
  induction os generalizing s with
  | nil => rfl
  | cons o os ih =>
    unfold State.readAll
    split
    · exact ih host
    · have first := State.readOpd_cur_of_host host o
      exact (ih (first.trans host)).trans first

/-- Reading operands leaves the issuing context in place. -/
theorem State.live_readAll {s : State} (live : Spec.live s) (os : List Opd) : Spec.live (s.readAll os).2 := by
  by_cases kind : s.kind = .host
  · obtain ⟨c, host⟩ := State.cur_of_kind_host kind
    exact State.live_host ((State.readAll_cur_of_host host os).trans host)
  · exact (s.readAll_sameStatus os kind).live live

/-! ### Writing a result -/

theorem State.pushPort_sameStatus (s : State) (n words : Nat) (f : Lanes) (kind : s.kind ≠ .host) :
    s.SameStatus (s.pushPort n words f) := by
  unfold State.pushPort
  cases c : s.cur with
  | group t g p =>
    dsimp only
    split_ifs
    · exact s.modTeam_sameStatus _ _ fun _ => rfl
    · exact s.modTeam_sameStatus _ _ fun _ => rfl
    · refine .trans ?_ (State.modHost_sameStatus _ _ _)
      exact s.modTeam_sameStatus _ _ fun _ => rfl
  | seq t => exact s.modTeam_sameStatus _ _ fun _ => rfl
  | host t => exact absurd (congrArg kindOf c) kind

/-- A result of a group or sequencer goes to a register of its own or to a queue. -/
theorem State.writeOpd_sameStatus (s : State) (o : Opd) (f : Lanes) (kind : s.kind ≠ .host) :
    s.SameStatus (s.writeOpd o f) := by
  unfold State.writeOpd
  dsimp only
  split
  case h_1 =>
    refine State.foldl_sameStatus (fun u i => ?_) _ s
    exact u.modMyGroup_sameStatus _ fun _ => rfl
  case h_2 =>
    split
    · exact (s.setK_sameStatus _ _ _).trans (State.setK_sameStatus _ _ _ _)
    · exact s.setK_sameStatus _ _ _
  case h_3 =>
    split
    · exact (s.setS_sameStatus _ _ _).trans (State.setS_sameStatus _ _ _ _)
    · exact s.setS_sameStatus _ _ _
  case h_4 => exact s.pushPort_sameStatus _ _ f kind
  case h_5 => exact .refl s

/-! ### Flags (R38) -/

/-- Raised flags are added to `STAT` of the issuing group or sequencer, and no trap register changes. -/
theorem State.raiseFlags_ctxRegs {s : State} (live : Spec.live s) (kind : s.kind ≠ .host) (f : Word) :
    (s.raiseFlags f).ctxRegs s.cur = (s.ctxRegs s.cur).raise f := by
  unfold State.raiseFlags
  split
  case isTrue none => simp [none, Regs.raise]
  case isFalse =>
    cases c : s.cur with
    | group t g p =>
      obtain ⟨known, inTeam, -⟩ := State.live_group live c
      exact congrArg Group.regs (s.group_modGroup t g _ known inTeam)
    | seq t =>
      obtain ⟨known, runs⟩ := State.live_seq live c
      exact congrArg Seqr.regs (s.seqr_modSeq t _ known runs)
    | host t => exact absurd (congrArg kindOf c) kind

end Sys2Proof.Machine
end

section
/-! SUPPORT. Predicates (R22): what a write of a predicate makes of each of them; compares (R97) and predicate logic (R100). -/

namespace Sys2Proof.Machine

/-! ### Lanes, masks and bits -/

theorem mem_span {a n i : Nat} : i ∈ span a n ↔ a ≤ i ∧ i < a + n := by
  induction n generalizing a with
  | zero => simp only [span, List.not_mem_nil, false_iff]; omega
  | succ n ih => simp only [span, List.mem_cons, ih]; omega

/-- The lanes of a mask are its 1 bits. -/
theorem mem_lanesOf {m : Word} {l : Nat} : l ∈ lanesOf m ↔ m.getLsbD l = true := by
  simp only [lanesOf, upto, List.mem_filter, mem_span, Nat.zero_le, true_and, Nat.zero_add, and_iff_right_iff_imp]
  exact BitVec.lt_of_getLsbD

theorem getLsbD_one_shiftLeft {w n q : Nat} (hq : q < w) : ((1 : BitVec w) <<< n).getLsbD q = decide (q = n) := by
  simp only [BitVec.getLsbD_shiftLeft, hq]
  grind

/-- The mask of a list of lanes has a bit for each of them. -/
theorem getLsbD_maskOf {l : Nat} (hl : l < 32) (ls : List Nat) : (maskOf ls).getLsbD l = decide (l ∈ ls) := by
  have bits (m : Word) : (ls.foldl (fun m l => m ||| ((1 : Word) <<< l)) m).getLsbD l = (m.getLsbD l || decide (l ∈ ls)) := by
    induction ls generalizing m with
    | nil => simp
    | cons k ls ih =>
      simp only [List.foldl_cons, ih, BitVec.getLsbD_or, getLsbD_one_shiftLeft hl, List.mem_cons, Bool.decide_or,
        Bool.or_assoc]
  rw [maskOf, bits]
  simp

theorem getLsbD_setBit8 (x : Byte) {n : Nat} (hn : n < 8) (b : Bool) (q : Nat) :
    (setBit8 x n b).getLsbD q = if q = n then b else x.getLsbD q := by
  by_cases hq : q < 8
  · have one := getLsbD_one_shiftLeft (n := n) hq
    unfold setBit8
    cases b <;> grind
  · have out (y : Byte) : y.getLsbD q = false := BitVec.getLsbD_of_ge y q (by omega)
    rw [out, out, if_neg (by omega)]

/-! ### Predicates of each kind of context (R22) -/

theorem State.pred_seven (s : State) : s.pred 7 = BitVec.allOnes 32 := rfl

theorem State.setPred_seven (s : State) (f : Nat → Bool) : s.setPred 7 f = s := rfl

section
variable {s : State} {n : Nat}

theorem State.pred_of_group {t g p : Nat} (issues : s.cur = .group t g p) (hn : n ≠ 7) :
    s.pred n = tabGet 0 n (s.group t g).preds := by
  simp only [State.pred, issues, hn, if_false]

theorem State.pred_of_seq {t : Nat} (issues : s.cur = .seq t) (hn : n ≠ 7) :
    s.pred n = if (s.seqr t).p.getLsbD n then 1 else 0 := by
  simp only [State.pred, issues, hn, if_false]

theorem State.pred_of_host {c : Nat} (issues : s.cur = .host c) (hn : n ≠ 7) :
    s.pred n = if (s.host c).p.getLsbD n then 1 else 0 := by
  simp only [State.pred, issues, hn, if_false]

/-- The predicates of a group after a write: the active lanes of one of them take the value. -/
theorem State.preds_setPred_of_group {t g p : Nat} (live : Spec.live s) (issues : s.cur = .group t g p) (hn : n ≠ 7)
    (f : Nat → Bool) :
    let m := s.ctxMask s.cur
    ((s.setPred n f).group t g).preds =
      tabSet n ((s.pred n &&& ~~~m) ||| maskOf ((lanesOf m).filter f)) (s.group t g).preds := by
  obtain ⟨known, inTeam, -⟩ := State.live_group live issues
  simp only [State.setPred, State.pred, State.ctxMask, issues, hn, if_false, s.group_modGroup t g _ known inTeam]

theorem State.p_setPred_of_seq {t : Nat} (live : Spec.live s) (issues : s.cur = .seq t) (hn : n ≠ 7) (f : Nat → Bool) :
    ((s.setPred n f).seqr t).p = setBit8 (s.seqr t).p n (f 0) := by
  obtain ⟨known, runs⟩ := State.live_seq live issues
  simp only [State.setPred, issues, hn, if_false, s.seqr_modSeq t _ known runs]

theorem State.p_setPred_of_host {c : Nat} (issues : s.cur = .host c) (hn : n ≠ 7) (f : Nat → Bool) :
    ((s.setPred n f).host c).p = setBit8 (s.host c).p n (f 0) := by
  simp only [State.setPred, issues, hn, if_false, State.host_modHost]

end

/-- A predicate of a scalar context stands in bit 0, its one active lane. -/
theorem getLsbD_scalarPred (b : Bool) (l : Nat) : (if b then 1 else 0 : Word).getLsbD l = (decide (l = 0) && b) := by
  cases b <;> simp [BitVec.getLsbD_one]

/-! ### A written predicate (R22) -/

/-- The other predicates stay; a write of 7 is discarded. -/
theorem State.pred_setPred_other {s : State} (live : Spec.live s) {n q : Nat} (hn : n < 8) (other : q ≠ n ∨ n = 7)
    (f : Nat → Bool) : (s.setPred n f).pred q = s.pred q := by
  by_cases hn7 : n = 7
  · rw [hn7, State.setPred_seven]
  by_cases hq7 : q = 7
  · rw [hq7, State.pred_seven, State.pred_seven]
  have hqn : q ≠ n := other.resolve_right hn7
  have cur := (s.setPred_sameStatus n f).cur
  cases issues : s.cur with
  | group t g p =>
    rw [State.pred_of_group issues hq7, State.pred_of_group (cur.trans issues) hq7,
      State.preds_setPred_of_group live issues hn7, tabGet_tabSet_other _ _ _ hqn]
  | seq t =>
    rw [State.pred_of_seq issues hq7, State.pred_of_seq (cur.trans issues) hq7, State.p_setPred_of_seq live issues hn7,
      getLsbD_setBit8 _ hn, if_neg hqn]
  | host c =>
    rw [State.pred_of_host issues hq7, State.pred_of_host (cur.trans issues) hq7, State.p_setPred_of_host issues hn7,
      getLsbD_setBit8 _ hn, if_neg hqn]

/-- The written predicate takes the value in the active lanes, and keeps its own in the others. -/
theorem State.pred_setPred_same {s : State} (live : Spec.live s) {n l : Nat} (hn : n < 7) (hl : l < 32) (f : Nat → Bool) :
    ((s.setPred n f).pred n).getLsbD l = if (s.ctxMask s.cur).getLsbD l then f l else (s.pred n).getLsbD l := by
  have hn7 : n ≠ 7 := by omega
  have hn8 : n < 8 := by omega
  have cur := (s.setPred_sameStatus n f).cur
  cases issues : s.cur with
  | group t g p =>
    rw [State.pred_of_group (cur.trans issues) hn7, State.preds_setPred_of_group live issues hn7, tabGet_tabSet_same]
    simp only [BitVec.getLsbD_or, BitVec.getLsbD_and, BitVec.getLsbD_not, getLsbD_maskOf hl, List.mem_filter, mem_lanesOf,
      hl, issues]
    cases (s.ctxMask (.group t g p)).getLsbD l <;> simp
  | seq t =>
    rw [State.pred_of_seq issues hn7, State.pred_of_seq (cur.trans issues) hn7, State.p_setPred_of_seq live issues hn7,
      getLsbD_setBit8 _ hn8]
    simp only [if_true, getLsbD_scalarPred, State.ctxMask]
    by_cases h : l = 0 <;> simp [h, BitVec.getLsbD_one]
  | host c =>
    rw [State.pred_of_host issues hn7, State.pred_of_host (cur.trans issues) hn7, State.p_setPred_of_host issues hn7,
      getLsbD_setBit8 _ hn8]
    simp only [if_true, getLsbD_scalarPred, State.ctxMask]
    by_cases h : l = 0 <;> simp [h, BitVec.getLsbD_one]

/-- Going on to the next instruction changes no predicate. -/
theorem State.pred_advance {s : State} (live : Spec.live s) (n : Nat) : s.advance.pred n = s.pred n := by
  by_cases hn7 : n = 7
  · rw [hn7, State.pred_seven, State.pred_seven]
  have cur := s.advance_sameStatus.cur
  cases issues : s.cur with
  | group t g p =>
    obtain ⟨known, inTeam, -⟩ := State.live_group live issues
    rw [State.pred_of_group issues hn7, State.pred_of_group (cur.trans issues) hn7, State.advance, issues]
    simp only [State.advanceOf, State.modSplit, s.group_modGroup t g _ known inTeam]
  | seq t =>
    obtain ⟨known, runs⟩ := State.live_seq live issues
    rw [State.pred_of_seq issues hn7, State.pred_of_seq (cur.trans issues) hn7, State.advance, issues]
    simp only [State.advanceOf, s.seqr_modSeq t _ known runs]
  | host c =>
    rw [State.pred_of_host issues hn7, State.pred_of_host (cur.trans issues) hn7, State.advance, issues]
    simp only [State.advanceOf, State.host_modHost]

/-- An instruction that writes a predicate and goes on has written it as R22 says. -/
theorem predicateWritten_setPred_advance {s : State} (live : Spec.live s) {n : Nat} (hn : n < 8) (f : Nat → Bool) :
    Spec.predicateWritten n f s (s.setPred n f).advance := by
  have advanced := State.pred_advance ((s.setPred_sameStatus n f).live live)
  refine ⟨fun l hl hn7 => ?_, fun q other => ?_⟩
  · rw [advanced, State.pred_setPred_same live hn7 hl]
  · rw [advanced, State.pred_setPred_other live hn other]

/-! ### Predicate logic (R100) -/

/-- A predicate form completes on every state, with its function of the two predicates. -/
theorem exec_predicateLogic {i : Instr} {d a b : BitVec 3} {f : Bool → Bool → Bool}
    (form : Spec.predicateLogic i = some (d, a, b, f)) (s : State) :
    exec i s = .next (s.setPred d.toNat fun l =>
      f ((s.pred a.toNat).getLsbD l) ((s.pred b.toNat).getLsbD l)).advance := by
  unfold Spec.predicateLogic at form
  split at form <;> cases form <;> rfl

/-- A word of a form with a reserved bit that is set, where its fields hold no unassigned code. -/
theorem keep_of_reserved {w m : Word} {i : Instr} (reserved : w &&& m ≠ 0) (assigned : i.unassignedCode = false) :
    keep w m i = .error (.illegal 2) := by
  simp only [keep, reserved, assigned, if_false, Bool.false_eq_true]

/-- The words of predicate logic are read by their `fn`, and `pnot` reserves the field of the second source as well. -/
theorem decode_predicateLogic {w : Word} (major : w.toNat / 2 ^ 25 = 0x3E) (fn : w.toNat % 16 ≤ 3) :
    ∃ i : Instr, i.unassignedCode = false ∧
      decode w = keep w (if w.toNat % 16 = 3 then 0x01E3C7F0 else 0x01E3C780) i := by
  have low : (fld w 0 4).toNat = w.toNat % 16 := by simp [fld]
  unfold decode
  rw [toNat_fld_major, major]
  simp only [low]
  obtain h | h | h | h : w.toNat % 16 = 0 ∨ w.toNat % 16 = 1 ∨ w.toNat % 16 = 2 ∨ w.toNat % 16 = 3 := by omega
  · rw [h]; exact ⟨.pand _ _ _, rfl, rfl⟩
  · rw [h]; exact ⟨.por _ _ _, rfl, rfl⟩
  · rw [h]; exact ⟨.pxor _ _ _, rfl, rfl⟩
  · rw [h]; exact ⟨.pnot _ _, rfl, rfl⟩

/-- A mask that finds no bit of a word finds none in any part of it. -/
theorem and_eq_zero_of_part {w m k : Word} (part : m &&& k = k) (none : w &&& m = 0) : w &&& k = 0 := by
  rw [← part, ← BitVec.and_assoc, none]
  exact BitVec.zero_and

/-- Settles O7: the four forms write their function of two predicates, and a reserved bit of their words is reason 2. -/
theorem predicateLogicWritesItsFunction : Obligations.PredicateLogicWritesItsFunction := by
  refine ⟨fun i s d a b f form live => ?_, fun w major fn reserved => ?_⟩
  · refine ⟨_, exec_predicateLogic form s, predicateWritten_setPred_advance live d.isLt _, ?_⟩
    rintro rfl
    rfl
  · obtain ⟨i, assigned, read⟩ := decode_predicateLogic major fn
    rw [read]
    refine keep_of_reserved ?_ assigned
    split
    · intro none
      exact reserved.elim (· (and_eq_zero_of_part rfl none)) (·.2 (and_eq_zero_of_part rfl none))
    · next h => exact reserved.resolve_right fun r => h r.1

/-! ### Compares (R97) -/

/-- The two's complement reading of the low bits of a value. -/
theorem toInt_setWidth_eq_sgn (n : Nat) (x : BitVec 128) : (x.setWidth n).toInt = Spec.sgn n (x.toNat % 2 ^ n) := by
  rw [BitVec.toInt_eq_toNat_cond, BitVec.toNat_setWidth, Spec.sgn]
  cases n with
  | zero => simp [Nat.mod_one]
  | succ n =>
    rw [Nat.add_sub_cancel, Nat.pow_succ]
    push_cast
    congr 1
    exact propext (by omega)

theorem cmpInt_eq_condition (c : BitVec 3) (a b : Int) : cmpInt c a b = Spec.condition c.toNat a b := by
  unfold cmpInt Spec.condition
  generalize c.toNat = code
  match code with
  | 0 | 1 | 2 | 3 | 4 => rfl
  | _ + 5 => simp

/-- A compare whose operands are ready writes what it finds of them. -/
theorem conclude_aluCmp_of_ready {s : State} {a b : RegNum} {w : Bool}
    (ready : s.ready [srcAny a (s.width w [a, b] / 32), srcAny b (s.width w [a, b] / 32)] = .ok ())
    (value : (n : Nat) → BitVec n → Int) (p c : BitVec 3) :
    let n := s.width w [a, b]
    let os := [srcAny a (n / 32), srcAny b (n / 32)]
    let x := fun k l => value n ((nthLanes (s.readAll os).1 k l).setWidth n)
    conclude s (aluCmp value p a b w c s) =
      .next ((s.readAll os).2.setPred p.toNat fun l => Spec.condition c.toNat (x 0 l) (x 1 l)).advance := by
  simp only [aluCmp, State.operands_of_ready s _ ready, bind, Except.bind, conclude_ok, cmpInt_eq_condition]

/-- R97: `cmp` reads its operands as two's complement values, `cmpU` as unsigned ones. -/
theorem exec_compareForm {i : Instr} {s : State} {p : BitVec 3} {a b : RegNum} {w : Bool} {c : BitVec 3}
    {v : Nat → Nat → Int} (form : Spec.compareForm i = some (p, a, b, w, c, v))
    (ready : s.ready [srcAny a (s.width w [a, b] / 32), srcAny b (s.width w [a, b] / 32)] = .ok ()) :
    let n := s.width w [a, b]
    let os := [srcAny a (n / 32), srcAny b (n / 32)]
    let x := fun k l => v n ((nthLanes (s.readAll os).1 k l).toNat % 2 ^ n)
    exec i s = .next ((s.readAll os).2.setPred p.toNat fun l => Spec.condition c.toNat (x 0 l) (x 1 l)).advance := by
  unfold Spec.compareForm at form
  split at form <;> cases form
  case h_1 =>
    refine (conclude_aluCmp_of_ready ready (fun _ x => x.toInt) p c).trans ?_
    simp only [toInt_setWidth_eq_sgn]
  case h_2 =>
    refine (conclude_aluCmp_of_ready ready (fun _ x => (x.toNat : Int)) p c).trans ?_
    simp only [BitVec.toNat_setWidth]

/-! ### Words of compares (R74, R77) -/

section
variable (op : BitVec 11) (p : BitVec 3) (a b : RegNum) (w : BitVec 1) (c : BitVec 3)

theorem fld_code_of_compare : fld (op ++ p ++ a ++ b ++ w ++ c) 0 3 = c := by
  have low : (op ++ p ++ a ++ b ++ w ++ c).extractLsb' 0 3 = c := BitVec.extractLsb'_append_eq_right
  exact low

theorem fld_major_of_compare : fld (op ++ p ++ a ++ b ++ w ++ c) 25 7 = op.extractLsb' 4 7 := by
  have high : (op ++ p ++ a ++ b ++ w ++ c).extractLsb' 25 7 = op.extractLsb' 4 7 := by
    iterate 5 rw [BitVec.extractLsb'_append_eq_of_le (by decide)]
  exact high

end

theorem decode_cmp {w : Word} (major : fld w 25 7 = 0x0C) :
    decode w = keep w 0x01E00000 (.cmp (fld w 18 3) (fld w 11 7) (fld w 4 7) (bit w 3) (fld w 0 3)) := by
  unfold decode
  rw [major]
  rfl

theorem decode_cmpU {w : Word} (major : fld w 25 7 = 0x0D) :
    decode w = keep w 0x01E00000 (.cmpU (fld w 18 3) (fld w 11 7) (fld w 4 7) (bit w 3) (fld w 0 3)) := by
  unfold decode
  rw [major]
  rfl

/-- The word of a compare is read as a compare with its code. -/
theorem decode_of_compareForm {i : Instr} {p : BitVec 3} {a b : RegNum} {w : Bool} {c : BitVec 3} {v : Nat → Nat → Int}
    (form : Spec.compareForm i = some (p, a, b, w, c, v)) {word : Word} (encoded : encode i = some word) :
    ∃ j : Instr, decode word = keep word 0x01E00000 j ∧ j.unassignedCode = decide (5 < c.toNat) := by
  unfold Spec.compareForm at form
  split at form <;> cases form <;> cases encoded
  case h_1 =>
    exact ⟨_, decode_cmp (fld_major_of_compare _ p a b _ c), by rw [fld_code_of_compare]; rfl⟩
  case h_2 =>
    exact ⟨_, decode_cmpU (fld_major_of_compare _ p a b _ c), by rw [fld_code_of_compare]; rfl⟩

/-- A word that is read with an unassigned code is no instruction: reason 1, whatever its reserved bits are. -/
theorem instrOf_of_unassignedCode {w m : Word} {i : Instr} (read : decode w = keep w m i)
    (unassigned : i.unassignedCode = true) : instrOf w = .error (.trap 1 (BitVec.ofNat 64 (w.toNat + 2 ^ 32)) 0) := by
  unfold instrOf
  rw [read, keep]
  split_ifs
  · simp only [Instr.fieldReason, unassigned, if_true]
    rfl
  · rfl

/-- Settles O6: a compare writes its condition, and its codes 6 and 7 are unassigned. -/
theorem comparesWriteTheirCondition : Obligations.ComparesWriteTheirCondition := by
  intro i s p a b w c v form live n os
  refine ⟨fun _ ready => ?_, fun unassigned => ⟨?_, fun word encoded => ?_⟩⟩
  · refine ⟨_, exec_compareForm form ready, predicateWritten_setPred_advance (State.live_readAll live os) p.isLt _, ?_⟩
    rintro rfl
    rfl
  · have reason : i.unassignedCode = true := by
      unfold Spec.compareForm at form
      split at form <;> cases form <;> exact decide_eq_true unassigned
    rw [Instr.fieldReason, if_pos reason]
  · obtain ⟨j, read, code⟩ := decode_of_compareForm form encoded
    exact instrOf_of_unassignedCode read (code.trans (decide_eq_true unassigned))

end Sys2Proof.Machine
end

section
/-! SUPPORT. Integer forms (R85 to R100): that they complete on all data, and the flags they set (R87). -/

namespace Sys2Proof.Machine

/-! ### Integer forms whose operands are ready write one result and go on -/

/-- The outcome of an instruction that read its operands, wrote a result, raised flags and went on. -/
def Completes (s : State) (os : List Opd) (o : Opd) (flags : Word) (r : Host.Outcome State Fault Refusal) : Prop :=
  ∃ v, r = .next ((((s.readAll os).2.writeOpd o v).raiseFlags flags).advance)

section
variable {s : State} {d a b : RegNum} {alt : Bool}

theorem completes_aluBin
    (ready : let n := s.width alt [d, a, b] / 32; s.ready [srcAny a n, srcAny b n, dstAny d n] = .ok ())
    (f : (n : Nat) → BitVec n → BitVec n → BitVec n) :
    let n := s.width alt [d, a, b] / 32
    Completes s [srcAny a n, srcAny b n, dstAny d n] (dstAny d n) 0 (conclude s (aluBin f d a b alt s)) := by
  rw [aluBin, State.operands_of_ready s _ ready]
  exact ⟨_, rfl⟩

theorem completes_aluTri
    (ready : let n := s.width alt [d, a, b] / 32; s.ready [srcAny a n, srcAny b n, bothAny d n] = .ok ())
    (f : (n : Nat) → BitVec n → BitVec n → BitVec n → BitVec n) :
    let n := s.width alt [d, a, b] / 32
    Completes s [srcAny a n, srcAny b n, bothAny d n] (dstAny d n) 0 (conclude s (aluTri f d a b alt s)) := by
  rw [aluTri, State.operands_of_ready s _ ready]
  exact ⟨_, rfl⟩

theorem completes_aluUn (ready : let n := s.width alt [d, a] / 32; s.ready [srcAny a n, dstAny d n] = .ok ())
    (f : (n : Nat) → BitVec n → BitVec n) :
    let n := s.width alt [d, a] / 32
    Completes s [srcAny a n, dstAny d n] (dstAny d n) 0 (conclude s (aluUn f d a alt s)) := by
  rw [aluUn, State.operands_of_ready s _ ready]
  exact ⟨_, rfl⟩

theorem completes_aluImm (ready : let n := s.width false [d, a] / 32; s.ready [srcAny a n, dstAny d n] = .ok ())
    (f : (n : Nat) → BitVec n → BitVec n → BitVec n) (i : BitVec 11) :
    let n := s.width false [d, a] / 32
    Completes s [srcAny a n, dstAny d n] (dstAny d n) 0 (conclude s (aluImm f d a i s)) := by
  rw [aluImm, State.operands_of_ready s _ ready]
  exact ⟨_, rfl⟩

theorem completes_execSel
    (ready : let n := s.width alt [d, a, b] / 32; s.ready [srcAny a n, srcAny b n, dstAny d n] = .ok ()) (p : BitVec 3) :
    let n := s.width alt [d, a, b] / 32
    Completes s [srcAny a n, srcAny b n, dstAny d n] (dstAny d n) 0 (execSel d a b alt p s) := by
  unfold execSel
  dsimp only
  rw [State.operands_of_ready s _ ready]
  exact ⟨_, rfl⟩

theorem completes_execMovi (ready : s.ready [dstAny d (s.width false [d] / 32)] = .ok ()) (i : BitVec 18) :
    let n := s.width false [d] / 32
    Completes s [dstAny d n] (dstAny d n) 0 (execMovi d i s) := by
  unfold execMovi
  dsimp only
  rw [State.operands_of_ready s _ ready]
  exact ⟨_, rfl⟩

theorem completes_execMovh (ready : s.ready [bothAny d (s.width false [d] / 32)] = .ok ()) (i : BitVec 18) :
    let n := s.width false [d] / 32
    Completes s [bothAny d n] (dstAny d n) 0 (execMovh d i s) := by
  unfold execMovh
  dsimp only
  rw [State.operands_of_ready s _ ready]
  exact ⟨_, rfl⟩

/-! ### Divisions (R87, R95) -/

/-- The flags of lanes that either raise `flag` or none. -/
theorem orFlags_ite (ls : List Nat) (p : Nat → Prop) [DecidablePred p] (flag : Word) :
    orFlags ls (fun l => if p l then flag else 0) = if ∃ l ∈ ls, p l then flag else 0 := by
  have bits (m : Word) : ls.foldl (fun m l => m ||| if p l then flag else 0) m =
      m ||| if ∃ l ∈ ls, p l then flag else 0 := by
    induction ls generalizing m with
    | nil => simp
    | cons l ls ih =>
      rw [List.foldl_cons, ih]
      by_cases here : p l <;> by_cases later : ∃ k ∈ ls, p k <;> simp [here, later, BitVec.or_assoc]
  exact (bits 0).trans BitVec.zero_or

/-- The flags that an integer instruction raises: DZ for a division by 0, and no other (R87). -/
def RaisesOnlyDZ (i : Instr) (s : State) (flags : Word) : Prop :=
  (Spec.dividesByZero s i → flags = flagDZ) ∧ (¬ Spec.dividesByZero s i → flags = 0)

theorem raisesOnlyDZ_zero {i : Instr} (h : ¬ Spec.dividesByZero s i) : RaisesOnlyDZ i s 0 :=
  ⟨fun k => absurd k h, fun _ => rfl⟩

/-- A division raises DZ when a lane that computes has a divisor of 0. -/
def divisionFlags (d a b : RegNum) (alt : Bool) (s : State) : Word :=
  let n := s.width alt [d, a, b]
  let x := s.readAll [srcAny a (n / 32), srcAny b (n / 32), dstAny d (n / 32)]
  orFlags (x.2.computing d) fun l => if (nthLanes x.1 1 l).setWidth n = 0 then flagDZ else 0

theorem completes_aluDiv
    (ready : let n := s.width alt [d, a, b] / 32; s.ready [srcAny a n, srcAny b n, dstAny d n] = .ok ())
    (f : (n : Nat) → BitVec n → BitVec n → BitVec n) :
    let n := s.width alt [d, a, b] / 32
    Completes s [srcAny a n, srcAny b n, dstAny d n] (dstAny d n) (divisionFlags d a b alt s)
      (conclude s (aluDiv f d a b alt s)) := by
  rw [aluDiv, State.operands_of_ready s _ ready]
  exact ⟨_, rfl⟩

theorem raisesOnlyDZ_divisionFlags (kind : s.kind ≠ .host) :
    RaisesOnlyDZ (.div d a b alt) s (divisionFlags d a b alt s) := by
  have zero (n : Nat) (x : BitVec 128) : x.setWidth n = 0 ↔ x.toNat % 2 ^ n = 0 := by
    rw [← BitVec.toNat_inj, BitVec.toNat_setWidth]
    exact Iff.rfl
  unfold divisionFlags
  dsimp only
  rw [(s.readAll_sameStatus _ kind).computing, orFlags_ite]
  simp only [zero]
  exact ⟨fun h => if_pos h, fun h => if_neg h⟩

end

/-! ### All integer instructions (R87) -/

theorem not_dividesByZero {i : Instr} (other : Spec.isDivision i = false) (s : State) : ¬ Spec.dividesByZero s i := by
  unfold Spec.dividesByZero
  split
  case h_5 => exact id
  all_goals cases other

/-- The integer forms but the divisions, in the order in which `Spec.integerForm` lists them. -/
theorem completes_of_integerForm {i : Instr} {s : State} {os : List Opd} {o : Opd}
    (form : Spec.integerForm s i = some (os, o)) (ready : s.ready os = .ok ()) (other : Spec.isDivision i = false) :
    Completes s os o 0 (exec i s) := by
  unfold Spec.integerForm at form
  split at form <;> cases form
  iterate 18 exact completes_aluBin ready _ -- `add` to `bfx`
  · exact completes_execSel ready _
  · exact completes_aluBin ready _ -- `lea`
  iterate 4 cases other
  iterate 2 exact completes_aluTri ready _
  iterate 4 exact completes_aluUn ready _
  iterate 5 exact completes_aluImm ready _ _
  · exact completes_execMovi ready _
  · exact completes_execMovh ready _

theorem completes_of_isDivision {i : Instr} {s : State} {os : List Opd} {o : Opd}
    (form : Spec.integerForm s i = some (os, o)) (ready : s.ready os = .ok ()) (division : Spec.isDivision i = true)
    (kind : s.kind ≠ .host) : ∃ flags, Completes s os o flags (exec i s) ∧ RaisesOnlyDZ i s flags := by
  unfold Spec.isDivision at division
  split at division
  case h_5 => cases division
  all_goals
    cases form
    exact ⟨_, completes_aluDiv ready _, raisesOnlyDZ_divisionFlags kind⟩

/-- Every integer instruction of a group or sequencer, once its operands are ready, has its flags and trap registers
as before until it raises its flags and goes on. -/
theorem exec_integerOperands {i : Instr} {s : State} {os : List Opd} (form : Spec.integerOperands s i = some os)
    (ready : s.ready os = .ok ()) (kind : s.kind ≠ .host) :
    ∃ u flags, exec i s = .next ((u.raiseFlags flags).advance) ∧ s.SameStatus u ∧ RaisesOnlyDZ i s flags := by
  have read := s.readAll_sameStatus os kind
  unfold Spec.integerOperands at form
  split at form
  case h_1 | h_2 =>
    cases form
    exact ⟨_, 0, exec_compareForm rfl ready, read.trans (State.setPred_sameStatus _ _ _), raisesOnlyDZ_zero id⟩
  case h_7 =>
    obtain ⟨⟨_, o⟩, found, rfl⟩ := Option.map_eq_some_iff.1 form
    obtain ⟨flags, ⟨v, completes⟩, only⟩ : ∃ flags, Completes s _ o flags (exec i s) ∧ RaisesOnlyDZ i s flags := by
      cases division : Spec.isDivision i with
      | true => exact completes_of_isDivision found ready division kind
      | false =>
        have nonzero := not_dividesByZero division s
        exact ⟨0, completes_of_integerForm found ready division, raisesOnlyDZ_zero nonzero⟩
    exact ⟨_, flags, completes, read.trans (State.writeOpd_sameStatus _ o v (read.kind ▸ kind)), only⟩
  all_goals exact ⟨_, 0, exec_predicateLogic rfl s, s.setPred_sameStatus _ _, raisesOnlyDZ_zero id⟩

/-- Raised flags are what becomes of the flags and trap registers when an instruction raises them and goes on. -/
theorem ctxRegs_raiseFlags_advance {s u : State} (same : s.SameStatus u) (live : Spec.live s) (kind : s.kind ≠ .host)
    (flags : Word) : (u.raiseFlags flags).advance.ctxRegs s.cur = (s.ctxRegs s.cur).raise flags := by
  have cur : (u.raiseFlags flags).cur = s.cur := (u.raiseFlags_only flags).cur.trans same.cur
  have kind' : u.kind ≠ .host := same.kind ▸ kind
  have stays := (u.raiseFlags flags).advance_sameStatus.ctxRegs (by rw [State.kind, cur]; exact kind)
  have raised := State.raiseFlags_ctxRegs (same.live live) kind' flags
  rw [cur] at stays
  rw [same.cur] at raised
  rw [stays, raised, same.ctxRegs kind]

/-- Settles O9: an integer instruction ends by raising its flags, which are DZ for a division by 0 and none else. -/
theorem integerFormsSetNoFlagButDZ : Obligations.IntegerFormsSetNoFlagButDZ := by
  intro i s os form live kind ready
  obtain ⟨u, flags, completes, same, byZero, otherwise⟩ := exec_integerOperands form ready kind
  have regs := ctxRegs_raiseFlags_advance same live kind flags
  refine ⟨_, completes, ?_, fun h => ?_, fun h => ?_⟩
  · rw [regs]; rfl
  · rw [regs, byZero h]; rfl
  · rw [regs, otherwise h]; exact BitVec.or_zero

end Sys2Proof.Machine
end

section
/-! SUPPORT. Capabilities (R164): operands that are ready are of their classes, reading registers leaves a context's job, and
`capck` checks a capability with no more than its context. -/

namespace Sys2Proof.Machine

/-! ### Operands that are ready (R78) -/

/-- Where no element has an error, every element passes. -/
theorem ok_of_firstErr_ok {α ε : Type} {f : α → Except ε Unit} {l : List α} (passes : firstErr f l = .ok ()) :
    ∀ x ∈ l, f x = .ok () := by
  induction l with
  | nil => intro x h; cases h
  | cons y l ih =>
    unfold firstErr at passes
    split at passes
    · cases passes
    · next first => exact List.forall_mem_cons.2 ⟨first, ih passes⟩

/-- R78, step 2: an operand that is ready is of a class that its field admits. -/
theorem State.has_of_ready {s : State} {os : List Opd} (ready : s.ready os = .ok ()) :
    ∀ o ∈ os, o.set.has s.kind (s.cls o) = true := by
  have classes : firstErr s.checkClass os = .ok () := by
    cases h : firstErr s.checkClass os with
    | ok => rfl
    | error e => simp only [State.ready, State.checkOpds, h, bind, Except.bind, reduceCtorEq] at ready
  intro o mem
  have checked := ok_of_firstErr_ok classes o mem
  by_contra refused
  simp [State.checkClass, refused, illegalOperand] at checked

/-- A field for `k` registers admits no queue port. -/
theorem OpSet.not_queue_of_k {kind : Kind} {c : RegClass} (has : OpSet.k.has kind c = true) (n : Nat) : c ≠ .q n := by
  rintro rfl
  cases has

/-- A field for u registers admits no queue port. -/
theorem OpSet.not_queue_of_u {kind : Kind} {c : RegClass} (has : OpSet.u.has kind c = true) (n : Nat) : c ≠ .q n := by
  rintro rfl
  cases has

/-! ### The job of a context -/

/-- A change of a team that keeps its launch record keeps the job of every context. -/
theorem State.ctxJob_modTeam (s : State) (t : Nat) (f : Team → Team) (keeps : ∀ x, (f x).launch = x.launch) (c : Ctx) :
    (s.modTeam t f).ctxJob c = s.ctxJob c := by
  have launch (u : Nat) : ((s.modTeam t f).team u).launch = (s.team u).launch := by
    by_cases same : u = t
    · subst same
      unfold State.modTeam State.team tabGet
      cases found : tabFind u s.teams with
      | none => simp only [found]
      | some x => simp only [tabFind_tabSet_same, Option.getD_some, keeps]
    · rw [State.team_modTeam_other s f same]
  cases c with
  | group u g p => exact congrArg lrJob (launch u)
  | seq u => exact congrArg lrJob (launch u)
  | host k => simp only [State.ctxJob, State.host, State.col, State.modTeam_cols]

theorem State.ctxJob_modGroup (s : State) (t g : Nat) (f : Group → Group) (c : Ctx) :
    (s.modGroup t g f).ctxJob c = s.ctxJob c :=
  s.ctxJob_modTeam t _ (by intro; rfl) c

theorem State.ctxJob_modSeq (s : State) (t : Nat) (f : Seqr → Seqr) (c : Ctx) : (s.modSeq t f).ctxJob c = s.ctxJob c :=
  s.ctxJob_modTeam t _ (by intro; rfl) c

/-- A change of a host core that keeps `JOBSEL` keeps the job of every context. -/
theorem State.ctxJob_modHost (s : State) (k : Nat) (f : HostCore → HostCore) (keeps : ∀ h, (f h).jobsel = h.jobsel)
    (c : Ctx) : (s.modHost k f).ctxJob c = s.ctxJob c := by
  cases c with
  | group u g p => rfl
  | seq u => rfl
  | host n =>
    by_cases same : n = k
    · subst same; simp only [State.ctxJob, State.host_modHost, keeps]
    · simp only [State.ctxJob, State.host_modHost_other s f same]

theorem State.ctxJob_modK (s : State) (k : Ctx) (f : KFile → KFile) (c : Ctx) : (s.modK k f).ctxJob c = s.ctxJob c := by
  cases k with
  | group t g p => exact s.ctxJob_modGroup t g _ c
  | seq t => exact s.ctxJob_modSeq t _ c
  | host n => exact s.ctxJob_modHost n _ (by intro; rfl) c

theorem State.ctxJob_modMyGroup (s : State) (f : Group → Group) (c : Ctx) : (s.modMyGroup f).ctxJob c = s.ctxJob c := by
  unfold State.modMyGroup
  split
  · exact s.ctxJob_modGroup _ _ f c
  · rfl

theorem State.ctxJob_markRead (s : State) (o : Opd) (c : Ctx) : (s.markRead o).ctxJob c = s.ctxJob c := by
  unfold State.markRead
  generalize s.stateful o = l
  induction l generalizing s with
  | nil => rfl
  | cons r l ih =>
    refine (ih _).trans ?_
    dsimp only
    split
    · split
      · exact s.ctxJob_modK _ _ c
      · exact s.ctxJob_modMyGroup _ c
    · rfl

/-- Reading a register, which is no pop of a port, leaves the job of every context. -/
theorem State.ctxJob_readOpd (s : State) (o : Opd) (register : ∀ n, s.cls o ≠ .q n) (c : Ctx) :
    (s.readOpd o).2.ctxJob c = s.ctxJob c := by
  unfold State.readOpd
  split
  case h_1 | h_2 => exact s.ctxJob_markRead o c
  case h_4 n port => exact absurd port (register n)
  all_goals rfl

/-! ### The check of a capability (R164) -/

theorem Spec.bits_eq_bitsOf (c : BitVec 128) (lo n : Nat) : Spec.bits c lo n = bitsOf c.toNat lo n := by
  rw [Spec.bits, bitsOf, Nat.shiftRight_eq_div_pow]

/-- R160, R162: the three tests of `capck`, by the bits of the capability. -/
theorem State.capckTests_iff (t : State) (j : Nat) (c : Cap) :
    (t.tagGood j c && capJob c = j && 1 ≤ capType c && capType c ≤ 6) = true ↔
      c.toNat % 2 ^ 32 = capTag ((t.job j).key0.toNat + 2 ^ 64 * (t.job j).key1.toNat) (c.toNat / 2 ^ 32) ∧
        Spec.bits c 43 8 = j ∧ 1 ≤ Spec.bits c 124 4 ∧ Spec.bits c 124 4 ≤ 6 := by
  have tag : capTagOf c = c.toNat % 2 ^ 32 := by rw [capTagOf, bitsOf, Nat.shiftRight_zero]
  simp only [Bool.and_eq_true, decide_eq_true_eq, and_assoc, State.tagGood]
  rw [tag, State.jobKey, capJob, capType, Spec.bits_eq_bitsOf, Spec.bits_eq_bitsOf]

/-- What `capck` reads: the `k` pair of the capability, and no register of its destination. -/
theorem State.readAll_capck (s : State) (d a : RegNum) :
    s.readAll [srcKp a, dstU d] = ([(s.readOpd (srcKp a)).1], (s.readOpd (srcKp a)).2) := rfl

section
variable {s : State} {d a : RegNum}

/-- The state that `capck` reads its capability from and the one it writes its answer to differ in contexts alone, and have
the same job keys and the same job of the context. -/
theorem readAll_capck_of_ready (ready : s.ready [srcKp a, dstU d] = .ok ()) :
    let u := (s.readAll [srcKp a, dstU d]).2
    s.OnlyContexts u ∧ u.ctxJob u.cur = s.ctxJob s.cur := by
  have register := OpSet.not_queue_of_k (State.has_of_ready ready (srcKp a) (by simp))
  have only := s.readOpd_only (srcKp a) register
  refine ⟨only, ?_⟩
  rw [State.readAll_capck, only.cur]
  exact s.ctxJob_readOpd (srcKp a) register s.cur

/-- `capck` with its operands ready writes the answer of its tests. -/
theorem exec_capck_of_ready (ready : s.ready [srcKp a, dstU d] = .ok ()) :
    let u := (s.readAll [srcKp a, dstU d]).2
    let c := nthLanes (s.readAll [srcKp a, dstU d]).1 0 u.low
    let j := u.ctxJob u.cur
    exec (.capck d a) s = .next (u.writeOpd (dstU d) fun _ =>
      if u.tagGood j c && capJob c = j && 1 ≤ capType c && capType c ≤ 6 then 0 else 10).advance := by
  have arm : exec (.capck d a) s = execCapck d a s := rfl
  rw [arm, execCapck, State.operands_of_ready s _ ready]
  rfl

/-- R164: the answer of `capck` goes to a register of the issuing context. -/
theorem capck_onlyContexts (ready : s.ready [srcKp a, dstU d] = .ok ()) (f : Lanes) :
    s.OnlyContexts ((s.readAll [srcKp a, dstU d]).2.writeOpd (dstU d) f).advance := by
  obtain ⟨read, -⟩ := readAll_capck_of_ready ready
  have register := OpSet.not_queue_of_u (State.has_of_ready ready (dstU d) (by simp))
  have write := (s.readAll [srcKp a, dstU d]).2.writeOpd_only (dstU d) f (by simpa only [State.cls, State.kind, read.cur] using register)
  exact (read.trans write).trans (State.advance_only _)

end

/-! ### Words of `capck` (R74, R77) -/

/-- A mask that covers a field finds no bit of a word only where the word has 0 in the field. -/
theorem fld_eq_zero_of_and {w m : Word} {lo len : Nat} (covers : fld m lo len = BitVec.allOnes len) (none : w &&& m = 0) :
    fld w lo len = 0 := by
  have parts : fld (w &&& m) lo len = fld w lo len &&& fld m lo len := BitVec.extractLsb'_and
  rw [none, covers, BitVec.and_allOnes] at parts
  rw [← parts]
  exact BitVec.extractLsb'_zero

theorem decode_capck {w : Word} (major : w.toNat / 2 ^ 25 = 0x5E) (fn : w.toNat % 16 = 1) :
    decode w = keep w 0x000007F0 (.capck (fld w 18 7) (fld w 11 7)) := by
  have low : (fld w 0 4).toNat = 1 := by simpa [fld] using fn
  unfold decode
  rw [toNat_fld_major, major]
  simp only [low]

/-- Settles O31: `capck` writes the answer of its three tests to a register of its context and changes nothing else, and its
words reserve the field of `b`. -/
theorem capabilitiesAreCheckedLocally : Obligations.CapabilitiesAreCheckedLocally := by
  refine ⟨fun s d a => ?_, fun w major fn nonzero => ?_⟩
  · intro os ready u c j ok
    obtain ⟨read, job⟩ := readAll_capck_of_ready ready
    have only := capck_onlyContexts ready fun _ => if ok then 0 else 10
    refine ⟨_, ?_, rfl, only.sent, only.jobs, only.mem⟩
    have keys : u.job (s.ctxJob s.cur) = j := by rw [State.job, read.jobs]; rfl
    have tests := u.capckTests_iff (s.ctxJob s.cur) c
    rw [keys] at tests
    rw [exec_capck_of_ready ready, job, if_congr tests rfl rfl]
  · rw [decode_capck major fn]
    refine keep_of_reserved (fun none => nonzero ?_) rfl
    have field := fld_eq_zero_of_and (lo := 4) (len := 7) rfl none
    simpa [fld, Nat.shiftRight_eq_div_pow] using congrArg BitVec.toNat field

end Sys2Proof.Machine
end

section
/-! SUPPORT. Requests for operating points (R331): a request is decided by its reserved bits, its column and its target, and the
instruction that writes `ISREQ` leaves what the decision looks at. -/

namespace Sys2Proof.Machine

/-! ### The fields of a request -/

theorem bitsOf_eq (x lo n : Nat) : bitsOf x lo n = x / 2 ^ lo % 2 ^ n := by
  rw [bitsOf, Nat.shiftRight_eq_div_pow]

/-- The island number in `ISEL` (R330). -/
theorem bitsOf_isel (x : Nat) : bitsOf x 0 9 = x % 512 := by
  simp only [bitsOf_eq, Nat.pow_zero, Nat.div_one, Nat.reducePow]

theorem toSigned_eq_sgn (x : Nat) : toSigned 8 x = Spec.sgn 8 (x % 256) := by
  have sign : (x % 256).testBit 7 = decide (128 ≤ x % 256) := by
    rw [Nat.testBit_eq_decide_div_mod_eq]
    exact decide_eq_decide.2 (by omega)
  simp only [toSigned, Spec.sgn, Nat.reducePow, Nat.add_one_sub_one, sign, decide_eq_true_eq]
  split_ifs <;> omega

/-- The reserved bits of R331: [63:16], [14:8], and [7:4] of an absolute target. -/
theorem isreqReserved_iff (v : DWord) :
    isreqReserved v = true ↔
      v.toNat / 65536 ≠ 0 ∨ v.toNat / 256 % 128 ≠ 0 ∨ (v.getLsbD 15 = false ∧ 16 ≤ v.toNat % 256) := by
  have high : bitsOf v.toNat 16 48 = v.toNat / 65536 := by
    rw [bitsOf_eq]
    exact Nat.mod_eq_of_lt (Nat.div_lt_of_lt_mul v.isLt)
  have low : bitsOf v.toNat 4 4 ≠ 0 ↔ 16 ≤ v.toNat % 256 := by rw [bitsOf_eq]; omega
  simp only [isreqReserved, high, bitsOf_eq v.toNat 8 7, Bool.or_eq_true, Bool.and_eq_true, decide_eq_true_eq, low,
    Bool.not_eq_true', or_assoc, BitVec.getLsbD, bitOf, Nat.reducePow]

/-- The target that a request without reserved bits names, before the cap. -/
theorem isreqTarget_eq {v : DWord} (legal : ¬ isreqReserved v = true) (cur : BitVec 4) :
    isreqTarget cur v =
      if v.getLsbD 15 = true then (cur.toNat : Int) + Spec.sgn 8 (v.toNat % 256) else ((v.toNat % 256 : Nat) : Int) := by
  rw [isreqReserved_iff] at legal
  rw [isreqTarget, toSigned_eq_sgn, bitsOf_eq]
  refine ite_congr rfl (fun _ => rfl) fun absolute => ?_
  have small : ¬ 16 ≤ v.toNat % 256 := fun h => legal (.inr (.inr ⟨Bool.eq_false_iff.2 absolute, h⟩))
  omega

/-! ### The decision -/

/-- Why R331 denies a request: a reserved bit, a column that is out, or CRITICAL. -/
theorem denied_iff (col : Column) (v : DWord) :
    (isreqReserved v || col.out || decide (col.gov.level = 3)) = true ↔
      v.toNat / 65536 ≠ 0 ∨ v.toNat / 256 % 128 ≠ 0 ∨ (v.getLsbD 15 = false ∧ 16 ≤ v.toNat % 256) ∨
        col.svc.retired = true ∨ col.svc.failed = true ∨ col.gov.level = 3 := by
  simp only [Bool.or_eq_true, isreqReserved_iff, Column.out, decide_eq_true_eq, or_assoc]

/-- A target that is no FLOOR is capped alike as a number and as an integer. -/
theorem ofNat_min_toNat {t : Int} (above : ¬ t < 0) (lim : Nat) :
    BitVec.ofNat 4 (min t.toNat lim) = BitVec.ofInt 4 (min t lim) := by
  have whole : min t (lim : Int) = ((min t.toNat lim : Nat) : Int) := by omega
  rw [whole, BitVec.ofInt_natCast]

/-- R331: the model's decision of a request is the spec's. -/
theorem Island.request_eq_asked (now n : Nat) (col : Column) (v : DWord) (i : Island) :
    i.request now n col v = Spec.asked now n col v i := by
  unfold Island.request Spec.asked
  refine ite_congr (propext (denied_iff col v)) (fun _ => rfl) fun allowed => ?_
  refine ite_congr rfl (fun _ => rfl) fun _ => ?_
  have legal : ¬ isreqReserved v = true := fun h => allowed ((denied_iff col v).1 (by simp [h]))
  rw [isreqTarget_eq legal]
  refine ite_congr rfl (fun _ => rfl) fun above => ?_
  have cap : ((if n % 4 < 2 && 2 ≤ col.gov.level.toNat then col.gov.thcap.toNat else 15 : Nat) : Int) =
      if n % 4 < 2 ∧ 2 ≤ col.gov.level.toNat then (col.gov.thcap.toNat : Int) else 15 := by
    simp only [Bool.and_eq_true, decide_eq_true_eq, Nat.cast_ite, Nat.cast_ofNat]
  simp only [ofNat_min_toNat above, cap, Island.start, BitVec.lt_def, Int.lt_toNat]
  rfl

/-! ### `ISREQ` (R330, R331) -/

theorem State.island_modIsland_other (s : State) {i k : Nat} (f : Island → Island) (other : k ≠ i) :
    (s.modIsland i f).island k = s.island k :=
  tabGet_tabMod_other _ f _ other

/-- A write of `ISREQ` decides the request for the island that `ISEL` names, and changes that island alone. -/
theorem execIsreq_eq (col : Nat) (v : DWord) (s : State) :
    let n := (s.host col).isel.toNat % 512
    execIsreq col v s = .next (s.modIsland n (Spec.asked s.now n (s.col (n / 4)) v)) := by
  simp only [execIsreq, bitsOf_isel, ← funext (Island.request_eq_asked _ _ _ _)]

/-- A write of 0x201 by the host core of a column: no register of the core itself is written. -/
theorem State.next_sysWrite_isreq (s : State) (c : Nat) (v : DWord) :
    .next (s.sysWrite c 0x201 v) = execIsreq c v (s.modHost c id) := rfl

/-! ### What a decision looks at -/

/-- The parts of a column that a request looks at: its governor, its service and its `ISEL`. -/
def Column.requestView (c : Column) : Governor × Service × DWord := (c.gov, c.svc, c.host.isel)

/-- Every column shows requests the same. -/
def State.SameRequestView (s t : State) : Prop := ∀ k, (t.col k).requestView = (s.col k).requestView

namespace State.SameRequestView

variable {s t u : State}

theorem of_cols (cols : t.cols = s.cols) : s.SameRequestView t := fun k => by rw [State.col, cols]; rfl

theorem trans (h : s.SameRequestView t) (k : t.SameRequestView u) : s.SameRequestView u := fun c => (k c).trans (h c)

theorem isel (h : s.SameRequestView t) (c : Nat) : (t.host c).isel = (s.host c).isel :=
  congrArg (fun x : Governor × Service × DWord => x.2.2) (h c)

/-- A request is decided alike where columns show the same. -/
theorem asked (h : s.SameRequestView t) (now n k : Nat) (v : DWord) (i : Island) :
    Spec.asked now n (t.col k) v i = Spec.asked now n (s.col k) v i := by
  have gov : (t.col k).gov = (s.col k).gov := congrArg Prod.fst (h k)
  have svc : (t.col k).svc = (s.col k).svc := congrArg (fun x : Governor × Service × DWord => x.2.1) (h k)
  simp only [Spec.asked, gov, svc]

end State.SameRequestView

theorem State.modHost_sameRequestView (s : State) (c : Nat) (f : HostCore → HostCore) (keeps : ∀ h, (f h).isel = h.isel) :
    s.SameRequestView (s.modHost c f) := by
  intro k
  by_cases same : k = c
  · subst same
    rw [State.modHost, State.col_modCol, Column.requestView, keeps]
    rfl
  · rw [State.modHost, State.col_modCol_other _ _ same]

theorem State.modK_sameRequestView (s : State) (c : Ctx) (f : KFile → KFile) : s.SameRequestView (s.modK c f) := by
  cases c with
  | group t g p => exact .of_cols (s.modGroup_cols t g _)
  | seq t => exact .of_cols (s.modSeq_cols t _)
  | host k => exact s.modHost_sameRequestView k _ fun _ => rfl

theorem State.modMyGroup_sameRequestView (s : State) (f : Group → Group) : s.SameRequestView (s.modMyGroup f) := by
  unfold State.modMyGroup
  split
  · exact .of_cols (s.modGroup_cols _ _ f)
  · exact .of_cols rfl

theorem State.markRead_sameRequestView (s : State) (o : Opd) : s.SameRequestView (s.markRead o) := by
  unfold State.markRead
  generalize s.stateful o = l
  induction l generalizing s with
  | nil => exact .of_cols rfl
  | cons r l ih =>
    refine .trans ?_ (ih _)
    dsimp only
    split
    · split
      · exact s.modK_sameRequestView _ _
      · exact s.modMyGroup_sameRequestView _
    · exact .of_cols rfl

/-- Reading a register, which is no pop of a port, leaves what requests look at. -/
theorem State.readOpd_sameRequestView (s : State) (o : Opd) (register : ∀ n, s.cls o ≠ .q n) :
    s.SameRequestView (s.readOpd o).2 := by
  unfold State.readOpd
  split
  case h_1 | h_2 => exact s.markRead_sameRequestView o
  case h_4 n port => exact absurd port (register n)
  all_goals exact .of_cols rfl

/-! ### `sysw` of `ISREQ` (R232) -/

section
variable {s : State} {c : Nat} {d : RegNum}

/-- A host core at supervisor level or above may reach 0x201. -/
theorem sysCheck_isreq (host : s.cur = .host c) (level : 1 ≤ (s.host c).pl.toNat) (i : Instr) :
    s.sysCheck i 0x201 = .ok () := by
  have reached : numberLevel 0x201 = some 1 := by decide
  simp only [State.sysCheck, State.kind, host, kindOf, reached, State.ctxLevel, Nat.not_lt.2 level, if_false]

/-- The state in which a host core that writes `ISREQ` decides the request: the operand is read and the core goes on. -/
def State.atRequest (s : State) (c : Nat) (d : RegNum) : State := (s.readAll [srcU d]).2.advance.modHost c id

/-- With its operand ready, `sysw` of `ISREQ` is the write of `ISREQ`. -/
theorem exec_sysw_isreq (host : s.cur = .host c) (ready : s.ready [srcU d] = .ok ()) (level : 1 ≤ (s.host c).pl.toNat) :
    exec (.sysw d 0x201) s =
      execIsreq c ((nthLanes (s.readAll [srcU d]).1 0 0).setWidth 64) (s.atRequest c d) := by
  have arm : exec (.sysw d 0x201) s = execSysw d 0x201 s := rfl
  have number : (0x201 : BitVec 11).toNat = 0x201 := rfl
  rw [arm, execSysw, number, sysCheck_isreq host level, State.operands_of_ready s _ ready]
  simp only [bind, Except.bind, host, Nat.reduceEqDiff, decide_false, Bool.false_and, Bool.false_eq_true, if_false,
    conclude_ok]
  exact State.next_sysWrite_isreq _ c _

/-- Up to the decision only contexts change, and nothing that a request looks at. -/
theorem atRequest_same (host : s.cur = .host c) (ready : s.ready [srcU d] = .ok ()) :
    s.OnlyContexts (s.atRequest c d) ∧ s.SameRequestView (s.atRequest c d) := by
  have register := OpSet.not_queue_of_u (State.has_of_ready ready (srcU d) (by simp))
  have read := s.readOpd_only (srcU d) register
  have advance : (s.readOpd (srcU d)).2.SameRequestView (s.readOpd (srcU d)).2.advance := by
    rw [State.advance, read.cur, host]
    exact State.modHost_sameRequestView _ c _ fun _ => rfl
  have view := (s.readOpd_sameRequestView (srcU d) register).trans advance
  exact ⟨(read.trans (State.advance_only _)).trans (State.modHost_only _ c id),
    view.trans (State.modHost_sameRequestView _ c id fun _ => rfl)⟩

end

/-! ### `ISTAT` (R330) -/

/-- `ISTAT` reads status, point, target, STEP and CAPPED of the island that `ISEL` names. -/
theorem toNat_sysValue_istat (s : State) (c : Nat) :
    let i := s.island ((s.host c).isel.toNat % 512)
    (s.sysValue c 0x202).toNat = i.status.toNat + 2 ^ 8 * i.point.toNat + 2 ^ 16 * i.target.toNat +
      (if i.step = true then 2 ^ 20 else 0) + (if i.capped = true then 2 ^ 21 else 0) := by
  rw [← bitsOf_isel]
  intro i
  have value : s.sysValue c 0x202 = BitVec.ofNat 64 (i.status.toNat + field i.point.toNat 8 + field i.target.toNat 16 +
      field (b2n i.step) 20 + field (b2n i.capped) 21) := rfl
  have status := i.status.isLt
  have point := i.point.isLt
  have target := i.target.isLt
  rw [value, BitVec.toNat_ofNat]
  simp only [field, b2n]
  split_ifs <;> omega

/-- Settles O57: `ISREQ` is decided by the island it names and the column of that island, which the `sysw` leaves as they were. -/
theorem islandRequestsAreDecided : Obligations.IslandRequestsAreDecided := by
  refine ⟨fun s col v => ?_, fun s c d host ready level => ?_, toNat_sysValue_istat⟩
  · exact ⟨_, execIsreq_eq col v s, rfl, s.island_modIsland _ _, fun m other => s.island_modIsland_other _ other⟩
  · intro v n
    obtain ⟨only, same⟩ := atRequest_same host ready
    have now : (s.atRequest c d).now = s.now := by rw [only]
    have islands (k : Nat) : (s.atRequest c d).island k = s.island k := by rw [only]; rfl
    refine ⟨_, (exec_sysw_isreq host ready level).trans (execIsreq_eq c v _), ?_⟩
    rw [same.isel, now]
    refine ⟨?_, fun m other => ?_, same.isel c⟩
    · rw [State.island_modIsland, same.asked, islands]
    · rw [State.island_modIsland_other _ _ other, islands]

end Sys2Proof.Machine
end
